-- ==== Sys2Proof/Word.lean ====
section
/-! DEFINITION. The word types of Valarn 2 (spec/00 R3, spec/03 R61): plain abbreviations of bit vectors. -/

namespace Sys2Proof

/-- One byte. -/
abbrev Byte := BitVec 8

/-- A 64-bit word: an instruction word (R61), an entry value (R91), a dword of a table. -/
abbrev Word := BitVec 64

/-- One bit per lane of a wave (R27). -/
abbrev LaneMask := BitVec 32

/-- A 57-bit virtual address (R24). -/
abbrev VAddr := BitVec 57

end Sys2Proof
end

