-- ==== Sys2Proof/Syntax.lean ====
section
/-! DEFINITION. The syntax of Valarn 2: one constructor of `Instr` per row of the opcode table. The first rows are the
encoded instructions of spec/03 R81, each carrying its decoded words as a `Form`; the later rows are the device's own
steps (spec/95), each carrying what identifies the step. -/

namespace Sys2Proof

/-- R72: the format tags, which are also the TY encoding. -/
inductive Ty where
  | empty | raw | i32 | n32 | i64 | n64 | ptr | mask | f32 | f64 | f16x2 | bf16x2 | f8x4 | f8x4e5 | cb4x16 | fx64
deriving DecidableEq, Repr

/-- R64: what a source field names. The 64 codes name exactly these. -/
inductive Src where
  | age (i : Fin 16)      -- 0x00-0x0F: q(i+1)
  | frame (i : Fin 32)    -- 0x10-0x2F: f(i)
  | const (k : Fin 8)     -- 0x30-0x37: typed constant (R65)
  | lane                  -- 0x38
  | wslot                 -- 0x39
  | x13                   -- 0x3A
  | imm                   -- 0x3B
  | inbox (k : Fin 4)     -- 0x3C-0x3F
deriving DecidableEq, Repr

/-- R62, R68: the destination select. -/
inductive DS where
  | push | pushFrame | frame | discard
deriving DecidableEq, Repr

/-- R70: the guard of an instruction. -/
structure Guard where
  inv : Bool
  p   : Fin 8
deriving DecidableEq, Repr

/-- R75: the rounding field; 0b110 and 0b111 are reserved and have no constructor. -/
inductive Rnd where
  | dflt | rne | rtz | rup | rdn | rna
deriving DecidableEq, Repr

/-- R75: the clamp field, with its bounds where it has them. -/
inductive Clamp where
  | none | unit | sym
  | bounds (hi lo : BitVec 16)
deriving DecidableEq, Repr

/-- R75: the modifier word. -/
structure Modifier where
  na : Bool
  aa : Bool
  nb : Bool
  ab : Bool
  nc : Bool
  ac : Bool
  sat : Bool
  clamp : Clamp
  scale : BitVec 6
  rnd : Rnd
  raw : Bool
deriving DecidableEq, Repr

/-- R61, R62: the fields of an encoded instruction other than its major opcode and function, which the constructor of
`Instr` names. `packed` is FN[6] in the majors of R74. -/
structure Form where
  guard : Guard
  ds : DS
  fd : BitVec 5
  sa : Src
  sb : Src
  sc : Src
  packed : Bool
  ty : Ty
  st : Bool
  modw : Option Modifier
  imm : Option Word
  x13 : BitVec 13
deriving DecidableEq, Repr

/-- R122: the integer conditions. -/
inductive Cond where
  | eq | ne | lt | le | gt | ge
deriving DecidableEq, Repr

/-- R164: the float conditions. -/
inductive FCond where
  | eq | ne | lt | le | gt | ge | ord | uno
deriving DecidableEq, Repr

/-- R141: the operations of `wred` and `wscan`. -/
inductive RedOp where
  | add | min | max | and | or | xor
deriving DecidableEq, Repr

/-- R300: the operations at a bank. -/
inductive AtomOp where
  | add | min | max | and | or | xor | xchg | cas | fadd | bfadd | xadd
deriving DecidableEq, Repr

/-- R347: the two meshes. -/
inductive Mesh where
  | request | reply
deriving DecidableEq, Repr

/-- R348: the header fields of a flit and its payload. -/
structure Flit where
  dx : Nat
  dy : Nat
  src : Nat
  age : Nat
  pkt : Nat
  idx : Nat
  cnt : Nat
  br : Bool
  ctx : Nat
  payload : List Byte
deriving DecidableEq, Repr

/-- R438, R439: the units that can fail or be mapped out. -/
inductive Part where
  | quad (pos : Nat)
  | slice (die index : Nat)
  | stack (die index : Nat)
  | bank (die index : Nat)
deriving DecidableEq, Repr

/-- R432: what a debugger may write of a halted wave. -/
inductive DebugItem where
  | queue (lane age : Nat)
  | frame (lane slot : Nat)
  | pred (lane p : Nat)
  | emask (split : Nat)
  | fpFlags
  | intFlag
deriving DecidableEq, Repr

/-- R437: what power-up finds: the units that fail self-test. -/
structure SelfTest where
  failedQuads : List (Nat × Nat)
  failedStacks : Nat
  failedBanks : Nat
  failedSlices : List (Nat × Nat)
deriving DecidableEq, Repr

/-- R424, R426: a native image that the loader has placed in a context: where its code starts, its kernel index, and its live maps. -/
structure CodeImage where
  base : VAddr
  kernel : Nat
  live : List Byte
deriving DecidableEq, Repr

/-- R364, R448: where a new context stands: the block of its registers and the function it is assigned to. -/
structure CtxPlace where
  block : Nat
  fn : Nat
deriving DecidableEq, Repr

/-- R254, R424: what a new context starts with: its page-table root and the images loaded for it. -/
structure CtxProgram where
  ptRoot : Nat
  images : List CodeImage
deriving DecidableEq, Repr

/-- R364, R445: who accesses BAR0: firmware, or the host through a function: 0 the physical one, 1 to 32 a virtual one. -/
inductive Master where
  | firmware
  | function (n : Nat)
deriving DecidableEq, Repr

/-- R435: the memories a host may write. -/
inductive HostSpace where
  | hbm | abacus | host
deriving DecidableEq, Repr

/-- R273, R358, R362: a packet of another package, from a source there: a store into a version at its home in this package, the
commit of the source's versions here, or an operation at one of this package's Abacus banks. `num` is its place among the requests of
its source for the same 64-byte sector. -/
inductive Packet where
  | store (src num addr : Nat) (bytes : List Byte)
  | commit (src : Nat)
  | bank (src num addr : Nat) (op : AtomOp) (ty : Ty) (operand operand2 : Word)
deriving DecidableEq, Repr

/-- The rows of the opcode table. -/
inductive Instr where
  /-- R112: Does nothing; with ST set it is a safe point. -/
  | nop (f : Form)
  /-- R113: Pushes or writes a + b under the modifier steps of R77. -/
  | iadd (f : Form)
  /-- R113: Delivers a - b under R77. -/
  | isub (f : Form)
  /-- R113: Delivers a × b under R77. -/
  | imul (f : Form)
  /-- R113: Delivers the high w bits of the 2w-bit product. -/
  | imulh (f : Form)
  /-- R113: Delivers a × b + c under R77. -/
  | imad (f : Form)
  /-- R114: Delivers the truncated quotient; a zero divisor gives all ones and sets the integer sticky flag. -/
  | idiv (f : Form)
  /-- R114: Delivers the remainder with the sign of a; a zero divisor gives all ones and sets the integer flag. -/
  | irem (f : Form)
  /-- R113: Delivers |a - b| under R77. -/
  | iabsd (f : Form)
  /-- R113: Delivers the smaller of a and b. -/
  | imin (f : Form)
  /-- R113: Delivers the larger of a and b. -/
  | imax (f : Form)
  /-- R115: Delivers the w-bit sum a + b + c[0] and then the unsigned carry. -/
  | iaddc (f : Form)
  /-- R116: Delivers (a + (b' << s)) modulo 2^57 with tag PTR. -/
  | lea (f : Form)
  /-- R117: Shifts a left by n, zero-filling. -/
  | shl (f : Form)
  /-- R117: Shifts a right by n, zero-filling. -/
  | shr (f : Form)
  /-- R117: Shifts a right by n, filling with its top bit. -/
  | sar (f : Form)
  /-- R117: Rotates a left by n modulo w. -/
  | rotl (f : Form)
  /-- R118: Delivers a AND b. -/
  | and (f : Form)
  /-- R118: Delivers a OR b. -/
  | or (f : Form)
  /-- R118: Delivers a XOR b. -/
  | xor (f : Form)
  /-- R118: Delivers a AND NOT b. -/
  | andn (f : Form)
  /-- R118: Delivers NOT a. -/
  | not (f : Form)
  /-- R119: Delivers the number of set bits of a with tag N32. -/
  | popc (f : Form)
  /-- R119: Delivers the count of leading zero bits of a. -/
  | clz (f : Form)
  /-- R119: Delivers the count of trailing zero bits of a. -/
  | ctz (f : Form)
  /-- R119: Delivers a with its bits reversed. -/
  | brev (f : Form)
  /-- R120: Extracts and extends a bit field of a. -/
  | bfx (f : Form)
  /-- R120: Inserts the low len bits of b into a at pos. -/
  | bfi (f : Form)
  /-- R121: Delivers bytes of a and b selected by the nibbles of c. -/
  | perm (f : Form)
  /-- R122: Writes a predicate with the integer comparison of a and b. -/
  | icmp (c : Cond) (f : Form)
  /-- R123: Delivers a where the predicate holds and b elsewhere. -/
  | sel (f : Form)
  /-- R124: Writes pd := A AND B. -/
  | pand (f : Form)
  /-- R124: Writes pd := A OR B. -/
  | por (f : Form)
  /-- R124: Writes pd := A XOR B. -/
  | pxor (f : Form)
  /-- R124: Writes pd := NOT A. -/
  | pnot (f : Form)
  /-- R124: Writes pd := A. -/
  | pmov (f : Form)
  /-- R125: Writes pd in lane l from bit l of a mask. -/
  | ptest (f : Form)
  /-- R128: Delivers the value of its source. -/
  | mov (f : Form)
  /-- R131: Removes n queue entries from qa in every home-set lane. -/
  | drop (f : Form)
  /-- R129: Exchanges two entries with their tags, pending bits and bindings. -/
  | swap (f : Form)
  /-- R130: Moves qn to q1 and shifts the younger entries one age older. -/
  | rot (f : Form)
  /-- R132: Pushes n EMPTY entries in each lane. -/
  | pad (f : Form)
  /-- R133: Delivers the number of non-EMPTY queue entries. -/
  | qdepth (f : Form)
  /-- R134: Delivers the tag and pending bit of an entry without reading its value. -/
  | qtag (f : Form)
  /-- R135: Delivers the value of x with tag TY. -/
  | retag (f : Form)
  /-- R137: Delivers the value of the lane indexed by b. -/
  | shflIdx (f : Form)
  /-- R137: Delivers the value of lane l - b. -/
  | shflUp (f : Form)
  /-- R137: Delivers the value of lane l + b. -/
  | shflDown (f : Form)
  /-- R137: Delivers the value of lane l XOR b. -/
  | shflXor (f : Form)
  /-- R138: Delivers one lane's value to every active lane. -/
  | bcast (f : Form)
  /-- R139: Writes pd with the AND of a predicate over the active set. -/
  | voteAll (f : Form)
  /-- R139: Writes pd with the OR of a predicate over the active set. -/
  | voteAny (f : Form)
  /-- R139: Delivers the mask of active lanes where the predicate holds. -/
  | voteBallot (f : Form)
  /-- R140: Delivers the mask of active lanes holding an equal entry. -/
  | matchLanes (f : Form)
  /-- R142: Reduces the active lanes in a fixed tree and delivers the result to all of them. -/
  | wred (o : RedOp) (f : Form)
  /-- R143: Delivers an inclusive or exclusive scan over the active lanes in a fixed order. -/
  | wscan (o : RedOp) (x : Bool) (f : Form)
  /-- R159: Delivers a + b rounded once. -/
  | fadd (f : Form)
  /-- R159: Delivers a - b rounded once. -/
  | fsub (f : Form)
  /-- R159: Delivers a × b rounded once. -/
  | fmul (f : Form)
  /-- R159: Delivers a × b + c with one rounding. -/
  | ffma (f : Form)
  /-- R159: Delivers a ÷ b correctly rounded. -/
  | fdiv (f : Form)
  /-- R159: Delivers the square root of a correctly rounded. -/
  | fsqrt (f : Form)
  /-- R159: Delivers a two-element dot product plus c with one rounding to F32. -/
  | fdot2 (f : Form)
  /-- R161: Delivers IEEE minimumNumber of a and b. -/
  | fminNum (f : Form)
  /-- R161: Delivers IEEE minimum of a and b. -/
  | fmin (f : Form)
  /-- R161: Delivers IEEE maximumNumber of a and b. -/
  | fmaxNum (f : Form)
  /-- R161: Delivers IEEE maximum of a and b. -/
  | fmax (f : Form)
  /-- R162: Rounds a to an integral value by RND. -/
  | frnd (f : Form)
  /-- R162: Delivers a - floor(a) rounded down. -/
  | ffract (f : Form)
  /-- R162: Delivers a × 2^b with one rounding. -/
  | fldexp (f : Form)
  /-- R162: Delivers the mantissa and then the exponent of a. -/
  | ffrexp (f : Form)
  /-- R162: Delivers the bits of a with the sign of b. -/
  | fcopysign (f : Form)
  /-- R163: Delivers the class mask of a. -/
  | fclass (f : Form)
  /-- R164: Writes a predicate with the floating-point comparison of a and b. -/
  | fcmp (c : FCond) (f : Form)
  /-- R165: Converts a float to another float format. -/
  | cvt (f : Form)
  /-- R165: Converts a float scaled by 2^k to an integer. -/
  | cvti (f : Form)
  /-- R165: Converts an integer scaled by 2^k to a float. -/
  | cvtf (f : Form)
  /-- R165: Packs two rounded F32 values into a half pair. -/
  | pack2 (f : Form)
  /-- R165: Delivers the two halves of a pair as exact F32 values. -/
  | unpk2 (f : Form)
  /-- R165: Packs four half-precision elements into one FP8 quad, optionally flushing subnormals. -/
  | f8pack (f : Form)
  /-- R165: Unpacks four FP8 elements into two half pairs. -/
  | f8unpk (f : Form)
  /-- R166: Replaces all sixteen entries of a codebook register at once. -/
  | cbkld (f : Form)
  /-- R167: Decodes four CB4 codes through a codebook into two BF16 pairs. -/
  | cbkdec (f : Form)
  /-- R168: Delivers the reciprocal within its bound. -/
  | rcp (f : Form)
  /-- R168: Delivers the reciprocal square root within its bound. -/
  | rsq (f : Form)
  /-- R168: Delivers an approximate square root. -/
  | sqrta (f : Form)
  /-- R168: Delivers 2^a within its bound. -/
  | exp2 (f : Form)
  /-- R168: Delivers log2 a within its bound. -/
  | log2 (f : Form)
  /-- R168: Delivers sin(πa) within its bound. -/
  | sinpi (f : Form)
  /-- R168: Delivers cos(πa) within its bound. -/
  | cospi (f : Form)
  /-- R169: Delivers sinpi(a) and then cospi(a), bitwise as the separate forms. -/
  | sincospi (f : Form)
  /-- R168: Delivers tanh a within its bound. -/
  | tanh (f : Form)
  /-- R196: Zeroes a tile, clears its flags, sets its anchor and row progress 0. -/
  | az (f : Form)
  /-- R196: Resolves every element and re-anchors the tile. -/
  | anch (f : Form)
  /-- R189: Starts an asynchronous accumulation of A × B into a tile by K steps. -/
  | mma (f : Form)
  /-- R190: Starts an mma that skips 8 × 8 blocks of A marked in a bitmap. -/
  | mmas (f : Form)
  /-- R184: Waits until earlier stores and visible values are visible to the matrix load pipes. -/
  | mfence (f : Form)
  /-- R183: Waits for the wave's operations on a tile, or on all tiles, and frees their slots. -/
  | mwait (f : Form)
  /-- R194: Writes the gang register of the task on its core. -/
  | gang (f : Form)
  /-- R197: Replaces every element of a tile by its canonical form. -/
  | res (f : Form)
  /-- R198: Delivers a resolved row of a tile as F32, BF16 or FX64. -/
  | resv (f : Form)
  /-- R199: Writes a predicate comparing each element of a row with t. -/
  | acmp (f : Form)
  /-- R200: Writes a predicate pair giving the sign class of each element of a row from its held words. -/
  | asgn (f : Form)
  /-- R202: Starts an asynchronous store of a tile's redundant or canonical image. -/
  | astr (f : Form)
  /-- R202: Starts an asynchronous load of a tile image into a tile. -/
  | ald (f : Form)
  /-- R203: Adds each element of xs into xd by one carry-save step. -/
  | aadd (f : Form)
  /-- R201: Delivers the s, c and guard words of a row without resolving. -/
  | avld (f : Form)
  /-- R193: Delivers the row progress of a tile. -/
  | mrow (f : Form)
  /-- R204: Delivers the largest exponent of the source elements over the active lanes. -/
  | mxexp (f : Form)
  /-- R211: Transfers the whole split when its guard holds in any active lane. -/
  | bra (f : Form)
  /-- R212: Pushes a mark and divides the split into taken and untaken splits. -/
  | brs (f : Form)
  /-- R214: Checks the top mark and push count and makes the split arrive at the rejoin. -/
  | rejoin (f : Form)
  /-- R218: Pushes a mark and groups the active lanes by target into splits. -/
  | jmpi (f : Form)
  /-- R220: Saves the caller queue, opens a callee queue with n arguments and branches. -/
  | call (f : Form)
  /-- R219: Groups lanes by target and calls each group in turn. -/
  | calli (f : Form)
  /-- R99: Restores the caller queue and pushes n callee results. -/
  | ret (f : Form)
  /-- R224: Removes the active lanes from the split and frees it when its home set empties. -/
  | exit (f : Form)
  /-- R225: Delivers the split's emask. -/
  | maskrd (f : Form)
  /-- R225: Sets emask within the home set from the lowest home-set lane's value. -/
  | maskwr (f : Form)
  /-- R227: Makes the split not ready until other ready splits have issued or 64 cc pass. -/
  | yield (f : Form)
  /-- R227: Makes the split not ready for 16 × n cc. -/
  | sleep (f : Form)
  /-- R213: Decrements a frame slot and branches if any active lane is non-zero. -/
  | loop (f : Form)
  /-- R228: Raises SWTRAP when the guard holds in any active lane. -/
  | trap (f : Form)
  /-- R228: Raises BREAK when the guard holds in any active lane. -/
  | brk (f : Form)
  /-- R226: Delivers the home set, top mark or split-count information. -/
  | splitrd (f : Form)
  /-- R294: Reserves a pending result and requests a load from the resolved address. -/
  | ld (f : Form)
  /-- R295: Requests N consecutive elements as one access. -/
  | ldv (f : Form)
  /-- R296: Delivers a value from the launch's captured parameter block. -/
  | ldp (f : Form)
  /-- R298: Writes the low bits of v at the resolved address in each active lane. -/
  | st (f : Form)
  /-- R299: Writes N elements as one access. -/
  | stv (f : Form)
  /-- R297: Requests a line fill into the L1 or LLC without faulting. -/
  | pref (f : Form)
  /-- R300: Sends a read-modify-write to the bank and reserves its returned old value. -/
  | atom (o : AtomOp) (f : Form)
  /-- R300: Sends a read-modify-write to the bank with no returned value. -/
  | red (o : AtomOp) (f : Form)
  /-- R304: Combines a range of Abacus elements with a scratchpad array in one bank request. -/
  | abupd (f : Form)
  /-- R305: Reduces a range of Abacus elements left to right, optionally clearing them. -/
  | abred (f : Form)
  /-- R306: Waits on the yo-yo allowance, fences at domain scope, then performs a boundary of its core. -/
  | phase (f : Form)
  /-- R276: Waits until earlier accesses are performed with respect to the named scope. -/
  | fence (f : Form)
  /-- R282: Fences, commits, waits for a heartbeat tick and enters. -/
  | fencesc (f : Form)
  /-- R308: Invalidates a range's home, visitor, L1 and own version lines without write-back. -/
  | discard (f : Form)
  /-- R309: Writes dirty home lines of a range to HBM and keeps them valid. -/
  | wback (f : Form)
  /-- R310: Invalidates the core's L1 lines and die visitor copies of a range. -/
  | inval (f : Form)
  /-- R335: Fences and enqueues a command chain on a copy engine, delivering a handle. -/
  | copy (f : Form)
  /-- R336: Delivers the status word of a chain. -/
  | cstat (f : Form)
  /-- R326: Validates a tensor descriptor image and seals it into the descriptor table. -/
  | tdesc (f : Form)
  /-- R316: Binds a circular buffer to slots and resets its counters. -/
  | cbinit (f : Form)
  /-- R318: Waits until filled ≥ n and delivers the head slot offset. -/
  | cbwait (f : Form)
  /-- R319: Advances the head by n and returns the slots to free. -/
  | cbpop (f : Form)
  /-- R319: Publishes the n oldest taken unpublished slots. -/
  | cbsig (f : Form)
  /-- R318: Waits until free ≥ n, takes n slots and delivers the first offset. -/
  | cbfree (f : Form)
  /-- R324: Inverts a ring slot's phase and writes its payload. -/
  | spost (f : Form)
  /-- R324: Waits until a ring slot's phase equals ph and delivers its payload. -/
  | swait (f : Form)
  /-- R341: Sends an active message from each active lane to a core. -/
  | send (f : Form)
  /-- R337: Waits until the head slot of an inbox is filled. -/
  | inwait (f : Form)
  /-- R338: Pops the oldest notification entry of the context. -/
  | nqpop (f : Form)
  /-- R372: Arrives at a group barrier and waits for its release. -/
  | gbar (f : Form)
  /-- R372: Commits and counts an arrival at a group barrier. -/
  | garr (f : Form)
  /-- R372: Waits for release of the wave's arrival and enters. -/
  | gwait (f : Form)
  /-- R374: Writes a value and tag into a group slot. -/
  | gset (f : Form)
  /-- R374: Requests a group slot's value and tag. -/
  | gget (f : Form)
  /-- R382: Commits its core and hands a launch descriptor to the launch unit. -/
  | launch (f : Form)
  /-- R388: Delivers a special register. -/
  | srd (f : Form)
  /-- R388: Writes a writable special register. -/
  | swr (f : Form)
  /-- R378: Resolves a place word and delivers its position without trapping on range. -/
  | place (f : Form)
  /-- R384: Sets, clears or replaces the page-table entries of a page's group. -/
  | ptset (f : Form)
  /-- R385: Starts removal of the context's translations of a range. -/
  | tlbinv (f : Form)
  /-- R387: Reads, and optionally resets, a page's access counter. -/
  | pgcnt (f : Form)
  /-- R383: The host writes a launch queue's TAIL, rejected if it overruns the ring. -/
  | launchQueueTailWrite (queue : Nat) (value : Word)
  /-- R40: The launch unit reads and checks a descriptor, gives it an identifier and captures its images. -/
  | launchAccept (queue : Option Nat)
  /-- R40: Acceptance waiting on an unmapped page resumes after a covering invalidation. -/
  | acceptanceResume (queue : Option Nat)
  /-- R37: A launch retires when every task has ended and committed its version. -/
  | launchRetire (ctx launchId : Nat)
  /-- R35: Every 4,096 cc a wave with spilled records swaps its longest-loaded split. -/
  | splitSwapPeriod (wave : Nat)
  /-- R35: A swap delayed while the chosen split is in issue is made when it leaves issue. -/
  | splitSwapDeferred (wave : Nat)
  /-- R93: Arriving data fills its bound entry and clears the pending bit, or is discarded if unbound or frozen. -/
  | longLatencyArrival (wave seq : Nat)
  /-- R105: A completion or reply fills its reserved inbox slot and ends any sleep of the wave. -/
  | inboxDelivery (index : Nat)
  /-- R227: A sleeping split becomes ready when its sleep remainder runs out. -/
  | sleepExpiry (wave split : Nat)
  /-- R227: A yielding split becomes ready after its peers issued or 64 cc. -/
  | yieldEnd (wave split : Nat)
  /-- R192: The quad governor grants leave to a waiting matrix operation or chain. -/
  | leaveGrant (quad : Nat)
  /-- R189: A K step applies to every element of the tile and row progress advances. -/
  | matrixKstepComplete (wave slot : Nat)
  /-- R191: An mma or mmas completes its last K step. -/
  | matrixOpComplete (wave slot : Nat)
  /-- R195: When every gang member has issued its n-th gang-flagged operation they run as one joint operation. -/
  | gangJoin (task core : Nat)
  /-- R202: An astr or ald completes moving its tile image. -/
  | tileTransferComplete (wave slot : Nat)
  /-- R267: Boundary requests that arrived during a boundary start one further boundary after it. -/
  | mergedBoundaryStart (core : Nat)
  /-- R266: Every write and invalidation of a commit is acknowledged and its awaited commits are complete. -/
  | commitComplete (core : Nat)
  /-- R275: A core receives a neighbour's changed core phase number. -/
  | neighbourNumberReceived (task core neighbour : Nat)
  /-- R282: The 1,024 cc guard after a domain tick ends and the fencesc enters. -/
  | fencescGuardExpiry (wave split : Nat)
  /-- R256: A table walk completes and the access proceeds or faults by its outcome. -/
  | tableWalkComplete (wave seq : Nat)
  /-- R257: An invalidation completes once translated accesses have landed, releasing waits. -/
  | tlbinvComplete (index : Nat)
  /-- R256: The host invalidates translations, completing like a tlbinv. -/
  | hostInvalidation (ctx : Nat) (va : VAddr) (size : Nat)
  /-- R241: A fill arrives, serves its joined requests and is installed unless a phase entry intervened. -/
  | l1Fill (core line : Nat)
  /-- R245: A home line is evicted after its recorded copies are invalidated. -/
  | llcEviction (line : Nat)
  /-- R244: The remainder of an image that does not fit is written to HBM. -/
  | toyboxSpill (task : Nat)
  /-- R250: An Abacus bank executes an arriving Immediate-class request. -/
  | bankOperation (index : Nat)
  /-- R418: An endpoint's acknowledgment frees the unit's filter entry. -/
  | filterAcknowledgment (index : Nat)
  /-- R331: A copy engine moves every element of SD through DD. -/
  | chainMove (quad engine : Nat)
  /-- R333: A copy engine moves the slices of SD chosen by an index descriptor. -/
  | chainGather (quad engine : Nat)
  /-- R330: A LOOP entry counts down and jumps back with advanced offsets. -/
  | chainLoop (quad engine : Nat)
  /-- R330: An IF entry tests a counter or ring phase and skips entries. -/
  | chainIf (quad engine : Nat)
  /-- R330: A SIGNAL entry publishes buffer slots or posts a ring after earlier writes. -/
  | chainSignal (quad engine : Nat)
  /-- R330: A WAITCB entry waits until a buffer counter reaches n. -/
  | chainWaitcb (quad engine : Nat)
  /-- R330: An END entry completes the chain and fills its inbox slot with the status word. -/
  | chainEnd (quad engine : Nat)
  /-- R332: When every byte of a CBD transfer has landed the slot is published. -/
  | slotLanding (quad engine : Nat)
  /-- R322: After 4,096 stalled cc a quad enlarges its smallest full buffer from the spare pool. -/
  | quadStallEnlarge (quad : Nat)
  /-- R341: An active message is accepted into a core's queue, or refused when it is full. -/
  | messageAccept (index : Nat)
  /-- R341: A refused message is resent after 64 cc. -/
  | messageResend (index : Nat)
  /-- R342: A free handler slot spawns a handler wave for the oldest queued message. -/
  | handlerSpawn (core : Nat)
  /-- R340: A held notification is written when the full queue gains room. -/
  | heldNotificationWrite (ctx : Nat)
  /-- R338: The host advances the notification queue head, rejected if it moves back or past the tail. -/
  | cxNqheadWrite (block : Nat) (value : Word)
  /-- R353: An endpoint injects a flit into a free productive output within its allowance. -/
  | flitInject (mesh : Mesh) (flit : Flit)
  /-- R351: A router ranks arriving flits and sends each to its productive or a deflection port. -/
  | flitRoute (mesh : Mesh) (x y : Nat)
  /-- R352: A destination accepts a flit directly or into its packet's reassembly slot. -/
  | flitAccept (mesh : Mesh) (x y : Nat) (bridge : Bool)
  /-- R359: A reassembly slot holding every flit hands the packet to its unit. -/
  | packetReassembled (mesh : Mesh) (endpoint slot : Nat)
  /-- R360: An incomplete slot is freed after 1,048,576 cc and a REASSEMBLY notification posted. -/
  | reassemblyTimeout (mesh : Mesh) (endpoint slot : Nat)
  /-- R354: At each 256 cc window an endpoint sets its throttle level from its deflections. -/
  | throttleWindow (mesh : Mesh) (endpoint : Nat)
  /-- R355: A flit reaching AGE 4,095 puts its mesh into drain. -/
  | drainEntry (mesh : Mesh)
  /-- R355: The mesh leaves drain 64 cc after no saturated flit remains. -/
  | drainExit (mesh : Mesh)
  /-- R405: The host resumes a halted wave named by launch and wave number. -/
  | cxResumeWrite (block : Nat) (value : Word)
  /-- R410: Issue stops, fixed results are written, engines stop and replay-pending marks are set. -/
  | preemptionStart (task : Nat)
  /-- R410: When in-mesh requests have landed, the in-flight record is frozen and the image written. -/
  | settleComplete (task : Nat)
  /-- R410: The image is written, places are freed and the task becomes waiting. -/
  | saveComplete (task : Nat)
  /-- R420: An image is written back onto units at a fitting origin and replay starts. -/
  | restore (task : Nat)
  /-- R421: A wave's replay completes when all class I2 replies have returned, allowing new issue. -/
  | replayComplete (wave : Nat)
  /-- R448: HOLD pre-empts every resident task of the context and holds its tasks out of placement, or releases them. -/
  | cxSuspendWrite (block : Nat) (value : Word)
  /-- R447: Firmware pre-empts all tasks of a named context. -/
  | dcSuspendWrite (value : Word)
  /-- R432: The host writes live items of a halted wave and sets its edited mark. -/
  | debuggerWrite (wave : Nat) (item : DebugItem) (value : Word) (tag : Ty)
  /-- R433: Grants or revokes the debug right; revocation clears stop state and resumes debug-halted waves. -/
  | cxDebugWrite (block : Nat) (value : Word)
  /-- R437: The device boots, checks firmware, self-tests, writes place maps and sets READY. -/
  | powerGood (report : SelfTest)
  /-- R443: The boot ROM checks a loaded image, writes it to flash if it verifies and restarts. -/
  | fwCtlCommit (value : Word)
  /-- R439: A failing quad or slice is mapped out at the next context boundary. -/
  | mapOut (part : Part)
  /-- R440: An unresponsive or corrupted quad is reset, its tasks end with RESET and it is mapped out. -/
  | quadContainmentReset (quad : Nat)
  /-- R441: Every 2^14 cc the governor measures power and adjusts grants and issue pacing. -/
  | governorMeasurement (milliwatts : Nat)
  /-- R447: Sets the Toybox size to take effect at the next context boundary. -/
  | dcToyboxWrite (value : Word)
  /-- R447: Sets the heartbeat period from the next package tick. -/
  | dcHbperWrite (value : Word)
  /-- R447: Sets the package number and starts or stops the domain heartbeat. -/
  | dcDomainWrite (value : Word)
  /-- R447: Writes place map entries effective at the next context boundary. -/
  | dcPlacemapWrite (die : Nat) (value : Word)
  /-- R448: Moves a non-resident launch's code base and entry PCs. -/
  | cxRelocbaseWrite (block : Nat) (value : Word)
  /-- R449: Clears the stall histogram of the named schedulers. -/
  | crHclrWrite (core : Nat) (value : Word)
  /-- R400: Configures a performance counter from the next cc. -/
  | crPmccfgWrite (core index : Nat) (value : Word)
  /-- R10: A host write to a register without its own row, rejected and recorded if reserved or undecoded. -/
  | mmioWrite (master : Master) (offset : Nat) (value : Word)
  /-- R374: A group unit executes an arriving arrival, gset or gget request in its own order for the slot. -/
  | groupUnitRequest (index : Nat)
  /-- R418: A class I2 request refused by a unit whose filter store is full of unmarked entries is resent after 64 cc. -/
  | refusedI2RequestResend (index : Nat)
  /-- R361: At the end of a containment reset each endpoint's undelivered flit count returns to 0. -/
  | quadResetEnd (quad : Nat)
  /-- R362: A packet arriving from another package over a Mojor port is taken at the hub and delivered to its home unit or version. -/
  | mojorInboundPacket (packet : Packet)
  /-- R435: The host writes HBM or Abacus memory of the device over PCI Express. -/
  | hostWriteToDeviceMemory (space : HostSpace) (addr : Nat) (bytes : List Byte)
  /-- R402: A context is destroyed and its saved images are discarded. -/
  | contextDestruction (ctx : Nat)
  /-- R448: A context is created with its block registers at their creation values. -/
  | contextCreation (ctx : Nat) (place : CtxPlace) (program : CtxProgram)
  /-- R261: A single-bit error is corrected and counted in management status. -/
  | softErrorCorrection (part : Part) (addr : Nat) (correctable : Bool)
  /-- R362: A Mojor frame failing its CRC is retried at link level. -/
  | mojorLinkRetry (port : Nat)
  /-- R363: A failed port's traffic moves to the other listed ports. -/
  | mojorPortFailure (port : Nat)
  /-- R442: Enrols a firmware key by a command signed with an enrolled key. -/
  | enroll (slot digest signer : Nat)
  /-- R442: Revokes a firmware key slot by a signed command. -/
  | revoke (slot signer : Nat)
  /-- R441: Grants stop when junction temperature reaches 105 °C and resume when it falls to 100 °C. -/
  | junctionTemperatureLimit (sixteenths : Nat)
  /-- R439: Firmware runs an idle self-test of a quad, whose failure marks the quad failing. -/
  | idleSelfTest (quad : Nat) (pass : Bool)
  /-- R48: A waiting task is placed at its first fitting origin in placement order. -/
  | taskPlacement
  /-- R57: After a task waits one quantum the launch unit pre-empts resident tasks until it fits. -/
  | rotationPreempt
  /-- R281: The package heartbeat ticks every P cc and its count increases. -/
  | packageTick
  /-- R281: A domain heartbeat tick is observed and the domain count increases. -/
  | domainTick
  /-- R259: A counted request reaches an LLC slice or host bridge and increases the page's access counter. -/
  | countedRequest
  /-- R407: A program-visible or fatal trap writes a trap record and posts a TRAP notification. -/
  | trapDelivery
  /-- R444: Returns a signed report over a nonce, firmware digest and present map. -/
  | attest
  /-- R446: Returns mailbox query data. -/
  | query
  /-- R21: A package-wide change such as the Toybox size takes effect when no save or restore is in progress. -/
  | contextBoundaryChange
  /-- R446: Returns the last rejected write and clears it. -/
  | mgRejectRead
  /-- R395: In each cc the stall counters, resident count, stall histogram bin, ageing counters and enabled performance counters are advanced. -/
  | coreCycle
  /-- R437: Loss of supply stops everything on the package until the next power-up. -/
  | powerLoss
deriving DecidableEq, Repr

end Sys2Proof
end

