-- ==== Sys2Proof/Machine/Forms.lean ====
section
/-! DEFINITION. What each encoded form accepts (spec/03 R62-R82 and each instruction's own rule): the major opcode and
function it stands at, the sources it reads, its results, its use of X13 and of the immediate word, the modifier fields
it takes, and the checks of R82 that make any other word ILLEGAL. -/

namespace Sys2Proof.Machine

/-- R72: the width in bits of a format. -/
def tyWidth : Ty → Nat
  | .raw | .i64 | .n64 | .ptr | .f64 | .cb4x16 | .fx64 => 64
  | .empty => 0
  | _ => 32

/-- R72: the TY encoding. -/
def tyCode : Ty → BitVec 4
  | .empty => 0 | .raw => 1 | .i32 => 2 | .n32 => 3 | .i64 => 4 | .n64 => 5 | .ptr => 6 | .mask => 7
  | .f32 => 8 | .f64 => 9 | .f16x2 => 10 | .bf16x2 => 11 | .f8x4 => 12 | .f8x4e5 => 13 | .cb4x16 => 14 | .fx64 => 15

/-- R72: the format a TY code names; every code names one. -/
def tyOf (c : BitVec 4) : Ty :=
  match c.toNat with
  | 0 => .empty | 1 => .raw | 2 => .i32 | 3 => .n32 | 4 => .i64 | 5 => .n64 | 6 => .ptr | 7 => .mask
  | 8 => .f32 | 9 => .f64 | 10 => .f16x2 | 11 => .bf16x2 | 12 => .f8x4 | 13 => .f8x4e5 | 14 => .cb4x16 | _ => .fx64

/-- R66: the integer TYs of the small immediate. -/
def tyInt (t : Ty) : Bool :=
  match t with
  | .i32 | .n32 | .i64 | .n64 | .raw => true
  | _ => false

/-- R65: the float TYs that have typed constants. -/
def tyFloat (t : Ty) : Bool :=
  match t with
  | .f32 | .f64 | .f16x2 | .bf16x2 => true
  | _ => false

/-- R74: the packed TYs. -/
def tyHalf (t : Ty) : Bool :=
  match t with
  | .f16x2 | .bf16x2 => true
  | _ => false

/-- R109: whether values of a TY are read as signed. -/
def tySigned (t : Ty) : Bool :=
  match t with
  | .i32 | .i64 | .fx64 => true
  | _ => false

/-- Bits [lo+len-1:lo] of a word, as a number. -/
def bits {w : Nat} (x : BitVec w) (lo len : Nat) : Nat := (x.extractLsb' lo len).toNat

/-- The bits [lo+len-1:lo] of a word read as a signed number. -/
def sbits {w : Nat} (x : BitVec w) (lo len : Nat) : Int := (x.extractLsb' lo len).toInt

/-- R63: the results a form delivers. -/
inductive Out where
  | results (n : Nat)   -- delivers n results by DS
  | wide                -- delivers 2, 4 or 8 results by CNT (`ldv`)
  | compare             -- writes a predicate (R69)
  | pushOnly            -- DS 0b00 only (`pad`)
  | frameOnly           -- DS 0b10 only (`loop`)
  | none
deriving DecidableEq, Repr

/-- R63, R66: the use of X13. `field mask` names the bits of X13 that must be zero. -/
inductive X13Use where
  | none
  | small
  | field (reserved : BitVec 13)
deriving DecidableEq, Repr

/-- R78: the use of the immediate word. -/
inductive ImmUse where
  | no          -- IW must be 0
  | source      -- IW = 1 exactly when a source names 0x3B
  | layoutOpt   -- an optional layout
  | layoutReq   -- a required layout
  | placeOr     -- a place word when the form says so, else as `source`
deriving DecidableEq, Repr

/-- R76: the modifier fields a form accepts. -/
structure Mods where
  any : Bool := false
  a : Bool := false
  b : Bool := false
  c : Bool := false
  sat : Bool := false
  clamp : Bool := false
  scale : Bool := false
  rnd : Bool := false
  raw : Bool := false
deriving DecidableEq, Repr

/-- What one form of the opcode map accepts. -/
structure FormSpec where
  major : Nat
  fn : Nat
  tys : List Ty := []
  ra : Bool := false
  rb : Bool := false
  rc : Bool := false
  out : Out := .none
  x13 : X13Use := .none
  imm : ImmUse := .no
  mods : Mods := {}
  packed : Bool := false
  unguarded : Bool := false
deriving DecidableEq, Repr

/-- R113: the four integer TYs. -/
def tysInt : List Ty := [.i32, .n32, .i64, .n64]
/-- R117: with RAW. -/
def tysIntRaw : List Ty := [.i32, .n32, .i64, .n64, .raw]
/-- R118: with MASK and RAW. -/
def tysLogic : List Ty := [.i32, .n32, .i64, .n64, .mask, .raw]
/-- R127: TY 1 to 15. -/
def tysAny : List Ty :=
  [.raw, .i32, .n32, .i64, .n64, .ptr, .mask, .f32, .f64, .f16x2, .bf16x2, .f8x4, .f8x4e5, .cb4x16, .fx64]
/-- R159: the float TYs. -/
def tysFloat : List Ty := [.f64, .f32, .f16x2, .bf16x2]

/-- R76: the modifier sets used below. -/
def modsRaw : Mods := { any := true, raw := true }
def modsInt2 : Mods := { any := true, a := true, b := true, sat := true, clamp := true, raw := true }
def modsInt3 : Mods := { modsInt2 with c := true }
def modsCmp : Mods := { any := true, a := true, b := true, raw := true }
def modsF (b c : Bool) : Mods :=
  { any := true, a := true, b := b, c := c, sat := true, clamp := true, scale := true, rnd := true, raw := true }
def modsSf : Mods := { any := true, a := true, sat := true, clamp := true, scale := true, raw := true }

/-- R113: a form of integer arithmetic. -/
def intForm (fn : Nat) (mods : Mods) (c : Bool := false) : FormSpec :=
  { major := 0x02, fn, tys := tysInt, ra := true, rb := true, rc := c, out := .results 1, x13 := .small,
    imm := .source, mods }

/-- R117, R118, R119: a form of shifts, logic or bit fields. -/
def bitForm (major fn : Nat) (tys : List Ty) (b : Bool) (x13 : X13Use) : FormSpec :=
  { major, fn, tys, ra := true, rb := b, out := .results 1, x13, imm := .source, mods := modsRaw }

/-- R159, R161, R162: a float form of majors 0x40 to 0x42. -/
def floatForm (major fn : Nat) (b c : Bool) (n : Nat) (mods : Mods) (packed : Bool) : FormSpec :=
  { major, fn, tys := tysFloat, ra := true, rb := b, rc := c, out := .results n, imm := .source, mods, packed }

/-- R168: a special function. -/
def specialForm (fn : Nat) (n : Nat) (packed : Bool) : FormSpec :=
  { major := 0x60, fn, tys := if packed then [.f32, .f16x2, .bf16x2] else [.f32], ra := true, out := .results n,
    imm := .source, mods := modsSf, packed }

/-- R288: a memory form of majors 0xA0 to 0xA2. -/
def memForm (major fn : Nat) (tys : List Ty) (b c : Bool) (out : Out) : FormSpec :=
  { major, fn, tys, ra := true, rb := b, rc := c, out, x13 := .field 0, imm := .placeOr }

/-- R300: the TYs an operation at a bank accepts. -/
def atomTys : AtomOp → List Ty
  | .add | .min | .max => tysInt
  | .and | .or | .xor => tysIntRaw
  | .xchg | .cas => tysAny
  | .fadd => [.f32]
  | .bfadd => [.bf16x2]
  | .xadd => [.f64, .f32, .i64, .n64]

/-- R300: the FN code of an operation at a bank. -/
def atomCode : AtomOp → Nat
  | .add => 0 | .min => 1 | .max => 2 | .and => 3 | .or => 4 | .xor => 5 | .xchg => 6 | .cas => 7 | .fadd => 8
  | .bfadd => 9 | .xadd => 10

/-- R141: the FN code of a reduction. -/
def redCode : RedOp → Nat
  | .add => 0 | .min => 1 | .max => 2 | .and => 3 | .or => 4 | .xor => 5

/-- R141: the TYs a reduction accepts. -/
def redTys : RedOp → List Ty
  | .add | .min | .max => [.i32, .n32, .i64, .n64, .f32, .f64, .f16x2, .bf16x2]
  | _ => tysLogic

/-- R122: the FN code of an integer condition. -/
def condCode : Cond → Nat
  | .eq => 0 | .ne => 1 | .lt => 2 | .le => 3 | .gt => 4 | .ge => 5

/-- R164: the FN code of a float condition. -/
def fcondCode : FCond → Nat
  | .eq => 0 | .ne => 1 | .lt => 2 | .le => 3 | .gt => 4 | .ge => 5 | .ord => 6 | .uno => 7

/-- R122: MASK is accepted only with eq and ne. -/
def icmpTys : Cond → List Ty
  | .eq | .ne => [.i32, .n32, .i64, .n64, .ptr, .mask]
  | _ => [.i32, .n32, .i64, .n64, .ptr]

/-- A form of major 0xD0 or 0xE0 (R314, R367), which takes no type. -/
def sysForm (major fn : Nat) (a b : Bool) (out : Out) (x13 : X13Use) : FormSpec :=
  { major, fn, ra := a, rb := b, out, x13 }

/-- A form of major 0xC0 (R179). -/
def mxForm (fn : Nat) (tys : List Ty) (a : Bool) (out : Out) (reserved : BitVec 13) (imm : ImmUse) : FormSpec :=
  { major := 0xC0, fn, tys, ra := a, out, x13 := .field reserved, imm }

/-- The form of an encoded instruction; `none` for a step of the device, which has no encoding. -/
def formSpec : Instr → Option FormSpec
  | .nop _ => some { major := 0x01, fn := 0 }
  | .iadd _ => some (intForm 0 modsInt2)
  | .isub _ => some (intForm 1 modsInt2)
  | .imul _ => some (intForm 2 modsInt2)
  | .imulh _ => some (intForm 3 modsCmp)
  | .imad _ => some (intForm 4 modsInt3 true)
  | .idiv _ => some (intForm 5 modsInt2)
  | .irem _ => some (intForm 6 { modsInt2 with sat := false })
  | .iabsd _ => some (intForm 7 modsInt2)
  | .imin _ => some (intForm 8 { modsInt2 with sat := false })
  | .imax _ => some (intForm 9 { modsInt2 with sat := false })
  | .iaddc _ => some { intForm 10 modsRaw true with out := .results 2 }
  | .lea _ => some { intForm 11 { any := true, b := true, raw := true } with tys := [.ptr], x13 := .field 0x1FF8 }
  | .shl _ => some (bitForm 0x03 0 tysIntRaw true .small)
  | .shr _ => some (bitForm 0x03 1 tysIntRaw true .small)
  | .sar _ => some (bitForm 0x03 2 tysIntRaw true .small)
  | .rotl _ => some (bitForm 0x03 3 tysIntRaw true .small)
  | .and _ => some (bitForm 0x04 0 tysLogic true .small)
  | .or _ => some (bitForm 0x04 1 tysLogic true .small)
  | .xor _ => some (bitForm 0x04 2 tysLogic true .small)
  | .andn _ => some (bitForm 0x04 3 tysLogic true .small)
  | .not _ => some (bitForm 0x04 4 tysLogic false .small)
  | .popc _ => some (bitForm 0x05 0 tysIntRaw false .none)
  | .clz _ => some (bitForm 0x05 1 tysIntRaw false .none)
  | .ctz _ => some (bitForm 0x05 2 tysIntRaw false .none)
  | .brev _ => some (bitForm 0x05 3 tysIntRaw false .none)
  | .bfx _ => some (bitForm 0x05 4 tysIntRaw false (.field 0))
  | .bfi _ => some (bitForm 0x05 5 tysIntRaw true (.field 0))
  | .perm _ => some { bitForm 0x05 6 tysIntRaw true .none with rc := true }
  | .icmp c _ => some
          { major := 0x30, fn := condCode c, tys := icmpTys c, ra := true, rb := true, out := .compare,
            x13 := .small, imm := .source, mods := modsCmp }
  | .sel _ => some
          { major := 0x31, fn := 0, tys := tysAny, ra := true, rb := true, out := .results 1,
            x13 := .field 0x1FF0, imm := .source, mods := modsCmp }
  | .pand _ => some { major := 0x32, fn := 0, out := .compare, x13 := .field 0x1F00 }
  | .por _ => some { major := 0x32, fn := 1, out := .compare, x13 := .field 0x1F00 }
  | .pxor _ => some { major := 0x32, fn := 2, out := .compare, x13 := .field 0x1F00 }
  | .pnot _ => some { major := 0x32, fn := 3, out := .compare, x13 := .field 0x1FF0 }
  | .pmov _ => some { major := 0x32, fn := 4, out := .compare, x13 := .field 0x1FF0 }
  | .ptest _ => some
          { major := 0x32, fn := 5, tys := [.mask, .i32, .n32], ra := true, out := .compare, x13 := .small,
            imm := .source, mods := modsRaw }
  | .mov _ => some { major := 0x20, fn := 0, tys := tysAny, ra := true, out := .results 1, x13 := .small, imm := .source }
  | .drop _ => some { major := 0x20, fn := 1, ra := true, x13 := .field 0x1FE0, unguarded := true }
  | .swap _ => some { major := 0x20, fn := 2, ra := true, rb := true }
  | .rot _ => some { major := 0x20, fn := 3, x13 := .field 0x1FE0 }
  | .pad _ => some { major := 0x20, fn := 4, out := .pushOnly, x13 := .field 0x1FE0 }
  | .qdepth _ => some { major := 0x20, fn := 5, out := .results 1 }
  | .qtag _ => some { major := 0x20, fn := 6, ra := true, out := .results 1 }
  | .retag _ => some { major := 0x20, fn := 7, tys := tysAny, ra := true, out := .results 1 }
  | .shflIdx _ => some { bitForm 0x28 0 tysAny true .small with mods := modsRaw }
  | .shflUp _ => some (bitForm 0x28 1 tysAny true .small)
  | .shflDown _ => some (bitForm 0x28 2 tysAny true .small)
  | .shflXor _ => some (bitForm 0x28 3 tysAny true .small)
  | .bcast _ => some (bitForm 0x28 4 tysAny true .small)
  | .voteAll _ => some { major := 0x28, fn := 5, out := .compare, x13 := .field 0x1FF0 }
  | .voteAny _ => some { major := 0x28, fn := 6, out := .compare, x13 := .field 0x1FF0 }
  | .voteBallot _ => some { major := 0x28, fn := 7, out := .results 1, x13 := .field 0x1FF0 }
  | .matchLanes _ => some (bitForm 0x28 8 tysAny false .none)
  | .wred o _ => some (bitForm 0x29 (redCode o) (redTys o) false .small)
  | .wscan o x _ => some (bitForm 0x2A (redCode o + if x then 8 else 0) (redTys o) false .small)
  | .fadd _ => some (floatForm 0x40 0 true false 1 (modsF true false) true)
  | .fsub _ => some (floatForm 0x40 1 true false 1 (modsF true false) true)
  | .fmul _ => some (floatForm 0x40 2 true false 1 (modsF true false) true)
  | .ffma _ => some (floatForm 0x40 3 true true 1 (modsF true true) true)
  | .fdiv _ => some (floatForm 0x40 4 true false 1 (modsF true false) false)
  | .fsqrt _ => some (floatForm 0x40 5 false false 1 (modsF false false) false)
  | .fdot2 _ => some { floatForm 0x40 6 true true 1 (modsF true true) false with tys := [.f32] }
  | .fminNum _ => some (floatForm 0x41 0 true false 1 { modsCmp with clamp := true } true)
  | .fmin _ => some (floatForm 0x41 1 true false 1 { modsCmp with clamp := true } true)
  | .fmaxNum _ => some (floatForm 0x41 2 true false 1 { modsCmp with clamp := true } true)
  | .fmax _ => some (floatForm 0x41 3 true false 1 { modsCmp with clamp := true } true)
  | .frnd _ => some (floatForm 0x42 0 false false 1 { any := true, a := true, rnd := true, raw := true } false)
  | .ffract _ => some (floatForm 0x42 1 false false 1 { any := true, a := true, raw := true } false)
  | .fldexp _ => some (floatForm 0x42 2 true false 1
      { any := true, a := true, sat := true, rnd := true, raw := true } false)
  | .ffrexp _ => some (floatForm 0x42 3 false false 2 { any := true, a := true, raw := true } false)
  | .fcopysign _ => some (floatForm 0x42 4 true false 1 modsRaw true)
  | .fclass _ => some (floatForm 0x42 5 false false 1 modsRaw true)
  | .fcmp c _ => some
          { major := 0x44, fn := fcondCode c, tys := tysFloat, ra := true, rb := true, out := .compare,
            imm := .source, mods := modsCmp }
  | .cvt _ => some { floatForm 0x58 0 false false 1 (modsF false false) false with tys := tysFloat }
  | .cvti _ => some
          { floatForm 0x58 1 false false 1 (modsF false false) false with
            tys := [.i32, .n32, .i64, .n64, .fx64] }
  | .cvtf _ => some (floatForm 0x58 2 false false 1 (modsF false false) false)
  | .pack2 _ => some { floatForm 0x58 3 true false 1 (modsF true false) false with tys := [.f16x2, .bf16x2] }
  | .unpk2 _ => some { floatForm 0x58 4 false false 2 { any := true, a := true, raw := true } false with tys := [.f32] }
  | .f8pack _ => some
          { floatForm 0x58 5 true false 1 (modsF true false) false with
            tys := [.f8x4, .f8x4e5], x13 := .field 0x1FFE }
  | .f8unpk _ => some
          { floatForm 0x58 6 false false 2 { any := true, a := true, raw := true } false with
            tys := [.f16x2, .bf16x2] }
  | .cbkld _ => some
          { major := 0x59, fn := 0, tys := [.bf16x2], ra := true, x13 := .field 0x1FFC, imm := .source,
            mods := modsRaw }
  | .cbkdec _ => some
          { major := 0x59, fn := 1, tys := [.bf16x2], ra := true, out := .results 2, x13 := .field 0x1FF0,
            imm := .source, mods := modsRaw }
  | .rcp _ => some (specialForm 0 1 true)
  | .rsq _ => some (specialForm 1 1 false)
  | .sqrta _ => some (specialForm 2 1 false)
  | .exp2 _ => some (specialForm 3 1 true)
  | .log2 _ => some (specialForm 4 1 false)
  | .sinpi _ => some (specialForm 5 1 false)
  | .cospi _ => some (specialForm 6 1 false)
  | .sincospi _ => some (specialForm 7 2 false)
  | .tanh _ => some (specialForm 8 1 true)
  | .az _ => some (mxForm 0 [.i32] true .none 0x1FF8 .source)
  | .anch _ => some (mxForm 1 [.i32] true .none 0x1FF8 .source)
  | .mma _ => some { mxForm 2 [] true .none 0x1FF8 .layoutReq with rb := true }
  | .mmas _ => some { mxForm 3 [] true .none 0x1FF8 .layoutReq with rb := true, rc := true }
  | .mfence _ => some (mxForm 4 [] false .none 0x1FFF .no)
  -- R63: XD of `mwait all` is not held to be zero (log 60, DESIGN CHOICE).
  | .mwait _ => some (mxForm 5 [] false .none 0x17F8 .no)
  | .gang _ => some (mxForm 6 [.n32] true .none 0x1FFF .source)
  | .res _ => some (mxForm 7 [] false .none 0x1FF8 .no)
  | .resv _ => some (mxForm 8 [.f32, .bf16x2, .fx64] false (.results 1) 0x0038 .no)
  | .acmp _ => some (mxForm 9 [.f32, .fx64] true .compare 0x1800 .source)
  | .asgn _ => some (mxForm 10 [] false .compare 0x1838 .no)
  | .astr _ => some (mxForm 11 [] true .none 0x07F8 .no)
  | .ald _ => some (mxForm 12 [] true .none 0x07F8 .no)
  | .aadd _ => some (mxForm 13 [] false .none 0x1FC0 .no)
  | .avld _ => some (mxForm 14 [] false (.results 3) 0x1838 .no)
  | .mrow _ => some (mxForm 15 [] false (.results 1) 0x1FF8 .no)
  | .mxexp _ => some (mxForm 16 [.f32, .f16x2, .bf16x2, .f8x4, .f8x4e5] true (.results 1) 0x1FFF .no)
  | .bra _ => some { major := 0x80, fn := 0, x13 := .field 0, imm := .layoutOpt }
  | .brs _ => some { major := 0x80, fn := 1, x13 := .field 0, imm := .layoutOpt }
  | .rejoin _ => some { major := 0x80, fn := 2, x13 := .field 0x1FE0, imm := .layoutOpt, unguarded := true }
  | .jmpi _ => some { major := 0x80, fn := 3, ra := true, unguarded := true }
  | .call _ => some { major := 0x80, fn := 4, x13 := .field 0x1FE0, imm := .layoutReq, unguarded := true }
  | .calli _ => some { major := 0x80, fn := 5, ra := true, x13 := .field 0x1C00, unguarded := true }
  | .ret _ => some { major := 0x80, fn := 6, x13 := .field 0x1FE0, unguarded := true }
  | .exit _ => some { major := 0x80, fn := 7 }
  | .maskrd _ => some { major := 0x81, fn := 0, out := .results 1 }
  | .maskwr _ => some { major := 0x81, fn := 1, ra := true, unguarded := true }
  | .yield _ => some { major := 0x81, fn := 2, unguarded := true }
  | .sleep _ => some { major := 0x81, fn := 3, x13 := .field 0, unguarded := true }
  | .loop _ => some
          { major := 0x81, fn := 4, tys := [.i32, .n32], ra := true, out := .frameOnly, x13 := .field 0,
            imm := .layoutOpt }
  | .trap _ => some { major := 0x81, fn := 5, x13 := .field 0 }
  | .brk _ => some { major := 0x81, fn := 6, x13 := .field 0 }
  | .splitrd _ => some { major := 0x81, fn := 7, out := .results 1, x13 := .field 0x1FFC }
  | .ld _ => some (memForm 0xA0 0 tysAny false false (.results 1))
  | .ldv _ => some (memForm 0xA0 1 (tysAny.filter (· ≠ .cb4x16)) false false .wide)
  | .ldp _ => some { major := 0xA0, fn := 2, tys := tysAny, out := .results 1, x13 := .field 0x1000 }
  | .st _ => some (memForm 0xA0 3 tysAny true false .none)
  | .stv _ => some (memForm 0xA0 4 (tysAny.filter (· ≠ .cb4x16)) true false .none)
  | .pref _ => some { memForm 0xA0 5 [] false false .none with imm := .no }
  | .atom o _ => some (memForm 0xA1 (atomCode o) (atomTys o) true (o == .cas) (.results (if o == .xadd then 2 else 1)))
  | .red o _ => some (memForm 0xA2 (atomCode o) (atomTys o) true false .none)
  | .abupd _ => some (memForm 0xA3 0 tysAny true false .none)
  | .abred _ => some (memForm 0xA3 1 tysAny false false (.results 1))
  | .phase _ => some { major := 0xB0, fn := 0, unguarded := true }
  | .fence _ => some { major := 0xB0, fn := 1, x13 := .field 0x1FF8, unguarded := true }
  | .fencesc _ => some { major := 0xB0, fn := 2, x13 := .field 0x1FF8, unguarded := true }
  | .discard _ => some { major := 0xB0, fn := 3, ra := true, rb := true }
  | .wback _ => some { major := 0xB0, fn := 4, ra := true, rb := true }
  | .inval _ => some { major := 0xB0, fn := 5, ra := true, rb := true }
  | .copy _ => some (sysForm 0xD0 0 true false (.results 1) (.field 0x00FF))
  | .cstat _ => some (sysForm 0xD0 1 true false (.results 1) .none)
  | .tdesc _ => some (sysForm 0xD0 2 true false .none (.field 0x1FC0))
  | .cbinit _ => some (sysForm 0xD0 3 true true .none (.field 0x1FE0))
  | .cbwait _ => some (sysForm 0xD0 4 false false (.results 1) (.field 0))
  | .cbpop _ => some (sysForm 0xD0 5 false false .none (.field 0))
  | .cbsig _ => some (sysForm 0xD0 6 false false .none (.field 0))
  | .cbfree _ => some (sysForm 0xD0 7 false false (.results 1) (.field 0))
  | .spost _ => some (sysForm 0xD0 8 true false .none (.field 0x1FC0))
  | .swait _ => some (sysForm 0xD0 9 false false (.results 1) (.field 0x1F80))
  | .send _ => some { sysForm 0xD0 10 false false .none (.field 0x1000) with imm := .layoutReq }
  | .inwait _ => some (sysForm 0xD0 11 false false .none (.field 0x1FFC))
  | .nqpop _ => some (sysForm 0xD0 12 false false (.results 4) .none)
  | .gbar _ => some (sysForm 0xE0 0 false false .compare (.field 0x1FFC))
  | .garr _ => some (sysForm 0xE0 1 false false .none (.field 0x1FFC))
  | .gwait _ => some (sysForm 0xE0 2 false false .compare (.field 0x1FFC))
  | .gset _ => some (sysForm 0xE0 3 true false .none (.field 0x1FE0))
  | .gget _ => some (sysForm 0xE0 4 false false (.results 1) (.field 0x1FE0))
  | .launch _ => some (sysForm 0xE0 5 true false (.results 1) .none)
  | .srd _ => some (sysForm 0xE0 6 false false (.results 1) (.field 0x1F00))
  | .swr _ => some (sysForm 0xE0 7 true false .none (.field 0x1F00))
  | .place _ => some { sysForm 0xE0 8 true false (.results 1) .none with imm := .layoutOpt }
  | .ptset _ => some (sysForm 0xE0 9 true true (.results 1) (.field 0x1FC0))
  | .tlbinv _ => some (sysForm 0xE0 10 true true .none .none)
  | .pgcnt _ => some (sysForm 0xE0 11 true false (.results 1) (.field 0x1FFE))
  | _ => none

/-- The decoded words of an encoded instruction; `none` for a step of the device. -/
def formOf : Instr → Option Form
  | .nop f => some f
  | .iadd f => some f
  | .isub f => some f
  | .imul f => some f
  | .imulh f => some f
  | .imad f => some f
  | .idiv f => some f
  | .irem f => some f
  | .iabsd f => some f
  | .imin f => some f
  | .imax f => some f
  | .iaddc f => some f
  | .lea f => some f
  | .shl f => some f
  | .shr f => some f
  | .sar f => some f
  | .rotl f => some f
  | .and f => some f
  | .or f => some f
  | .xor f => some f
  | .andn f => some f
  | .not f => some f
  | .popc f => some f
  | .clz f => some f
  | .ctz f => some f
  | .brev f => some f
  | .bfx f => some f
  | .bfi f => some f
  | .perm f => some f
  | .icmp _ f => some f
  | .sel f => some f
  | .pand f => some f
  | .por f => some f
  | .pxor f => some f
  | .pnot f => some f
  | .pmov f => some f
  | .ptest f => some f
  | .mov f => some f
  | .drop f => some f
  | .swap f => some f
  | .rot f => some f
  | .pad f => some f
  | .qdepth f => some f
  | .qtag f => some f
  | .retag f => some f
  | .shflIdx f => some f
  | .shflUp f => some f
  | .shflDown f => some f
  | .shflXor f => some f
  | .bcast f => some f
  | .voteAll f => some f
  | .voteAny f => some f
  | .voteBallot f => some f
  | .matchLanes f => some f
  | .wred _ f => some f
  | .wscan _ _ f => some f
  | .fadd f => some f
  | .fsub f => some f
  | .fmul f => some f
  | .ffma f => some f
  | .fdiv f => some f
  | .fsqrt f => some f
  | .fdot2 f => some f
  | .fminNum f => some f
  | .fmin f => some f
  | .fmaxNum f => some f
  | .fmax f => some f
  | .frnd f => some f
  | .ffract f => some f
  | .fldexp f => some f
  | .ffrexp f => some f
  | .fcopysign f => some f
  | .fclass f => some f
  | .fcmp _ f => some f
  | .cvt f => some f
  | .cvti f => some f
  | .cvtf f => some f
  | .pack2 f => some f
  | .unpk2 f => some f
  | .f8pack f => some f
  | .f8unpk f => some f
  | .cbkld f => some f
  | .cbkdec f => some f
  | .rcp f => some f
  | .rsq f => some f
  | .sqrta f => some f
  | .exp2 f => some f
  | .log2 f => some f
  | .sinpi f => some f
  | .cospi f => some f
  | .sincospi f => some f
  | .tanh f => some f
  | .az f => some f
  | .anch f => some f
  | .mma f => some f
  | .mmas f => some f
  | .mfence f => some f
  | .mwait f => some f
  | .gang f => some f
  | .res f => some f
  | .resv f => some f
  | .acmp f => some f
  | .asgn f => some f
  | .astr f => some f
  | .ald f => some f
  | .aadd f => some f
  | .avld f => some f
  | .mrow f => some f
  | .mxexp f => some f
  | .bra f => some f
  | .brs f => some f
  | .rejoin f => some f
  | .jmpi f => some f
  | .call f => some f
  | .calli f => some f
  | .ret f => some f
  | .exit f => some f
  | .maskrd f => some f
  | .maskwr f => some f
  | .yield f => some f
  | .sleep f => some f
  | .loop f => some f
  | .trap f => some f
  | .brk f => some f
  | .splitrd f => some f
  | .ld f => some f
  | .ldv f => some f
  | .ldp f => some f
  | .st f => some f
  | .stv f => some f
  | .pref f => some f
  | .atom _ f => some f
  | .red _ f => some f
  | .abupd f => some f
  | .abred f => some f
  | .phase f => some f
  | .fence f => some f
  | .fencesc f => some f
  | .discard f => some f
  | .wback f => some f
  | .inval f => some f
  | .copy f => some f
  | .cstat f => some f
  | .tdesc f => some f
  | .cbinit f => some f
  | .cbwait f => some f
  | .cbpop f => some f
  | .cbsig f => some f
  | .cbfree f => some f
  | .spost f => some f
  | .swait f => some f
  | .send f => some f
  | .inwait f => some f
  | .nqpop f => some f
  | .gbar f => some f
  | .garr f => some f
  | .gwait f => some f
  | .gset f => some f
  | .gget f => some f
  | .launch f => some f
  | .srd f => some f
  | .swr f => some f
  | .place f => some f
  | .ptset f => some f
  | .tlbinv f => some f
  | .pgcnt f => some f
  | _ => none

/-! ## Fields of X13 and of layout words -/

end Sys2Proof.Machine

namespace Sys2Proof

/-- R209: the argument count n. -/
def Form.n (f : Form) : Nat := Machine.bits f.x13 0 5
/-- R209: the result count m of `calli`. -/
def Form.m (f : Form) : Nat := Machine.bits f.x13 5 5
/-- R289: the space selector. -/
def Form.sp (f : Form) : Nat := Machine.bits f.x13 11 2
/-- R289: whether a place word is present. -/
def Form.pl (f : Form) : Bool := f.x13.getLsbD 10
/-- R289: NW, CNT or LV. -/
def Form.nw (f : Form) : Nat := Machine.bits f.x13 8 2
/-- R289: the signed byte displacement. -/
def Form.disp (f : Form) : Int := Machine.sbits f.x13 0 8
/-- R289: the element count of `ldv` and `stv`. -/
def Form.cnt (f : Form) : Nat := 2 <<< f.nw
/-- R289: the range word's operation, count and CLR. -/
def Form.rangeOp (f : Form) : Nat := Machine.bits f.x13 9 4
def Form.rangeN (f : Form) : Nat := Machine.bits f.x13 0 8 + 1
def Form.clr (f : Form) : Bool := f.x13.getLsbD 8
/-- R178: the sub-fields of major 0xC0. -/
def Form.mode (f : Form) : Nat := Machine.bits f.x13 11 2
def Form.row (f : Form) : Nat := Machine.bits f.x13 6 5
def Form.xs (f : Form) : Nat := Machine.bits f.x13 3 3
def Form.xd (f : Form) : Nat := Machine.bits f.x13 0 3
/-- R69: the destination predicate of a compare form. -/
def Form.pd (f : Form) : Nat := Machine.bits f.fd 0 3

end Sys2Proof

namespace Sys2Proof.Machine

/-- R300: the operation a range word names. -/
def atomOfCode (n : Nat) : Option AtomOp :=
  match n with
  | 0 => some .add | 1 => some .min | 2 => some .max | 3 => some .and | 4 => some .or | 5 => some .xor
  | 6 => some .xchg | 7 => some .cas | 8 => some .fadd | 9 => some .bfadd | 10 => some .xadd
  | _ => none

/-- R80: a well-formed place word: KIND, DX, DY, INDEX. -/
structure Place where
  kind : Nat
  dx : Int
  dy : Int
  index : Nat
deriving DecidableEq, Repr

/-- R80: the place a 32-bit word names; `none` for a reserved KIND, a reserved field or an INDEX out of range. -/
def placeOf (w : BitVec 32) : Option Place :=
  let kind := bits w 16 3
  let index := bits w 0 6
  let limit := match kind with
    | 0 => 1 | 1 => 4 | 2 => 64 | 3 => 64 | 4 => 1 | 5 => 32 | _ => 0
  if bits w 19 13 = 0 ∧ w.getLsbD 6 = false ∧ index < limit then
    some { kind, dx := sbits w 11 5, dy := sbits w 7 4, index }
  else none

/-- R80: the place word of an immediate word, of the KIND the form accepts; its high half is zero. -/
def immPlaceOk (f : Form) (kind : Nat) : Bool :=
  match f.imm with
  | some w => bits w 32 32 = 0 && (match placeOf (w.extractLsb' 0 32) with
      | some p => p.kind = kind
      | none => false)
  | none => false

/-- R217: the fields of a layout entry. -/
structure Layout where
  key : Nat
  sel : List Nat
deriving DecidableEq, Repr

/-- R217: entry e of a layout word, when it is valid. -/
def layoutEntry (w : Word) (e : Nat) : Option Layout :=
  let x := w.extractLsb' (16 * e) 16
  if x.getLsbD 15 then
    some { key := bits x 12 3, sel := [bits x 0 3, bits x 3 3, bits x 6 3, bits x 9 3] }
  else none

/-- R217: the valid entries of a layout word. -/
def layouts (w : Word) : List Layout := [0, 1, 2, 3].filterMap (layoutEntry w)

/-- R217: the checks of a layout word against n. -/
def layoutOk (w : Word) (n : Nat) : Bool :=
  n ≤ 4 &&
  [0, 1, 2, 3].all (fun e => (w.extractLsb' (16 * e) 16).getLsbD 15 || bits w (16 * e) 16 = 0) &&
  decide (((layouts w).map Layout.key).Nodup) &&
  (layouts w).all (fun l => l.key ≠ n && (List.range 4).all (fun k => k < n || l.sel.getD k 0 = 0))

/-- R210: a wide branch target leaves X13 and the high half of the immediate word zero. -/
def wideOk (f : Form) : Bool :=
  match f.imm with
  | some w => f.x13 = 0 && bits w 32 32 = 0
  | none => true

/-! ## The checks of R82 -/

/-- R65: whether a typed constant is permitted under a TY. -/
def constOk (t : Ty) (k : Fin 8) : Bool := (tyInt t && k.val < 4) || tyFloat t

/-- R77: the clamp bounds a result type accepts: LO not above HI, and no NaN among BF16 bounds. -/
def clampOk (t : Ty) : Clamp → Bool
  | .bounds hi lo =>
    let key (x : BitVec 16) : Int := if x.getLsbD 15 then - Int.ofNat (bits x 0 15) else Int.ofNat (bits x 0 15)
    let nan (x : BitVec 16) : Bool := bits x 7 8 = 255 && bits x 0 7 ≠ 0
    match t with
    | .f32 | .f64 | .f16x2 | .bf16x2 | .f8x4 | .f8x4e5 => !nan hi && !nan lo && decide (key lo ≤ key hi)
    | .i32 | .i64 | .fx64 => decide (lo.toInt ≤ hi.toInt)
    | _ => decide (lo.toNat ≤ hi.toNat)
  | _ => true

/-- R76: whether a form accepts a modifier word. -/
def modOk (m : Mods) (t : Ty) (w : Modifier) : Bool :=
  m.any && (m.a || !(w.na || w.aa)) && (m.b || !(w.nb || w.ab)) && (m.c || !(w.nc || w.ac)) &&
  (m.sat || !w.sat) && (m.clamp || w.clamp == .none) && (m.scale || w.scale == 0) && (m.rnd || w.rnd == .dflt) &&
  (m.raw || !w.raw) && clampOk t w.clamp

/-- R63 to R66: whether a source field is permitted. -/
def srcOk (g : FormSpec) (f : Form) (read : Bool) (s : Src) : Bool :=
  if read then
    match s with
    | .const k => constOk f.ty k
    | .x13 => g.x13 == .small && tyInt f.ty
    | .imm => f.imm.isSome && (g.imm == .source || g.imm == .placeOr)
    | .lane | .wslot => !(g.major == 0xE0 || (g.major == 0xC0 && g.tys.isEmpty))
    | _ => true
  else s == .age 0

/-- Whether a source that is read names the immediate word. -/
def usesImm (g : FormSpec) (f : Form) : Bool :=
  (g.ra && f.sa == .imm) || (g.rb && f.sb == .imm) || (g.rc && f.sc == .imm)

/-- R78: whether the immediate word is present exactly as the form allows, with no reserved bit set. -/
def immOk (g : FormSpec) (f : Form) : Bool :=
  (match g.imm with
   | .no => f.imm.isNone
   | .source => f.imm.isSome == usesImm g f
   | .layoutReq => f.imm.isSome
   | .layoutOpt | .placeOr => true) &&
  (match f.imm with
   | some w => !(usesImm g f && tyWidth f.ty == 32) || bits w 32 32 == 0
   | none => true)

/-- R63, R68, R69: whether DS and FD are as the form's results allow. -/
def destOk (g : FormSpec) (f : Form) : Bool :=
  match g.out with
  | .none => f.ds == .discard && f.fd == 0
  | .compare => f.ds == .frame && f.fd.toNat < 8
  | .pushOnly => f.ds == .push && f.fd == 0
  | .frameOnly => f.ds == .frame
  | .results n =>
    match f.ds with
    | .push | .discard => f.fd == 0
    | _ => f.fd.toNat + n ≤ 32
  | .wide =>
    match f.ds with
    | .push | .discard => f.fd == 0
    | _ => f.fd.toNat + f.cnt ≤ 32

/-- R63: whether X13 leaves its reserved bits zero. -/
def x13Ok (g : FormSpec) (f : Form) : Bool :=
  match g.x13 with
  | .none => f.x13 == 0
  | .small => true
  | .field r => f.x13 &&& r == 0

/-- R289, R290: the space word of the forms of majors 0xA0 to 0xA2. With PL set, a source that names 0x3B is accepted too, and
reads the place word as its value (R78; log 65, DESIGN CHOICE). -/
def spaceOk (g : FormSpec) (f : Form) : Bool :=
  f.sp ≠ 3 && !(f.pl && f.sp = 2) &&
  (if f.pl then immPlaceOk f (if f.sp = 0 then 3 else 0) else f.imm.isSome == usesImm g f)

/-- R289: the narrow widths `ld` and `st` accept. -/
def narrowOk (f : Form) : Bool :=
  match f.nw with
  | 0 => true
  | 1 => f.ty == .i32 || f.ty == .n32 || f.ty == .i64 || f.ty == .n64
  | 2 => f.ty == .i32 || f.ty == .n32 || f.ty == .i64 || f.ty == .n64 || tyHalf f.ty
  | _ => false

/-- R289, R303 to R305: the range word of major 0xA3. -/
def rangeOk (f : Form) (ok : AtomOp → Bool) : Bool :=
  (match atomOfCode f.rangeOp with
   | some o => ok o && (atomTys o).contains f.ty
   | none => false) &&
  (f.imm.isNone || immPlaceOk f 3)

/-- R187: the operand types `mma` and `mmas` accept together. -/
def matrixPair (a b : Nat) : Bool :=
  (a = 1 && b = 1) || (a = 2 && b = 2) || ((a = 3 || a = 4) && (b = 3 || b = 4)) ||
  ((a = 5 || a = 6) && (b = 5 || b = 6)) || (a = 7 && b = 2)

/-- R186, R187: the matrix operand word. -/
def operandWordOk (w : Word) : Bool :=
  bits w 20 12 ≠ 0 && bits w 0 6 = 0 && (bits w 16 4 = 7 || bits w 6 2 = 0) && matrixPair (bits w 16 4) (bits w 12 4)

/-- R108, R356, R394: the special register numbers that are assigned. -/
def srAssigned (n : Nat) : Bool :=
  n ≤ 0x0A || (0x10 ≤ n && n ≤ 0x19) || (0x20 ≤ n && n ≤ 0x2D) || (0x30 ≤ n && n ≤ 0x33) || (0x40 ≤ n && n ≤ 0x83)

/-- R108: the special registers `swr` may write. -/
def srWritable (n : Nat) : Bool := n = 7 || n = 8 || n = 9

/-- Whether a source names an age. -/
def isAge : Src → Bool
  | .age _ => true
  | _ => false

/-- Whether a source names an age or a frame slot. -/
def isSlot : Src → Bool
  | .age _ | .frame _ => true
  | _ => false

/-- The checks of the instruction descriptions that R82 makes ILLEGAL. -/
def extraOk (g : FormSpec) (i : Instr) (f : Form) : Bool :=
  match i with
  | .bfx _ | .bfi _ => bits f.x13 0 6 + bits f.x13 6 7 ≤ tyWidth f.ty          -- R120
  | .lea _ => match f.modw with                                                   -- R113: NB and RAW only
    | some m => !m.ab
    | none => true
  | .sel _ => match f.modw with                                                   -- R123
    | some m => !(m.na || m.aa || m.nb || m.ab) || (tyInt f.ty && f.ty ≠ .raw) || tyFloat f.ty
    | none => true
  | .drop _ => match f.sa with                                                    -- R127
    | .age a => 1 ≤ f.n && a.val + f.n ≤ 16
    | _ => false
  | .swap _ => isAge f.sa && isSlot f.sb
  | .rot _ => 2 ≤ f.n && f.n ≤ 16
  | .pad _ => 1 ≤ f.n && f.n ≤ 16
  | .qtag _ | .retag _ => isSlot f.sa
  | .mma _ | .mmas _ => match f.imm with
    | some w => operandWordOk w
    | none => false
  | .acmp _ => f.xs ≤ 5
  | .asgn _ => f.pd = 0 || f.pd = 2 || f.pd = 4                                   -- R200
  | .bra _ | .brs _ => wideOk f
  | .loop _ => wideOk f && (match f.sa with                                       -- R209
    | .frame k => f.fd.toNat = k.val
    | _ => false)
  | .rejoin _ => f.n ≤ 16 && (match f.imm with
    | some w => layoutOk w f.n
    | none => true)
  | .call _ => f.n ≤ 16 && (match f.imm with
    | some w => bits w 32 32 = 0
    | none => false)
  | .calli _ => f.n ≤ 16 && f.m ≤ 16
  | .ret _ => f.n ≤ 16
  | .brk _ => f.st
  | .splitrd _ => bits f.x13 0 2 ≤ 2
  | .ld _ | .st _ => spaceOk g f && narrowOk f
  | .ldv _ => spaceOk g f && f.nw ≤ 2
  | .stv _ => spaceOk g f && f.nw ≤ 2 && (match f.sb with                         -- R299
    | .age j => j.val + f.cnt ≤ 16
    | .frame j => j.val + f.cnt ≤ 32
    | _ => false)
  | .pref _ => f.sp = 0 && !f.pl && f.nw < 2                                      -- R297
  | .atom _ _ => spaceOk g f && f.nw = 0
  | .red o _ => spaceOk g f && f.nw = 0 && o ≠ .xchg && o ≠ .cas                  -- R300
  | .abupd _ => rangeOk f (· ≠ .cas) && !f.clr && f.sa ≠ .imm && f.sb ≠ .imm
  | .abred _ => rangeOk f (fun o => atomCode o ≤ 5 || o == .fadd) && f.sa ≠ .imm
  | .fence _ => bits f.x13 0 3 ≠ 7
  | .fencesc _ => 4 ≤ bits f.x13 0 3 && bits f.x13 0 3 ≤ 6
  | .copy _ => bits f.x13 8 2 ≠ 3
  | .send _ => immPlaceOk f 1 && 1 ≤ bits f.x13 8 4 && bits f.x13 8 4 ≤ 8
  | .srd _ => srAssigned (bits f.x13 0 8)
  | .swr _ => srWritable (bits f.x13 0 8)
  | .place _ => match f.imm with                                                  -- R367
    | some w => f.sa == .age 0 && bits w 32 32 = 0 && (placeOf (w.extractLsb' 0 32)).isSome
    | none => true
  | .ptset _ => if f.x13.getLsbD 5 then bits f.x13 0 5 = 0 else f.sb == .age 0    -- R384
  | _ => true

/-- R82: an encoding is assigned exactly when it passes every check. -/
def formOk (g : FormSpec) (i : Instr) (f : Form) : Bool :=
  (if g.tys.isEmpty then f.ty == .empty else g.tys.contains f.ty) &&
  (!f.packed || (g.packed && tyHalf f.ty)) &&
  (!g.unguarded || f.guard == { inv := false, p := 7 }) &&
  srcOk g f g.ra f.sa && srcOk g f g.rb f.sb && srcOk g f g.rc f.sc &&
  destOk g f && x13Ok g f && immOk g f &&
  (match f.modw with
   | some m => modOk g.mods f.ty m
   | none => true) &&
  extraOk g i f

/-- R82: whether an instruction is one the encodings can express. A step of the device has no encoding. -/
def instrOk (i : Instr) : Bool :=
  match formSpec i, formOf i with
  | some g, some f => formOk g i f
  | _, _ => false

end Sys2Proof.Machine
end

