-- ==== Sys2Proof/WellFormed.lean ====
section
/-! DEFINITION. Well-formed instructions: those the encodings of spec/03 can express (R82). A step of the device has no
encoding, so it is not well formed in this sense. The checks are the table of Machine/Forms.lean. -/

namespace Sys2Proof

/-- R82: the instruction is an assigned encoding. -/
def Instr.WellFormed (i : Instr) : Prop := Machine.instrOk i = true

/-- R82, as a test. -/
def Instr.wellFormed (i : Instr) : Bool := Machine.instrOk i

end Sys2Proof
end

