-- ==== Sys2Proof/Decode.lean ====
section
/-! DEFINITION. The decoder and the encoder of Valarn 2 (spec/03 R61 to R82). The decoder is total on any bytes and
rejects by name; every rejection but `short` is ILLEGAL (R82). The encoder is written from the same field tables. -/

namespace Sys2Proof

/-- Why bytes are no instruction. -/
inductive Reject where
  /-- Fewer bytes than the instruction has. -/
  | short
  /-- R82: no form at this major opcode and function. -/
  | unassigned
  /-- R75, R82: a reserved field or value of the modifier word. -/
  | modifier
  /-- R82: a field the form does not permit. -/
  | form
deriving DecidableEq, Repr

namespace Decode

open Machine (bits)

/-- R64: the operand a source code names. -/
def src (c : BitVec 6) : Src :=
  let n := c.toNat
  if h : n < 16 then .age ⟨n, h⟩
  else if h : n - 16 < 32 then .frame ⟨n - 16, h⟩
  else if h : n - 48 < 8 then .const ⟨n - 48, h⟩
  else if n = 0x38 then .lane
  else if n = 0x39 then .wslot
  else if n = 0x3A then .x13
  else if n = 0x3B then .imm
  else .inbox ⟨(n - 0x3C) % 4, Nat.mod_lt _ (by decide)⟩

/-- R64: the code of an operand. -/
def srcCode : Src → BitVec 6
  | .age i => BitVec.ofNat 6 i.val
  | .frame i => BitVec.ofNat 6 (16 + i.val)
  | .const k => BitVec.ofNat 6 (48 + k.val)
  | .lane => 0x38
  | .wslot => 0x39
  | .x13 => 0x3A
  | .imm => 0x3B
  | .inbox k => BitVec.ofNat 6 (0x3C + k.val)

/-- R68: the destination select. -/
def ds (c : BitVec 2) : DS :=
  match c.toNat with
  | 0 => .push | 1 => .pushFrame | 2 => .frame | _ => .discard

/-- R68: the code of a destination select. -/
def dsCode : DS → BitVec 2
  | .push => 0 | .pushFrame => 1 | .frame => 2 | .discard => 3

/-- R75: the rounding field. -/
def rnd (c : BitVec 3) : Option Rnd :=
  match c.toNat with
  | 0 => some .dflt | 1 => some .rne | 2 => some .rtz | 3 => some .rup | 4 => some .rdn | 5 => some .rna | _ => none

/-- R75: the code of a rounding field. -/
def rndCode : Rnd → BitVec 3
  | .dflt => 0 | .rne => 1 | .rtz => 2 | .rup => 3 | .rdn => 4 | .rna => 5

/-- R75: the modifier word; `none` where it is ILLEGAL by itself. -/
def modifier (w : Word) : Option Modifier :=
  let hi := w.extractLsb' 16 16
  let lo := w.extractLsb' 0 16
  match rnd (w.extractLsb' 46 3) with
  | none => none
  | some r =>
    if w.extractLsb' 32 13 ≠ 0 then none
    else
      let m (c : Clamp) : Modifier :=
        { na := w.getLsbD 63, aa := w.getLsbD 62, nb := w.getLsbD 61, ab := w.getLsbD 60, nc := w.getLsbD 59,
          ac := w.getLsbD 58, sat := w.getLsbD 57, clamp := c, scale := w.extractLsb' 49 6, rnd := r,
          raw := w.getLsbD 45 }
      match bits w 55 2 with
      | 3 => some (m (.bounds hi lo))
      | k => if hi ≠ 0 ∨ lo ≠ 0 then none
             else some (m (match k with
               | 0 => .none
               | 1 => .unit
               | _ => .sym))

/-- R75: the code and the bounds of a clamp. -/
def clampCode : Clamp → BitVec 2 × BitVec 16 × BitVec 16
  | .none => (0, 0, 0)
  | .unit => (1, 0, 0)
  | .sym => (2, 0, 0)
  | .bounds hi lo => (3, hi, lo)

/-- R75: the modifier word of the fields. -/
def modifierWord (m : Modifier) : Word :=
  let c := clampCode m.clamp
  BitVec.ofBool m.na ++ BitVec.ofBool m.aa ++ BitVec.ofBool m.nb ++ BitVec.ofBool m.ab ++ BitVec.ofBool m.nc ++
    BitVec.ofBool m.ac ++ BitVec.ofBool m.sat ++ c.1 ++ m.scale ++ rndCode m.rnd ++ BitVec.ofBool m.raw ++
    (0 : BitVec 13) ++ c.2.1 ++ c.2.2

/-- R81: major 0x01. -/
def build01 : Nat → Option (Form → Instr)
  | 0 => some Instr.nop
  | _ => none

/-- R81: major 0x02. -/
def build02 : Nat → Option (Form → Instr)
  | 0 => some Instr.iadd
  | 1 => some Instr.isub
  | 2 => some Instr.imul
  | 3 => some Instr.imulh
  | 4 => some Instr.imad
  | 5 => some Instr.idiv
  | 6 => some Instr.irem
  | 7 => some Instr.iabsd
  | 8 => some Instr.imin
  | 9 => some Instr.imax
  | 10 => some Instr.iaddc
  | 11 => some Instr.lea
  | _ => none

/-- R81: major 0x03. -/
def build03 : Nat → Option (Form → Instr)
  | 0 => some Instr.shl
  | 1 => some Instr.shr
  | 2 => some Instr.sar
  | 3 => some Instr.rotl
  | _ => none

/-- R81: major 0x04. -/
def build04 : Nat → Option (Form → Instr)
  | 0 => some Instr.and
  | 1 => some Instr.or
  | 2 => some Instr.xor
  | 3 => some Instr.andn
  | 4 => some Instr.not
  | _ => none

/-- R81: major 0x05. -/
def build05 : Nat → Option (Form → Instr)
  | 0 => some Instr.popc
  | 1 => some Instr.clz
  | 2 => some Instr.ctz
  | 3 => some Instr.brev
  | 4 => some Instr.bfx
  | 5 => some Instr.bfi
  | 6 => some Instr.perm
  | _ => none

/-- R81: major 0x20. -/
def build20 : Nat → Option (Form → Instr)
  | 0 => some Instr.mov
  | 1 => some Instr.drop
  | 2 => some Instr.swap
  | 3 => some Instr.rot
  | 4 => some Instr.pad
  | 5 => some Instr.qdepth
  | 6 => some Instr.qtag
  | 7 => some Instr.retag
  | _ => none

/-- R81: major 0x28. -/
def build28 : Nat → Option (Form → Instr)
  | 0 => some Instr.shflIdx
  | 1 => some Instr.shflUp
  | 2 => some Instr.shflDown
  | 3 => some Instr.shflXor
  | 4 => some Instr.bcast
  | 5 => some Instr.voteAll
  | 6 => some Instr.voteAny
  | 7 => some Instr.voteBallot
  | 8 => some Instr.matchLanes
  | _ => none

/-- R81: major 0x29. -/
def build29 : Nat → Option (Form → Instr)
  | 0 => some (Instr.wred .add)
  | 1 => some (Instr.wred .min)
  | 2 => some (Instr.wred .max)
  | 3 => some (Instr.wred .and)
  | 4 => some (Instr.wred .or)
  | 5 => some (Instr.wred .xor)
  | _ => none

/-- R81: major 0x2A. -/
def build2A : Nat → Option (Form → Instr)
  | 0 => some (Instr.wscan .add false)
  | 1 => some (Instr.wscan .min false)
  | 2 => some (Instr.wscan .max false)
  | 3 => some (Instr.wscan .and false)
  | 4 => some (Instr.wscan .or false)
  | 5 => some (Instr.wscan .xor false)
  | 8 => some (Instr.wscan .add true)
  | 9 => some (Instr.wscan .min true)
  | 10 => some (Instr.wscan .max true)
  | 11 => some (Instr.wscan .and true)
  | 12 => some (Instr.wscan .or true)
  | 13 => some (Instr.wscan .xor true)
  | _ => none

/-- R81: major 0x30. -/
def build30 : Nat → Option (Form → Instr)
  | 0 => some (Instr.icmp .eq)
  | 1 => some (Instr.icmp .ne)
  | 2 => some (Instr.icmp .lt)
  | 3 => some (Instr.icmp .le)
  | 4 => some (Instr.icmp .gt)
  | 5 => some (Instr.icmp .ge)
  | _ => none

/-- R81: major 0x31. -/
def build31 : Nat → Option (Form → Instr)
  | 0 => some Instr.sel
  | _ => none

/-- R81: major 0x32. -/
def build32 : Nat → Option (Form → Instr)
  | 0 => some Instr.pand
  | 1 => some Instr.por
  | 2 => some Instr.pxor
  | 3 => some Instr.pnot
  | 4 => some Instr.pmov
  | 5 => some Instr.ptest
  | _ => none

/-- R81: major 0x40. -/
def build40 : Nat → Option (Form → Instr)
  | 0 => some Instr.fadd
  | 1 => some Instr.fsub
  | 2 => some Instr.fmul
  | 3 => some Instr.ffma
  | 4 => some Instr.fdiv
  | 5 => some Instr.fsqrt
  | 6 => some Instr.fdot2
  | _ => none

/-- R81: major 0x41. -/
def build41 : Nat → Option (Form → Instr)
  | 0 => some Instr.fminNum
  | 1 => some Instr.fmin
  | 2 => some Instr.fmaxNum
  | 3 => some Instr.fmax
  | _ => none

/-- R81: major 0x42. -/
def build42 : Nat → Option (Form → Instr)
  | 0 => some Instr.frnd
  | 1 => some Instr.ffract
  | 2 => some Instr.fldexp
  | 3 => some Instr.ffrexp
  | 4 => some Instr.fcopysign
  | 5 => some Instr.fclass
  | _ => none

/-- R81: major 0x44. -/
def build44 : Nat → Option (Form → Instr)
  | 0 => some (Instr.fcmp .eq)
  | 1 => some (Instr.fcmp .ne)
  | 2 => some (Instr.fcmp .lt)
  | 3 => some (Instr.fcmp .le)
  | 4 => some (Instr.fcmp .gt)
  | 5 => some (Instr.fcmp .ge)
  | 6 => some (Instr.fcmp .ord)
  | 7 => some (Instr.fcmp .uno)
  | _ => none

/-- R81: major 0x58. -/
def build58 : Nat → Option (Form → Instr)
  | 0 => some Instr.cvt
  | 1 => some Instr.cvti
  | 2 => some Instr.cvtf
  | 3 => some Instr.pack2
  | 4 => some Instr.unpk2
  | 5 => some Instr.f8pack
  | 6 => some Instr.f8unpk
  | _ => none

/-- R81: major 0x59. -/
def build59 : Nat → Option (Form → Instr)
  | 0 => some Instr.cbkld
  | 1 => some Instr.cbkdec
  | _ => none

/-- R81: major 0x60. -/
def build60 : Nat → Option (Form → Instr)
  | 0 => some Instr.rcp
  | 1 => some Instr.rsq
  | 2 => some Instr.sqrta
  | 3 => some Instr.exp2
  | 4 => some Instr.log2
  | 5 => some Instr.sinpi
  | 6 => some Instr.cospi
  | 7 => some Instr.sincospi
  | 8 => some Instr.tanh
  | _ => none

/-- R81: major 0x80. -/
def build80 : Nat → Option (Form → Instr)
  | 0 => some Instr.bra
  | 1 => some Instr.brs
  | 2 => some Instr.rejoin
  | 3 => some Instr.jmpi
  | 4 => some Instr.call
  | 5 => some Instr.calli
  | 6 => some Instr.ret
  | 7 => some Instr.exit
  | _ => none

/-- R81: major 0x81. -/
def build81 : Nat → Option (Form → Instr)
  | 0 => some Instr.maskrd
  | 1 => some Instr.maskwr
  | 2 => some Instr.yield
  | 3 => some Instr.sleep
  | 4 => some Instr.loop
  | 5 => some Instr.trap
  | 6 => some Instr.brk
  | 7 => some Instr.splitrd
  | _ => none

/-- R81: major 0xA0. -/
def buildA0 : Nat → Option (Form → Instr)
  | 0 => some Instr.ld
  | 1 => some Instr.ldv
  | 2 => some Instr.ldp
  | 3 => some Instr.st
  | 4 => some Instr.stv
  | 5 => some Instr.pref
  | _ => none

/-- R81: major 0xA1. -/
def buildA1 : Nat → Option (Form → Instr)
  | 0 => some (Instr.atom .add)
  | 1 => some (Instr.atom .min)
  | 2 => some (Instr.atom .max)
  | 3 => some (Instr.atom .and)
  | 4 => some (Instr.atom .or)
  | 5 => some (Instr.atom .xor)
  | 6 => some (Instr.atom .xchg)
  | 7 => some (Instr.atom .cas)
  | 8 => some (Instr.atom .fadd)
  | 9 => some (Instr.atom .bfadd)
  | 10 => some (Instr.atom .xadd)
  | _ => none

/-- R81: major 0xA2. -/
def buildA2 : Nat → Option (Form → Instr)
  | 0 => some (Instr.red .add)
  | 1 => some (Instr.red .min)
  | 2 => some (Instr.red .max)
  | 3 => some (Instr.red .and)
  | 4 => some (Instr.red .or)
  | 5 => some (Instr.red .xor)
  | 8 => some (Instr.red .fadd)
  | 9 => some (Instr.red .bfadd)
  | 10 => some (Instr.red .xadd)
  | _ => none

/-- R81: major 0xA3. -/
def buildA3 : Nat → Option (Form → Instr)
  | 0 => some Instr.abupd
  | 1 => some Instr.abred
  | _ => none

/-- R81: major 0xB0. -/
def buildB0 : Nat → Option (Form → Instr)
  | 0 => some Instr.phase
  | 1 => some Instr.fence
  | 2 => some Instr.fencesc
  | 3 => some Instr.discard
  | 4 => some Instr.wback
  | 5 => some Instr.inval
  | _ => none

/-- R81: major 0xC0. -/
def buildC0 : Nat → Option (Form → Instr)
  | 0 => some Instr.az
  | 1 => some Instr.anch
  | 2 => some Instr.mma
  | 3 => some Instr.mmas
  | 4 => some Instr.mfence
  | 5 => some Instr.mwait
  | 6 => some Instr.gang
  | 7 => some Instr.res
  | 8 => some Instr.resv
  | 9 => some Instr.acmp
  | 10 => some Instr.asgn
  | 11 => some Instr.astr
  | 12 => some Instr.ald
  | 13 => some Instr.aadd
  | 14 => some Instr.avld
  | 15 => some Instr.mrow
  | 16 => some Instr.mxexp
  | _ => none

/-- R81: major 0xD0. -/
def buildD0 : Nat → Option (Form → Instr)
  | 0 => some Instr.copy
  | 1 => some Instr.cstat
  | 2 => some Instr.tdesc
  | 3 => some Instr.cbinit
  | 4 => some Instr.cbwait
  | 5 => some Instr.cbpop
  | 6 => some Instr.cbsig
  | 7 => some Instr.cbfree
  | 8 => some Instr.spost
  | 9 => some Instr.swait
  | 10 => some Instr.send
  | 11 => some Instr.inwait
  | 12 => some Instr.nqpop
  | _ => none

/-- R81: major 0xE0. -/
def buildE0 : Nat → Option (Form → Instr)
  | 0 => some Instr.gbar
  | 1 => some Instr.garr
  | 2 => some Instr.gwait
  | 3 => some Instr.gset
  | 4 => some Instr.gget
  | 5 => some Instr.launch
  | 6 => some Instr.srd
  | 7 => some Instr.swr
  | 8 => some Instr.place
  | 9 => some Instr.ptset
  | 10 => some Instr.tlbinv
  | 11 => some Instr.pgcnt
  | _ => none

/-- R81: the form at a major opcode and function. -/
def build (op fn : Nat) : Option (Form → Instr) :=
  match op with
  | 0x01 => build01 fn
  | 0x02 => build02 fn
  | 0x03 => build03 fn
  | 0x04 => build04 fn
  | 0x05 => build05 fn
  | 0x20 => build20 fn
  | 0x28 => build28 fn
  | 0x29 => build29 fn
  | 0x2A => build2A fn
  | 0x30 => build30 fn
  | 0x31 => build31 fn
  | 0x32 => build32 fn
  | 0x40 => build40 fn
  | 0x41 => build41 fn
  | 0x42 => build42 fn
  | 0x44 => build44 fn
  | 0x58 => build58 fn
  | 0x59 => build59 fn
  | 0x60 => build60 fn
  | 0x80 => build80 fn
  | 0x81 => build81 fn
  | 0xA0 => buildA0 fn
  | 0xA1 => buildA1 fn
  | 0xA2 => buildA2 fn
  | 0xA3 => buildA3 fn
  | 0xB0 => buildB0 fn
  | 0xC0 => buildC0 fn
  | 0xD0 => buildD0 fn
  | 0xE0 => buildE0 fn
  | _ => none

/-- R74: the majors in which FN[6] is the packed bit. -/
def packable (op : Nat) : Bool := op == 0x40 || op == 0x41 || op == 0x42 || op == 0x60

/-- R62: the fields of a base word. -/
def fields (w : Word) (packed : Bool) (m : Option Modifier) (imm : Option Word) : Form :=
  { guard := { inv := w.getLsbD 55, p := ⟨bits w 52 3 % 8, Nat.mod_lt _ (by decide)⟩ },
    ds := ds (w.extractLsb' 50 2), fd := w.extractLsb' 45 5,
    sa := src (w.extractLsb' 39 6), sb := src (w.extractLsb' 33 6), sc := src (w.extractLsb' 27 6),
    packed, ty := Machine.tyOf (w.extractLsb' 16 4), st := w.getLsbD 15, modw := m, imm, x13 := w.extractLsb' 0 13 }

/-- R61: whether a base word is followed by a modifier word and by an immediate word. -/
def hasMod (w : Word) : Bool := w.getLsbD 14
def hasImm (w : Word) : Bool := w.getLsbD 13

/-- R61: the words of the instruction a base word opens. -/
def length (w : Word) : Nat := 1 + (if hasMod w then 1 else 0) + (if hasImm w then 1 else 0)

/-- R82: the instruction of a base word with its modifier and immediate words. -/
def assemble (w : Word) (mw imm : Option Word) : Except Reject Instr :=
  let op := bits w 56 8
  let fn := bits w 20 7
  let packed := packable op && decide (64 ≤ fn)
  match build op (if packed then fn - 64 else fn) with
  | none => .error .unassigned
  | some k =>
    match mw with
    | none =>
      let i := k (fields w packed none imm)
      if Machine.instrOk i then .ok i else .error .form
    | some x =>
      match modifier x with
      | none => .error .modifier
      | some m =>
        let i := k (fields w packed (some m) imm)
        if Machine.instrOk i then .ok i else .error .form

/-- R61: the instruction that opens a list of words, and how many words it has. -/
def words : List Word → Except Reject (Instr × Nat)
  | [] => .error .short
  | w :: rest =>
    if hasMod w then
      match rest with
      | [] => .error .short
      | m :: rest' =>
        if hasImm w then
          match rest' with
          | [] => .error .short
          | x :: _ => (assemble w (some m) (some x)).map (·, 3)
        else (assemble w (some m) none).map (·, 2)
    else if hasImm w then
      match rest with
      | [] => .error .short
      | x :: _ => (assemble w none (some x)).map (·, 2)
    else (assemble w none none).map (·, 1)

/-- R3: the word of eight bytes, the first at the lowest address. -/
def word (b0 b1 b2 b3 b4 b5 b6 b7 : Byte) : Word := b7 ++ b6 ++ b5 ++ b4 ++ b3 ++ b2 ++ b1 ++ b0

/-- R3, R61: the whole words at the head of a list of bytes. -/
def wordsOf : List Byte → List Word
  | b0 :: b1 :: b2 :: b3 :: b4 :: b5 :: b6 :: b7 :: t => word b0 b1 b2 b3 b4 b5 b6 b7 :: wordsOf t
  | _ => []

/-- The decoder: the instruction at the head of a list of bytes and its length in bytes. -/
def decode (bs : List Byte) : Except Reject (Instr × Nat) :=
  (words (wordsOf bs)).map (fun r => (r.1, 8 * r.2))

/-- R62: the base word of a form at a major opcode and function. -/
def baseWord (op fn : Nat) (f : Form) : Word :=
  BitVec.ofNat 8 op ++ BitVec.ofBool f.guard.inv ++ BitVec.ofNat 3 f.guard.p.val ++ dsCode f.ds ++ f.fd ++
    srcCode f.sa ++ srcCode f.sb ++ srcCode f.sc ++ BitVec.ofNat 7 (fn + if f.packed then 64 else 0) ++
    Machine.tyCode f.ty ++ BitVec.ofBool f.st ++ BitVec.ofBool f.modw.isSome ++ BitVec.ofBool f.imm.isSome ++ f.x13

end Decode

/-- The encoder: the words of an encoded instruction; no words for a step of the device. -/
def encode (i : Instr) : List Word :=
  match Machine.formSpec i, Machine.formOf i with
  | some g, some f =>
    Decode.baseWord g.major g.fn f :: ((f.modw.map Decode.modifierWord).toList ++ f.imm.toList)
  | _, _ => []

/-- R3: the bytes of a word, the first at the lowest address. -/
def wordBytes (w : Word) : List Byte :=
  [w.extractLsb' 0 8, w.extractLsb' 8 8, w.extractLsb' 16 8, w.extractLsb' 24 8, w.extractLsb' 32 8,
   w.extractLsb' 40 8, w.extractLsb' 48 8, w.extractLsb' 56 8]

/-- The bytes of an encoded instruction. -/
def encodeBytes (i : Instr) : List Byte := (encode i).flatMap wordBytes

/-- The bytes of an instruction given as a number whose bit 0 is bit 0 of its first word: 24 bytes, the bits the number
does not have being zero. -/
def tableBytes (w : Nat) : List Byte := wordBytes (BitVec.ofNat 64 w) ++
  (wordBytes (BitVec.ofNat 64 (w / 2 ^ 64)) ++ wordBytes (BitVec.ofNat 64 (w / 2 ^ 128)))

/-- The instruction this decoder reads from the bits `w` of a row of spec/opcode_table.json. -/
def decodeTableWord (nbits w : Nat) : Option Instr :=
  match Decode.decode (tableBytes (w % 2 ^ nbits)) with
  | .ok (i, _) => some i
  | .error _ => none

end Sys2Proof
end

