-- ==== Sys2Proof/Config.lean ====
section
/-! DEFINITION. The values the manual leaves open. Each is a constant without a body, applied to the operands it
depends on or to the counter `Dev.freeCtr`: nothing in Lean can evaluate one, so no statement can rest on its value. -/

namespace Sys2Proof.Config

/-- A free choice between two outcomes the manual allows (log 5): for example old or new translation (R257). -/
opaque freeBool : Nat → Bool

/-- A free natural number, taken modulo the number of outcomes the manual allows (log 5). -/
opaque freeNat : Nat → Nat

/-- A free 64-bit value: a word that no rule states (log 6). -/
opaque freeWord : Nat → BitVec 64

/-- Result `i` of a synchronous form that reads undefined elements, the reading numbered `n`, and predicate `i` of one
(R9, R182; log 6). -/
opaque freeResult : Nat → Nat → BitVec 64
opaque freePred : Nat → Nat → Bool

/-- The carry-save words, guard and flag of element `i` of undefined tile contents `n` (R9, R31, R182; log 6). -/
opaque freeElem : Nat → Nat → BitVec 131

/-- The delivered result of special function `op` on the bits `a` of a format of `w` bits, before it is held to
the bound of R168: the same input gives the same bits (log 7). -/
opaque specialResult : Nat → Nat → Nat → Nat

/-- R233: the base of the private region of a wave of a context, which the device reserves at placement (log 72). -/
opaque privateBase : Nat → Nat → BitVec 57

/-- R441: by how many mW, in three steps, the excess over the power limit grows until m falls from 4 to 3, to 2 and to 1 (log 87). -/
opaque pacingStep : Nat → Nat

/-- R364, R445: the offset in BAR0 of virtual function `f` of the tail register of launch queue `q` (log 80). -/
opaque functionTail : Nat → Nat → Nat

/-- R445: what a field that is only written reads as, by its offset (log 56). -/
opaque readback : Nat → BitVec 64

/-- A free byte: what an undefined byte holds after the event numbered `n` (R9, R331; log 6). -/
opaque freeByte : Nat → BitVec 8

/-- The reply of a mailbox command whose layout the manual does not give (R446; log 13). -/
opaque mailboxReply : Nat → Nat → BitVec 64

/-- Dword `i` of the signed report number `n` of what the list holds: its layout and its signature are not given (R444; log 13). -/
opaque signedReport : Nat → List (BitVec 64) → Nat → BitVec 64

/-- Whether a firmware image with the given digest verifies against the key with the given digest (R442; log 13). -/
opaque verifies : Nat → Nat → Bool

/-- SHA-256 style digest of a byte sequence, whose computation the manual does not give (R444; log 13). -/
opaque digest : List (BitVec 8) → Nat

/-- Whether firmware's route table lists a port (0 to 15) for a package (R362; log 41). -/
opaque routed : Nat → Nat → Bool

end Sys2Proof.Config
end

