-- ==== Sys2Proof/Machine/State.lean ====
section
/-! DEFINITION. The state of a Cuwala C8 package, as plain data: every item of every state card of spec/04, 07 to 10 and
12 to 18, the tables of spec/14, and the model's own fields (`agenda`, `issuer`, `freeCtr`, `uid`), which the log names. -/

namespace Sys2Proof.Machine

/-- The reasons to stop. No rule of the manual stops the package: every trap is a next state (R403). -/
inductive Fault where
  /-- Raised by `step` when the package has no supply (R437): nothing runs, so nothing can be said of a next state.
  Safe. -/
  | unpowered
deriving DecidableEq, Repr

/-- The reasons a step has no next state. -/
inductive Refusal where
  /-- An instruction that has no meaning yet. Safe. -/
  | notModelled (mnemonic : String)
  /-- An encoded instruction was executed while no split issues (`Dev.issuer` is `none`): it belongs to no wave. Safe. -/
  | noIssuer
  /-- A step of the device that the named condition of the manual does not let happen in this state. Safe. -/
  | notEnabled (why : String)
deriving DecidableEq, Repr

/-! ## Memory -/

/-- The bytes of every memory of the package and of the memories outside it, in canonical form: addresses strictly
rising, no zero byte listed. The regions are laid out by the bases of Machine/Ops.lean (R231). -/
structure Memory where
  cells : List Host.Cell
deriving DecidableEq, Repr

/-- What an unlisted byte reads as: zero, which R9 allows of an undefined value (log 1, DESIGN CHOICE). -/
def unlistedByte : Byte := 0

/-- Addresses strictly above `lo` rise and no listed byte is the unlisted one. -/
def Memory.wfFrom : Option Nat → List Host.Cell → Bool
  | _, [] => true
  | lo, (a, b) :: t =>
    (match lo with
     | some l => decide (l < a)
     | none => true) && b != unlistedByte && Memory.wfFrom (some a) t

/-- The canonical form. -/
def Memory.wf (m : Memory) : Bool := Memory.wfFrom none m.cells

/-- Memory with nothing listed. -/
def Memory.empty : Memory := { cells := [] }

/-! ## Registers of a wave (spec/04) -/

/-- R91, R93, R110: whether an entry is pending: until a cc, or until the data of result `idx` of a record entry. -/
inductive Pend where
  | clear
  | fixed (ready : Nat)
  /-- R96: it has arrived, with a tag that may be read from a cc on; before that, the entry has the tag it was bound with. -/
  | tagged (ready : Nat) (was : Ty)
  | bound (seq idx : Nat)
deriving DecidableEq, Repr

/-- R91: a queue entry or a frame slot. -/
structure Entry where
  val : Word
  tag : Ty
  pend : Pend
deriving DecidableEq, Repr

/-- R90: an entry never filled. -/
def Entry.empty : Entry := { val := 0, tag := .empty, pend := .clear }

/-- R90, R110: a predicate of a lane and the cc from which it may be read. -/
structure Pred where
  val : Bool
  ready : Nat
deriving DecidableEq, Repr

/-- R90: the per-lane items: q1 to q16, f0 to f31, p0 to p6. -/
structure Lane where
  q : List Entry
  f : List Entry
  p : List Pred
deriving DecidableEq, Repr

/-- R31, R90: a lane at launch. -/
def Lane.reset : Lane :=
  { q := List.replicate 16 Entry.empty, f := List.replicate 32 Entry.empty,
    p := List.replicate 7 { val := false, ready := 0 } }

/-- R207, R208: one level of a mark stack. -/
structure Mark where
  id : Nat
  depth : Nat
  count : Int
deriving DecidableEq, Repr

/-- R97, R220, R222: one saved caller level: its queue per lane and its header. `m` is `none` for a `call`. -/
structure CallLevel where
  queues : List (List Entry)
  retPc : VAddr
  emask : LaneMask
  home : LaneMask
  marks : Nat
  /-- R219: the argument count of a `calli`, which its later groups take too (log 20). -/
  n : Nat
  m : Option Nat
  rem : LaneMask
  /-- R219: the targets of the lanes held in the remainder, as read when the `calli` issued (log 20). -/
  targets : List VAddr
  /-- R219: the lanes whose call has returned. -/
  done : LaneMask
deriving DecidableEq, Repr

/-- What a split has done of an instruction that takes several steps, while its PC stays at it. -/
inductive Stage where
  | idle
  /-- R306: the allowance and the fence are passed; waits for the entry of boundary `b`. -/
  | phase (b : Nat)
  /-- R282: a `fencesc` of this scope waits for the commit of boundary `b`. -/
  | scCommit (b scope : Nat)
  /-- R282: the commit completed in cc `c`; waits for its tick. -/
  | scTick (c scope : Nat)
  /-- R282: the tick came in cc `c`; waits for the guard. -/
  | scGuard (c : Nat)
  /-- R282: performed; waits for the entry of boundary `b`, or for an entry of its own. -/
  | scEntry (b : Option Nat)
  /-- R372: an arrival waits for the commit of boundary `b`. -/
  | arrive (b : Nat)
  /-- R372: the arrival of record entry `seq` is under way. -/
  | arriving (seq : Nat)
  /-- R372: released; waits for the entry of boundary `b`, or for an entry of its own. -/
  | entering (b : Option Nat)
  /-- R276: a fence waits for these record entries and tile transfers, issued before it. -/
  | fence (recs slots : List Nat)
  /-- R278: the same of the fence of a `phase`, whose allowance is passed. -/
  | phaseFence (recs slots : List Nat)
  /-- R279: a wait on a counter, which no scratchpad or phased access of its wave passes. -/
  | acquire
  /-- R318, R344: a `cbfree` waits to take `n` slots of this buffer. -/
  | taking (buf n : Nat)
  /-- R185, R372: an arrival waits for these tile stores, issued before it. -/
  | settling (slots : List Nat)
  /-- R385: the invalidation numbered `n` is under way. -/
  | tlbinv (n : Nat)
deriving DecidableEq, Repr

/-- R227: the wait of a `yield`: its end and the splits that must issue first (wave, split). -/
structure Yield where
  until_ : Nat
  /-- The splits of the cc of the `yield` are not settled yet: they are at the end of that cc. -/
  fresh : Bool
  peers : List (Nat × Nat)
deriving DecidableEq, Repr

/-- R207, R375: a split. -/
structure Split where
  num : Nat
  created : Nat
  pc : VAddr
  emask : LaneMask
  home : LaneMask
  marks : List Mark
  depth : Nat
  arrived : Bool
  rejoinAt : VAddr
  /-- The arriving `rejoin`'s count and layout word (R214, R215). -/
  rejoinN : Nat
  rejoinLayout : Option Word
  calliRem : LaneMask
  /-- R207: the sleep remainder, in cc, and whether the split sleeps (R227). -/
  sleep : Nat
  asleep : Bool
  yield : Option Yield
  ageing : Nat
  loaded : Bool
  loadedAt : Nat
  /-- R29, R229: the first cc in which the split may issue again. -/
  readyAt : Nat
  /-- R35: the split is in issue before this cc. -/
  inIssueUntil : Nat
  stage : Stage
  /-- R51, R395: the stall class the split was charged to when it last could not issue. -/
  wait : Option Nat
  /-- R256: the fetch waits on this untranslated page. -/
  fetchWait : Option VAddr
  /-- R405: the split raised a trap that has not been resumed. -/
  trapped : Bool
deriving DecidableEq, Repr

/-- R31, R375: the only split of a launched wave. -/
def Split.first (pc : VAddr) (mask : LaneMask) : Split :=
  { num := 0, created := 0, pc, emask := mask, home := mask, marks := [], depth := 0, arrived := false, rejoinAt := 0,
    rejoinN := 0, rejoinLayout := none, calliRem := 0, sleep := 0, asleep := false, yield := none, ageing := 0, loaded := true,
    loadedAt := 0, readyAt := 0, inIssueUntil := 0, stage := .idle, wait := none, fetchWait := none, trapped := false }

/-- R43: the roles. -/
inductive Role where
  | v | m | c
deriving DecidableEq, Repr

/-- R105: an inbox slot: the record or chain it is reserved for, its 32 lane values once filled. -/
structure InSlot where
  key : Nat
  fill : Option (List (Word × Ty))
  /-- R96, R230: the first cc in which a fill may be read. -/
  readyAt : Nat
deriving DecidableEq, Repr

/-- R171: an accumulator element. -/
structure Elem where
  s : Word
  c : Word
  g : BitVec 2
  ovf : Bool
deriving DecidableEq, Repr

/-- R31, R182: the contents of a tile: undefined contents numbered `n`, or 1,024 elements. -/
inductive TileData where
  | undef (n : Nat)
  | vals (es : List Elem)
deriving DecidableEq, Repr

/-- R171, R176, R177, R180: a tile. -/
structure Tile where
  data : TileData
  anchor : Int
  progress : Nat
  busyUntil : Nat
  /-- R182: an operation on it has completed that no `mwait` has covered. -/
  open_ : Bool
  /-- R9: the number of its undefined values, drawn anew whenever something changes it. -/
  stamp : Nat
deriving DecidableEq, Repr

/-- R181: the kinds of asynchronous matrix operation. -/
inductive SlotKind where
  | mma | mmas | astr | ald
deriving DecidableEq, Repr

/-- R177, R181: an operation slot. -/
structure OpSlot where
  kind : SlotKind
  tile : Nat
  a : Word
  b : Word
  bitmap : Word
  operand : Word
  canonical : Bool
  scratch : Bool
  book : BitVec 256
  gang : Nat
  pc : VAddr
  split : Nat
  order : Nat
  /-- R185, R279: its place among the accesses issued on the package. -/
  num : Nat
  /-- R192: the cc in which leave was asked for, while it is awaited, and whether it has come. -/
  asked : Option Nat
  granted : Bool
  /-- R195: its gang has joined, and the number of the joint operation. -/
  joined : Bool
  joint : Option Nat
  /-- R189, R202: it has begun; of a transfer, `begunAt` is the cc of its last 256 bytes. -/
  begun : Bool
  begunAt : Nat
  passes : Nat
  /-- R185: the bytes of the image already moved. -/
  bytes : Nat
  /-- R188: the step waits on an untranslated page. -/
  xlate : Option VAddr
  /-- R182: a synchronous form met the operation, so the tile is undefined when both have finished. -/
  spoiled : Bool
deriving DecidableEq, Repr

/-! ## The in-flight record (spec/11 R293, spec/14 R390, spec/16 R416) -/

/-- R390, R422: what an access names: a virtual address, a byte of a rectangle quad's share, or a private byte. -/
inductive Target where
  | virt (a : VAddr)
  | quad (pos off : Nat)
  | priv (off : Nat)
deriving DecidableEq, Repr

/-- One lane's access: where, how many bytes, and what is stored or combined. -/
structure Access where
  lane : Nat
  target : Target
  bytes : Nat
  data : List Byte
  b : Word
  c : Word
deriving DecidableEq, Repr

/-- What a record entry does when it is performed. -/
inductive RecOp where
  /-- R294, R295: reads `n` elements of `w` bytes and delivers them under `ty`. -/
  | load (ty : Ty) (n w : Nat)
  /-- R264, R298, R299: writes elements of `w` bytes, each at once. -/
  | store (w : Nat)
  /-- R300: `ret` says whether it delivers (an `atom`). -/
  | atom (o : AtomOp) (ty : Ty) (ret : Bool)
  /-- R304 and R305: n elements from `at`. -/
  | update (o : AtomOp) (ty : Ty) (n : Nat)
  | reduce (o : AtomOp) (ty : Ty) (n : Nat) (clr : Bool)
  | copy (engine handle : Nat)
  | arrival (k gen : Nat)
  | post (ring slot : Nat) (v : Word)
  | sig (buf n : Nat)
  | pop (buf n : Nat)
  | send (core handler : Nat)
  | gset (k slot : Nat) (v : Word) (tag : Ty)
  | gget (k slot : Nat)
  | launch (a : VAddr)
  | ptset (a : VAddr) (full val : Bool) (m : Nat) (v : Word)
  | tlbinv (a : VAddr) (s n : Nat)
  | pgcnt (a : VAddr) (rst : Bool)
  | discard (a : VAddr) (s : Nat)
  | wback (a : VAddr) (s : Nat)
  | inval (a : VAddr) (s : Nat)
deriving DecidableEq, Repr

/-- Where a record entry stands on its way. -/
inductive RecState where
  /-- R256: a table walk is under way. -/
  | walk
  /-- R240: an L1 fill is awaited. -/
  | fill
  /-- R256, R404: the page is untranslated; waits for a covering invalidation. -/
  | xlate (a : VAddr)
  /-- R258: held by a write-blocked page. -/
  | held (a : VAddr)
  /-- On its way to the unit that performs it. -/
  | sent
  /-- R271: a store that found no room in its core's versions. -/
  | room
  /-- R279, R315, R369: performed from this cc on. -/
  | timed (ready : Nat)
  /-- R418: refused by a full filter store in cc `c`. -/
  | refused (c : Nat)
  /-- Performed; its reply is on its way. -/
  | replied
deriving DecidableEq, Repr

/-- R266, R269: a snapshot: the commit serials up to `upTo` but not those of `open_`. -/
structure Snap where
  upTo : Nat
  open_ : List Nat
deriving DecidableEq, Repr

/-- R184: what the load pipes of a wave's matrix engine are sure to see: what was visible to the wave at its last `mfence`. -/
structure PipeView where
  snap : Snap
  /-- Its own stores so far. -/
  stores : Nat
  /-- The commits and stores its loads had brought, by byte, and the stores of other waves it had ordered. -/
  seen : List (Nat × Nat)
  seenStores : List (Nat × Nat)
  knows : List (Nat × Nat)
  /-- The numbered writes to scratchpad and Abacus memory so far. -/
  num : Nat
deriving DecidableEq, Repr

/-- R184: the load pipes of a wave that has made no `mfence`. -/
def PipeView.none : PipeView :=
  { snap := { upTo := 0, open_ := [] }, stores := 0, seen := [], seenStores := [], knows := [], num := 0 }

/-- R390: an in-flight record entry. -/
structure Rec where
  seq : Nat
  cls : Nat
  kind : Nat
  split : Nat
  pc : VAddr
  lanes : LaneMask
  op : RecOp
  accesses : List Access
  /-- The physical address of each access's first byte, once translated (R257). -/
  phys : List Nat
  state : RecState
  /-- R411: the lanes whose reply was accepted. -/
  done : LaneMask
  /-- Results per lane, as the unit returned them. -/
  results : List (Nat × List (Word × Ty))
  frozen : Bool
  /-- R421: being replayed after a restore. -/
  replaying : Bool
  inbox : Option Nat
  messages : List (Nat × List (Word × Ty))
  /-- R266: the cc in which it issued; of a store that found no room, the cc from which it belongs to the next commit. -/
  at_ : Nat
  /-- R358: its place among the accesses issued on the package. -/
  num : Nat
  /-- R241: the snapshot of the phase that asked for the line a late fill brought it. -/
  late : Option Snap
  /-- R248: the lanes whose page is uncached host memory. -/
  direct : LaneMask
  /-- R354: its request has been injected into the mesh, or needs no injection. -/
  injected : Bool
  /-- R258: a write-blocked page has held it. -/
  wasHeld : Bool
  /-- R256, R400: the walks of its pages have started. -/
  walking : Bool
deriving DecidableEq, Repr

/-- R394: what `srd` reads of a wave's registers that an issue can change, as it was before the changes of the cc. -/
structure Sampled where
  issued : Nat
  safePoints : Nat
  phase : Nat
  live : Bool
deriving DecidableEq, Repr

/-- R395, R392: the counters of a wave. -/
structure WaveCounters where
  stall : List Nat
  resident : Nat
  issued : Nat
  safePoints : Nat
deriving DecidableEq, Repr

/-- R108, R372: a group reference and the wave's arrival state for it. -/
structure GroupRef where
  member : Bool
  entry : Nat
  arr : Bool
  gen : Nat
deriving DecidableEq, Repr

/-- R100, R342, R417: what a handler wave keeps of its message. -/
structure HandlerOf where
  slot : Nat
  sender : Nat
  taskPos : Nat
deriving DecidableEq, Repr

/-- R426, R427: a stop site of a loaded image: its address, its kernel index and ordinal, the masks of its live queue entries,
frame slots and predicates, and the mark stack depth expected there. -/
structure StopSite where
  pc : VAddr
  kernel : Nat
  ordinal : Nat
  q : BitVec 16
  f : BitVec 32
  p : BitVec 7
  marks : Nat
deriving DecidableEq, Repr

/-- R403, R407: a trap raised and not yet delivered. -/
structure Trap where
  code : Nat
  ctx : Nat
  launchId : Nat
  task : Nat
  taskIndex : Nat
  n : Nat
  /-- The wave and split that stop at it; none for an engine fault. -/
  wave : Option Nat
  split : Option Nat
  age : Nat
  pc : VAddr
  lanes : LaneMask
  d2 : Nat
  addr : Nat
  handle : Nat
  offset : Nat
  safePoints : Nat
  edited : Bool
  /-- R426, R429: the stop site whose instruction raised it: a breakpoint's, or a program-visible trap's. -/
  site : Option StopSite
deriving DecidableEq, Repr

/-- R90, R177, R207, R293, R392, R402: a wave. -/
structure Wave where
  uid : Nat
  task : Nat
  ctx : Nat
  launchId : Nat
  taskIndex : Nat
  n : Nat
  role : Role
  /-- The wave's index j on its core (R30). -/
  j : Nat
  /-- Its quad's position in the rectangle, its core in that quad and its scheduler (R49). -/
  x : Nat
  y : Nat
  core : Nat
  sched : Nat
  slot : Nat
  service : Bool
  handler : Option HandlerOf
  residentAt : Nat
  lanes : List Lane
  splits : List Split
  /-- R34, R376: the spilled splits, earliest first. -/
  spilled : List Nat
  /-- R376: the record of the stack the next load reads, 1 to 31; 0 before the first spill. -/
  spillHead : Nat
  spillCount : Nat
  swapDue : Bool
  swapSplit : Nat
  created : Nat
  markCounter : Nat
  levels : List CallLevel
  depth : Nat
  books : List (BitVec 256)
  /-- R104, R166: the codebooks as they were before the `cbkld` of a cc. -/
  oldBooks : Option (Nat × List (BitVec 256))
  pipes : PipeView
  inboxes : List (List InSlot)
  tiles : List Tile
  slots : List OpSlot
  fpFlags : BitVec 5
  fpTrapEn : BitVec 5
  intFlag : Bool
  /-- R108: the flags raised in a cc, which an `swr` of that cc leaves set. -/
  raisedAt : Nat × BitVec 5 × Bool
  gids : List GroupRef
  phase : Nat
  recs : List Rec
  recSeq : Nat
  counters : WaveCounters
  /-- R394: its counters and phase number at the start of the cc. -/
  sampled : Sampled
  /-- R34, R60: how many shared split entries its own splits freed in a cc, and it has not taken again. -/
  freedAt : Nat × Nat
  halted : Bool
  /-- R405: the trapping splits and their codes. -/
  haltList : List (Nat × Nat)
  /-- R427, R432: the stop sites at which it halted, each with the home set of the split that stopped there. -/
  haltSites : List (LaneMask × StopSite)
  debugHalt : Bool
  edited : Bool
  /-- R431: the last home-side match awaiting the next safe point: the writer's context and the address. -/
  homeWatch : Option (Nat × Nat)
  /-- R158: the FPE traps a pre-emption came before, to be raised as the first event on resume. -/
  heldTraps : List Trap
  replaying : Bool
  exited : Bool
  /-- R224: exited and every operation complete. -/
  freed : Bool
  /-- R410: issue is stopped. -/
  stopped : Bool
  /-- R267: restored onto a core whose entry it awaits. -/
  awaitsEntry : Bool
  /-- R269: the commit serial already read from a byte in this phase. -/
  seen : List (Nat × Nat)
  /-- R269: the uncommitted store already read from a byte in this phase. -/
  seenStores : List (Nat × Nat)
  /-- R277: the stores of its core it has ordered before its later loads: store number bound per wave. -/
  knows : List (Nat × Nat)
  /-- R277: what the loads since the last fence brought, to be ordered by the next one. -/
  learned : List (Nat × Nat)
  /-- R277: the store number at its last fence. -/
  fenceAt : Nat
deriving DecidableEq, Repr

/-! ## Tasks and launches (spec/02, 12, 14) -/

/-- R315, R316: a `cbinit` whose reset is still to come: the cc of it, and what it binds. -/
structure BufBind where
  at_ : Nat
  base : Nat
  bytes : Nat
  count : Nat
deriving DecidableEq, Repr

/-- R313, R317: a circular buffer of a task in one quad. -/
structure Buf where
  phys : Nat
  bound : Bool
  base : Nat
  slotBytes : Nat
  count : Nat
  /-- The slot map: the slot number at each map position. -/
  map : List Nat
  /-- The share offset of each slot number. -/
  offsets : List Nat
  taken : List Bool
  published : List Bool
  head : Nat
  write : Nat
  filled : Nat
  free : Nat
  /-- R323: the extensions of this buffer: start and bytes in the share. -/
  exts : List (Nat × Nat)
  /-- R315: the resets to come, the earliest first. -/
  binds : List BufBind
  /-- R344: the last cc in which an operation acted on it, and the place of that operation in the order of the cc. -/
  acted : Nat × Nat
  /-- R394: filled and free as `srd` reads them, at the start of the cc. -/
  was : Nat × Nat
deriving DecidableEq, Repr

/-- R313: an unbound buffer (R316). -/
def Buf.unbound (phys : Nat) : Buf :=
  { phys, bound := false, base := 0, slotBytes := 0, count := 0, map := [], offsets := [], taken := [],
    published := [], head := 0, write := 0, filled := 0, free := 0, exts := [], binds := [], acted := (0, 0), was := (0, 0) }

/-- R313, R324: a stage ring: the phase and the payload of each of 8 slots. -/
structure Ring where
  phys : Nat
  slots : List (Bool × BitVec 32)
  /-- R344: the last cc in which an `swait` on each slot was satisfied. -/
  waited : List (Nat × Nat)
deriving DecidableEq, Repr

/-- R330: a level of a chain's loop stack. -/
structure LoopLevel where
  entry : Nat
  count : Nat
  total : Nat
deriving DecidableEq, Repr

/-- R336: what a chain waits on. -/
inductive ChainWait where
  | none | slot | waitcb | leave | xlate (a : VAddr)
deriving DecidableEq, Repr

/-- R313, R330: a chain queued or running on an engine. -/
structure Chain where
  seq : Nat
  wave : Nat
  n : Nat
  ctx : Nat
  launchId : Nat
  task : Nat
  /-- The issuing wave's place in the rectangle: x + 12y, and its core there. -/
  pos : Nat
  core : Nat
  rec_ : Nat
  pc : VAddr
  inbox : Option Nat
  head : Nat
  entry : Nat
  /-- R329: the words of the entry it has reached, read once; none until they are read. -/
  words : List Word
  /-- R332, R333: the bytes of the source lines a GATHER or a multicast MOVE has read, by key, and its latest index read, with its slice. -/
  lines : List (Nat × Byte)
  /-- R331, R333: the bytes of those lines that the elements moved so far have used, by key. -/
  used : List Nat
  index : Option (Nat × Int)
  os : Int
  od : Int
  loops : List LoopLevel
  /-- Elements of the entry in progress already moved. -/
  moved : Nat
  /-- The slots taken by the entry in progress: rectangle position, map position, offset. -/
  taken : List (Nat × Nat × Nat)
  /-- Every element of the entry in progress is written. -/
  landed : Bool
  written : Nat
  leaveAsked : Option Nat
  leaveDone : Bool
  wait : ChainWait
  step : Nat
  running : Bool
deriving DecidableEq, Repr

/-- R313, R335: a copy engine: its chains, its handle counter and the status of its last completed chains. -/
structure Engine where
  chains : List Chain
  seq : Nat
  done : List (Nat × Word)
deriving DecidableEq, Repr

/-- R313, R326: what a task holds in one quad of its rectangle. -/
structure TaskQuad where
  share : Nat
  placed : Nat
  bufs : List Buf
  rings : List Ring
  /-- The physical index and the sealed image of each descriptor. -/
  descs : List (Nat × Option (List Word))
deriving DecidableEq, Repr

/-- R194, R195: an arrival in a rendezvous latch. -/
structure LatchArrival where
  wave : Nat
  order : Nat
  set : Nat
  b : Word
  operand : Word
deriving DecidableEq, Repr

/-- R275, R287: the number received from a neighbour, none where it imposes no limit: when it came, and the one before. -/
structure Nbr where
  num : Option Nat
  at_ : Nat
  was : Option Nat
deriving DecidableEq, Repr

/-- R392: the number of a neighbour until the first exchange. -/
def Nbr.zero : Nbr := { num := some 0, at_ := 0, was := some 0 }

/-- R177, R392: what a task holds on one core of its rectangle. -/
structure TaskCore where
  gang : Nat
  latch : List LatchArrival
  /-- R275: the received numbers of the four neighbours: up, left, right, down. -/
  nbr : List Nbr
deriving DecidableEq, Repr

/-- R177, R392: what a core holds of a task at its placement. -/
def TaskCore.reset : TaskCore := { gang := 0, latch := [], nbr := List.replicate 4 Nbr.zero }

/-- R47, R410: where a task stands. -/
inductive TaskState where
  | waiting | resident | saving | settled | saved | restoring | stopping | ended
deriving DecidableEq, Repr

/-- R341: a message. -/
structure Msg where
  ctx : Nat
  launchId : Nat
  task : Nat
  sender : Nat
  senderUid : Nat
  split : Nat
  pc : VAddr
  lane : Nat
  handler : Nat
  payload : List (Word × Ty)
deriving DecidableEq, Repr

/-- R412, R413: what the image header records; the image's other sections are the fields the task keeps. -/
structure Image where
  codeBase : VAddr
  tick : Nat
  policy : BitVec 2
  edited : Bool
  /-- R413: its size, and how much of it is written out to HBM (R244), in units of 256 bytes. -/
  size : Nat
  spilled : Nat
  /-- R261, R415: a sector of it was found uncorrectable. -/
  bad : Bool
deriving DecidableEq, Repr

/-- R36: a task. -/
structure Task where
  uid : Nat
  ctx : Nat
  launchId : Nat
  index : Nat
  state : TaskState
  placedOnce : Bool
  ox : Nat
  oy : Nat
  quads : List TaskQuad
  cores : List TaskCore
  waitSince : Nat
  residentSince : Nat
  preemptOrder : Nat
  trapped : Bool
  /-- R48: it was placed with two handler slots for its context on each core. -/
  handlers : Bool
  /-- R57: the origin its rotation makes room at, until it is placed. -/
  claim : Option (Nat × Nat)
  /-- R37: exited; waits for the commits that publish its version. -/
  committing : List (Nat × Nat)
  image : Option Image
  /-- R343, R412: while it is saved: its chains, each with its engine, and its unspawned messages, each with its core in
  the rectangle, 4 (x + 12y) + c. -/
  chains : List (Nat × Chain)
  msgs : List (Nat × Msg)
  /-- R359: the packets for it that completed while it was being saved: each with its core in the rectangle and its flits. -/
  packets : List (Nat × List Flit)
deriving DecidableEq, Repr

/-- R370: a group entry. `members` is the expansion of MSPEC. -/
structure Group where
  mode : Nat
  g0 : Word
  g1 : Word
  members : List Nat
  count : Nat
  arrived : Nat
  gen : Nat
  broken : Bool
  slots : List (Word × Ty)
  /-- R374: of each slot, the last cc in which it was written, by which wave number, and what it held before that cc. -/
  sets : List (Option (Nat × Nat × Word × Ty))
deriving DecidableEq, Repr

/-- R47: the states of a launch. -/
inductive LaunchState where
  | held | ready | running | retired | rejected | cancelled
deriving DecidableEq, Repr

/-- R47, R380: a launch. -/
structure Launch where
  ctx : Nat
  id : Nat
  order : Nat
  desc : List Word
  state : LaunchState
  reason : Nat
  trappedTasks : Nat
  params : List Byte
  groups : List Group
  codeBase : VAddr
  /-- R448: how far relocations have moved its code. -/
  moved : VAddr
  pcV : VAddr
  pcM : VAddr
  pcC : VAddr
  statusPending : Bool
  /-- R340: its final state counts: the notification is written. -/
  counted : Bool
deriving DecidableEq, Repr

/-! ## Contexts (spec/17, 18) -/

/-- R339: a notification entry. -/
structure Notif where
  w0 : Word
  w1 : Word
  w2 : Word
  w3 : Word
deriving DecidableEq, Repr

/-- R340: the units that post notifications. -/
inductive Poster where
  | core (i : Nat) | quad (i : Nat) | launchUnit | watchTable | endpoint (i : Nat)
deriving DecidableEq, Repr

/-- R340: what stays unfinished until a notification is written. -/
inductive Finish where
  | none
  /-- R340, R406: a task stopped by a fatal trap ends. -/
  | endTask (task : Nat)
  /-- R340, R405: a wave halted by a program-visible trap may be resumed (log 85). -/
  | trap (wave : Nat)
  /-- R340: a launch counts as retired, rejected or cancelled. -/
  | launch (ctx id : Nat)
  /-- R340, R256: what waits on an untranslated page, and whether an invalidation has covered the page. -/
  | xlate (va : Nat) (covered : Bool)
deriving DecidableEq, Repr

/-- R340: a notification held by the unit that posts it. -/
structure HeldNotif where
  unit : Poster
  entry : Notif
  fin : Finish
deriving DecidableEq, Repr

/-- R184, R277: a byte of scratchpad or Abacus memory written, numbered: what it held before, which a load pipe may still read,
and the wave that stored it (0 for none) with the stores it had fenced. -/
structure PipeByte where
  num : Nat
  key : Nat
  old : Byte
  wave : Nat
  fence : Nat
deriving DecidableEq, Repr

/-- R407: a trap record. -/
structure TrapRec where
  dwords : List Word
deriving DecidableEq, Repr

/-- R428, R448: a context and its block. -/
structure Ctx where
  id : Nat
  block : Nat
  /-- R364: the function of the PCI Express endpoint it is assigned to: 0 the physical one, 1 to 32 a virtual one. -/
  fn : Nat
  root : Nat
  nqBase : Word
  nqHead : Nat
  nqTail : Nat
  nqLost : Nat
  held : List HeldNotif
  policy : BitVec 2
  abase : Word
  acThr : Nat
  stBase : Word
  stSize : Word
  stCount : Nat
  trCtl : Word
  trCount : Nat
  trSize : Nat
  debug : Bool
  hold : Bool
  relocId : Nat
  brk : List Word
  hwatch : List (Word × Word)
  marion : List Word
  /-- R426: the stop sites of the loaded images (log 21). -/
  sites : List StopSite
  nextLaunch : Nat
  trapRecs : List TrapRec
  trapCount : Nat
  /-- R402, R418: the context's replay-pending mark is set at every executing unit. -/
  marked : Bool
deriving DecidableEq, Repr

/-! ## Cores and quads -/

/-- R256: a cached translation. -/
structure TlbEntry where
  ctx : Nat
  page : Nat
  size : Nat
  pte : Word
deriving DecidableEq, Repr

/-- R238: a line in an L1, with the valid bit of each of its two sectors. -/
structure L1Line where
  line : Nat
  valid : BitVec 2
deriving DecidableEq, Repr

/-- R240, R241: a miss-status entry: its line, when it was allocated, in which phase of its core and under which snapshot. -/
structure Miss where
  line : Nat
  at_ : Nat
  epoch : Nat
  snap : Snap
  joined : List (Nat × Nat)
deriving DecidableEq, Repr

/-- R266, R267: a boundary in progress on a core. -/
structure Boundary where
  num : Nat
  serial : Nat
  entry : Bool
  start : Nat
  /-- The versions are written home; the commit is complete. -/
  written : Bool
  done : Bool
deriving DecidableEq, Repr

/-- R400: a performance counter. -/
structure Pmc where
  cfg : BitVec 32
  val : Nat
  /-- A configuration written in this cc, in force from the next. -/
  next : Option (BitVec 32)
deriving DecidableEq, Repr

/-- R15, R29: a scheduler: the cc from which each half and the special-function unit are free. -/
structure Sched where
  half0 : Nat
  half1 : Nat
  sfu : Nat
  /-- R51, R53: the cc in which the special-function unit last took an instruction. -/
  sfuAt : Nat
deriving DecidableEq, Repr

/-- R15, R231, R313, R392, R428: a core, by its linear index (R283). -/
structure Core where
  tlb : List TlbEntry
  l1 : List L1Line
  misses : List Miss
  epoch : Nat
  /-- R266: boundaries started and completed, and entries completed up to a boundary number. -/
  started : Nat
  committed : Nat
  entered : Nat
  boundary : Option Boundary
  /-- R267: the merged request: whether one is held and whether it wants an entry. -/
  merged : Option Bool
  snap : Snap
  /-- R270: commits whose data a wave of the core has read and that are not known complete. -/
  readFrom : List Nat
  lastCommitCc : Nat
  /-- R267: the cc in which its last boundary was over. -/
  ended : Nat
  messages : List Msg
  /-- R416, R417: the record sequence of each handler slot that has run a handler: context, slot, sequence. -/
  handlerSeq : List (Nat × Nat × Nat)
  leaveGrants : Nat
  leaveCc : Nat
  /-- R394: both as `srd` reads them, at the start of the cc. -/
  leaveWas : Nat × Nat
  pmcs : List Pmc
  scheds : List Sched
  hist : List (List Nat)
  watch : List (Word × Word)
deriving DecidableEq, Repr

/-- R392, R395, R400: a core after power-up. -/
def Core.reset : Core :=
  { tlb := [], l1 := [], misses := [], epoch := 0, started := 0, committed := 0, entered := 0, boundary := none,
    merged := none, snap := { upTo := 0, open_ := [] }, readFrom := [], lastCommitCc := 0, ended := 0, messages := [], handlerSeq := [],
    leaveGrants := 0, leaveCc := 0, leaveWas := (0, 0), pmcs := List.replicate 16 { cfg := 0, val := 0, next := none },
    scheds := List.replicate 8 { half0 := 0, half1 := 0, sfu := 0, sfuAt := 0 },
    hist := List.replicate 8 (List.replicate 20 0), watch := List.replicate 4 (0, 0) }

/-- R16, R321, R439: a quad, by its logical position 12Y + X. -/
structure Quad where
  engines : List Engine
  spare : Nat
  stallRun : Nat
  moved : Bool
  issuedInCc : Bool
  leaveQueue : List (Bool × Nat × Nat)
  /-- R361, R440: a containment reset is under way. -/
  resetting : Bool
deriving DecidableEq, Repr

/-- R313: a quad after power-up; the spare pool is free (256 KiB). -/
def Quad.reset : Quad :=
  { engines := List.replicate 2 { chains := [], seq := 0, done := [] }, spare := 262144, stallRun := 0,
    moved := false, issuedInCc := false, leaveQueue := [], resetting := false }

/-! ## Memory system -/

/-- R243, R266, R269: a byte of a version: the physical byte stored, by whom, and its place in store order. -/
structure VerByte where
  core : Nat
  ctx : Nat
  task : Nat
  wave : Nat
  /-- R266: the cc in which its store issued, or its engine wrote it. -/
  at_ : Nat
  serial : Nat
  addr : Nat
  val : Byte
  /-- R277: the stores of its wave numbered below this were fenced before it. -/
  fence : Nat
  /-- R272: its task was restored since: every wave of the task reads it. -/
  restored : Bool
deriving DecidableEq, Repr

/-- R263: one byte written home: the commit serial, the core that committed it (288 the device itself, 289 the host in its own
memory, which the device does not observe, 290 a `discard`), the byte it replaced, and the store it comes from: its wave, its
number (0 for none) and the stores of its wave fenced before it (R277). -/
structure HomeByte where
  serial : Nat
  core : Nat
  addr : Nat
  old : Byte
  wave : Nat
  stored : Nat
  fence : Nat
deriving DecidableEq, Repr

/-- R309: what HBM holds under a dirty home byte, and the task that wrote it (R261). -/
structure DirtyByte where
  key : Nat
  old : Byte
  task : Option Nat
deriving DecidableEq, Repr

/-- R247: a line of a read-only remote page kept as a visitor line in the LLC of a die, by the page's context and address. -/
structure Visitor where
  die : Nat
  line : Nat
  ctx : Nat
  va : Nat
deriving DecidableEq, Repr

/-- R248, R308, R310: from a commit serial on, no cache holds an older copy of a line than memory did then, but those that serve
some cores. -/
structure FreshLine where
  line : Nat
  serial : Nat
  but : List Nat
deriving DecidableEq, Repr

/-- R245, R389: the presence vector of a home line. -/
structure Dir where
  line : Nat
  presence : BitVec 8
  /-- R248, R310: its home slice may hold it. -/
  held : Bool
deriving DecidableEq, Repr

/-- R250: a request on its way to a bank. -/
structure BankReq where
  wave : Nat
  seq : Nat
  ctx : Nat
  launchId : Nat
  task : Nat
  tag : Nat
  die : Nat
  bank : Nat
  /-- R358: the core that issued it, and its place among the entries issued on the package. -/
  src : Nat
  num : Nat
  op : RecOp
  lanes : LaneMask
  /-- Each access with the key of its first byte, in ascending lane order. -/
  accs : List (Access × Nat)
deriving DecidableEq, Repr

/-- R372, R374: a request on its way to a group unit. -/
structure GroupReq where
  wave : Nat
  seq : Nat
  ctx : Nat
  launchId : Nat
  task : Nat
  tag : Nat
  entry : Nat
  n : Nat
  op : RecOp
  /-- R369: the cc in which it is performed. -/
  at_ : Nat
deriving DecidableEq, Repr

/-- R341: a message on its way: the record entry and lane it belongs to, and its core in the rectangle,
4 × (x + 12y) + c (R422). -/
structure MsgReq where
  wave : Nat
  seq : Nat
  core : Nat
  msg : Msg
  refusedAt : Option Nat
deriving DecidableEq, Repr

/-- R105: a delivery on its way to an inbox slot. -/
structure Delivery where
  wave : Nat
  inbox : Nat
  key : Nat
  vals : List (Word × Ty)
deriving DecidableEq, Repr

/-- R418: the units that keep filter entries. -/
inductive UnitId where
  | bank (i : Nat) | group (d : Nat) | bufUnit (task pos : Nat) | receiver (task core : Nat) | launchUnit | watchTable
deriving DecidableEq, Repr

/-- R418: a filter entry. -/
structure Filter where
  unit : UnitId
  ctx : Nat
  launchId : Nat
  task : Nat
  tag : Nat
  step : Nat
  lane : Nat
  result : List Word
  spilled : Bool
deriving DecidableEq, Repr

/-- R418: an acknowledgment on its way to a unit. -/
structure Ack where
  unit : UnitId
  launchId : Nat
  tag : Nat
  step : Nat
deriving DecidableEq, Repr

/-- R385, R257: an invalidation in progress: a program's, or the host's. -/
structure Inval where
  num : Nat
  ctx : Nat
  lo : Nat
  size : Nat
  all : Bool
  /-- R340: the addresses whose XLATE entry is not written yet; what waits on them goes on waiting. -/
  but : List Nat
  wave : Option (Nat × Nat)
  /-- The accesses translated by an entry it removes (wave, record sequence). -/
  pending : List (Nat × Nat)
deriving DecidableEq, Repr

/-- R259: what a request that is still to be counted belongs to: a wave's record entry, an operation of its matrix engine, a
chain, named by its wave and record entry, or a prefetch. -/
inductive CountFor where
  | entry (wave seq : Nat) | op (wave order : Nat) | chain (wave rec_ : Nat) | free
deriving DecidableEq, Repr

/-- R259: a counted request on its way. -/
structure Counted where
  ctx : Nat
  page : Nat
  size : Nat
  of_ : CountFor
deriving DecidableEq, Repr

/-- R386: a page watch entry. -/
structure WatchEntry where
  valid : Bool
  size : Nat
  ctx : Nat
  count : Nat
  page : Nat
deriving DecidableEq, Repr

/-! ## Meshes (spec/13) -/

/-- R352, R359: a reassembly slot in use. -/
structure Reasm where
  slot : Nat
  src : Nat
  pkt : Nat
  cnt : Nat
  ctx : Nat
  flits : List Flit
  /-- R359, R360: the cc of its first flit and of its latest. -/
  since : Nat
  last : Nat
deriving DecidableEq, Repr

/-- R353 to R356: an endpoint of a mesh. -/
structure Endpoint where
  undelivered : Nat
  injected : List Nat
  deflections : Nat
  lastWindow : Nat
  level : Nat
  windowAt : Nat
  reasm : List Reasm
  pkt : Nat
  stopped : Bool
  /-- R353: the packets it has begun to inject: the packet number and the flit that goes next. -/
  begun : List (Nat × Nat)
  /-- R361: the cc in which its last containment reset ended. -/
  resetAt : Nat
deriving DecidableEq, Repr

/-- R350: the ports of a router. -/
inductive Port where
  | north | east | south | west | here | bridge
deriving DecidableEq, Repr

/-- R349, R351: a flit inside the mesh: the router it is at or travels to, the port it arrives by, and the cc in
which it arrives. -/
structure Moving where
  flit : Flit
  x : Nat
  y : Nat
  came : Port
  at_ : Nat
deriving DecidableEq, Repr

/-- R347, R355: a mesh. -/
structure MeshState where
  flits : List Moving
  /-- Flits offered to a local or bridge port in this cc, with the port. -/
  offered : List (Moving × Bool)
  endpoints : List Endpoint
  drain : Bool
  drainClear : Option Nat
  /-- R351: outputs taken in a cc: router and port. -/
  taken : List (Nat × Nat × Port)
  takenAt : Nat
  /-- R355: since when a drain is due: the first AGE that saturated since the last one. -/
  aged : Option Nat
deriving DecidableEq, Repr

/-- R354, R356: an endpoint after power-up. -/
def Endpoint.reset : Endpoint :=
  { undelivered := 0, injected := [], deflections := 0, lastWindow := 0, level := 0, windowAt := 0, reasm := [],
    pkt := 0, stopped := false, begun := [], resetAt := 0 }

/-- R347: an empty mesh. -/
def MeshState.reset : MeshState :=
  { flits := [], offered := [], endpoints := List.replicate 464 Endpoint.reset, drain := false, drainClear := none,
    taken := [], takenAt := 0, aged := none }

/-- R362: a packet leaving for another package, or one whose frame is to be retried. -/
structure PortState where
  working : Bool
  retries : Nat
  /-- R362: the packets that have left by it. -/
  sent : Nat
deriving DecidableEq, Repr

/-! ## Management (spec/18) -/

/-- R442: a key slot. -/
structure KeySlot where
  key : Option Nat
  revoked : Bool
deriving DecidableEq, Repr

/-- R439: the error counts of a unit. -/
structure UnitErr where
  part : Part
  /-- The cc of its corrected errors of the last 2^43 cc, the latest first. -/
  times : List Nat
deriving DecidableEq, Repr

/-- R435: where a logged launch came from: a launch queue, or a `launch` of an operation tag. -/
inductive LaunchFrom where
  | queue (n : Nat) | wave (launchId tag : Nat)
deriving DecidableEq, Repr

/-- R435: what the launch unit took: the descriptor, none where it was unreadable; the reason of a rejection, 0 of an
acceptance, and whether a reserved field it read is not zero (R10); of an accepted launch, its images and its parameter
block. -/
structure Taken where
  desc : List Word
  reason : Nat
  reserved : Bool
  marion : List Word
  groups : List Group
  params : List Byte
deriving DecidableEq, Repr

/-- R435: what the recorder logs. -/
inductive LogItem where
  | launch (from_ : LaunchFrom) (ctx id : Nat) (taken : Taken)
  | hostMemory (space : HostSpace) (addr : Nat) (bytes : List Byte)
  | mmio (offset : Nat) (value : Word)
  | inbound (p : Packet)
  | order (bank : Bool) (unit : Nat) (launchId tag : Nat)
deriving DecidableEq, Repr

/-- R435: the modes of the recorder. -/
inductive RecMode where
  | off | record | replay
deriving DecidableEq, Repr

/-- R446: the management registers and what stands behind them. -/
structure Mgmt where
  c8m : Bool
  ready : Bool
  safe : Bool
  fwrec : Bool
  replace : Bool
  recFull : Bool
  reject : Option Nat
  ceCount : Nat
  ueCount : Nat
  drains : Nat
  reasm : Nat
  power : Nat
  temp : Nat
  recMode : RecMode
  recBase : Word
  recLog : List LogItem
  mbCmd : Word
  mbData : List Word
  keys : List KeySlot
  /-- R442, R443: the flash image: its digest, and the key that signed it. -/
  flash : Nat
  flashKey : Nat
  /-- R444: the digest of the running image, and the slot whose key signed it. -/
  running : Nat
  signer : Nat
  errs : List UnitErr
  failing : List Part
  mappedOut : List Part
deriving DecidableEq, Repr

/-- R441: the governor. -/
structure Governor where
  window : Nat
  held : Bool
  hot : Bool
  pacing : Nat
deriving DecidableEq, Repr

/-- R281: the heartbeats. -/
structure Heartbeat where
  logP : Nat
  next : Nat
  count : Nat
  since : Nat
  domRunning : Bool
  domCount : Nat
  /-- R281: the cc the next domain tick falls in, before the skew of its observation. -/
  domNext : Nat
  pkgNumber : Nat
deriving DecidableEq, Repr

/-- R383: a launch queue descriptor. -/
structure LaunchQueue where
  q0 : Word
  q1 : Word
  head : Nat
  tail : Nat
  /-- R40: acceptance waits on this page. -/
  waitsOn : Option VAddr
  /-- R40: a covering invalidation has completed. -/
  resumed : Bool
deriving DecidableEq, Repr

/-- R40, R382: a descriptor handed to the launch unit by a `launch`. -/
structure LaunchReq where
  wave : Nat
  seq : Nat
  ctx : Nat
  addr : VAddr
  waitsOn : Option VAddr
  resumed : Bool
deriving DecidableEq, Repr

/-- Which agent moves next. -/
inductive Input where
  | event (i : Instr)
  | issue (wave split : Nat)
deriving DecidableEq, Repr

/-- R448: a stall or trace record that waits for a page of its ring: its context, address and bytes, and the address it waits on. -/
structure RingWait where
  unit : Poster
  ctx : Nat
  addr : VAddr
  bytes : List Byte
  on_ : VAddr
deriving DecidableEq, Repr

/-- R395: an issue of this cc: the wave and its split, and the scheduler. -/
structure Issued where
  wave : Nat
  split : Nat
  core : Nat
  sched : Nat
deriving DecidableEq, Repr

/-- Everything of the package but the bytes of its memories. -/
structure Dev where
  powered : Bool
  cc : Nat
  waves : List Wave
  tasks : List Task
  launches : List Launch
  ctxs : List Ctx
  cores : List Core
  quads : List Quad
  queues : List LaunchQueue
  /-- R46: the tail writes whose descriptors are not all taken, in the order the launch unit saw them: queue and tail. -/
  tails : List (Nat × Nat)
  launchReqs : List LaunchReq
  ringWaits : List RingWait
  vers : List VerByte
  storeSerial : Nat
  commitSerial : Nat
  openCommits : List Nat
  home : List HomeByte
  /-- R184: the latest writes that some load pipe may not see yet, and their numbers. -/
  pipeLog : List PipeByte
  pipeNum : Nat
  dirty : List DirtyByte
  dirs : List Dir
  fresh : List FreshLine
  visitors : List Visitor
  /-- R358: the accesses issued so far. -/
  issueNum : Nat
  bankReqs : List BankReq
  groupReqs : List GroupReq
  msgReqs : List MsgReq
  deliveries : List Delivery
  filters : List Filter
  acks : List Ack
  invals : List Inval
  invalNum : Nat
  counted : List Counted
  watch : List WatchEntry
  /-- R256: the shared translation cache of each die. -/
  xcache : List (List TlbEntry)
  /-- R261: the sectors, and of the Abacus memory the 8-byte words, found uncorrectable. -/
  bad : List Nat
  meshReq : MeshState
  meshReply : MeshState
  /-- R358: the requests of other packages applied so far, by source and sector. -/
  remote : List (Nat × Nat × Nat)
  ports : List PortState
  placeMap : List (List Nat)
  placePending : List (Nat × Word)
  toybox : Nat
  toyboxPending : Option Nat
  hb : Heartbeat
  /-- R394: the heartbeat as `srd` reads it, at the start of the cc. -/
  hbWas : Heartbeat
  hbPending : Option Nat
  mg : Mgmt
  gov : Governor
  traps : List Trap
  accepted : Nat
  preempts : Nat
  /-- Identifiers given so far to waves, tasks and records of in-flight work. -/
  uid : Nat
  freeCtr : Nat
  /-- This cc: the splits that issued, those that tried to, and the counted events by core, context and event (R400). -/
  issued : List Issued
  tried : List (Nat × Nat)
  events : List (Nat × Nat × Nat)
  issuer : Option (Nat × Nat)
  agenda : List Input
deriving DecidableEq, Repr

/-- The state of the machine. -/
structure State where
  dev : Dev
  mem : Memory
deriving DecidableEq, Repr

/-- R377, R437: a place map entry with present clear. -/
def absentPlace : Nat := 0

/-- R446: the management registers before the first power-up: key slot 0 enrolled with Farelm's key (R442). -/
def Mgmt.reset : Mgmt :=
  { c8m := false, ready := false, safe := false, fwrec := false, replace := false, recFull := false, reject := none,
    ceCount := 0, ueCount := 0, drains := 0, reasm := 0, power := 0, temp := 0, recMode := .off, recBase := 0,
    recLog := [], mbCmd := 0, mbData := List.replicate 15 0,
    keys := { key := some 0, revoked := false } :: List.replicate 3 { key := none, revoked := false },
    flash := 0, flashKey := 0, running := 0, signer := 0, errs := [], failing := [], mappedOut := [] }

/-- R392: the heartbeats at power-up: P is 1,024 and the domain heartbeat does not run. -/
def Heartbeat.reset : Heartbeat :=
  { logP := 10, next := 1024, count := 0, since := 0, domRunning := false, domCount := 0, domNext := 0, pkgNumber := 0 }

/-- The package at power-good, before its first step (R437). -/
def Dev.reset : Dev :=
  { powered := true, cc := 0, waves := [], tasks := [], launches := [], ctxs := [],
    cores := List.replicate 288 Core.reset, quads := List.replicate 72 Quad.reset,
    queues := List.replicate 64 { q0 := 0, q1 := 0, head := 0, tail := 0, waitsOn := none, resumed := false },
    tails := [], launchReqs := [], ringWaits := [], vers := [], storeSerial := 0, commitSerial := 0, openCommits := [], home := [],
    pipeLog := [], pipeNum := 0, dirty := [],
    dirs := [], fresh := [], visitors := [], issueNum := 0, bankReqs := [], groupReqs := [], msgReqs := [], deliveries := [], filters := [], acks := [],
    invals := [], invalNum := 0, counted := [], watch := [], xcache := List.replicate 8 [], bad := [],
    meshReq := MeshState.reset, meshReply := MeshState.reset, remote := [],
    ports := List.replicate 16 { working := true, retries := 0, sent := 0 },
    placeMap := List.replicate 8 (List.replicate 9 absentPlace), placePending := [], toybox := 64,
    toyboxPending := none, hb := Heartbeat.reset, hbWas := Heartbeat.reset, hbPending := none, mg := Mgmt.reset,
    gov := { window := 0, held := false, hot := false, pacing := 0 }, traps := [], accepted := 0, preempts := 0,
    uid := 0, freeCtr := 0, issued := [], tried := [], events := [], issuer := none, agenda := [] }

/-- The machine right after reset: power is good and nothing has happened (R437); no program is loaded (log 2). -/
def State.reset : State := { dev := Dev.reset, mem := Memory.empty }

end Sys2Proof.Machine
end

