-- ==== Sys2Proof/Machine/Ops.lean ====
section
/-! DEFINITION. The named operations over memory, waves, tasks and contexts: the canonical memory, the regions of the
package's memories, address translation (R254 to R256), notifications (R338 to R340), and the taking of a trap
(R403 to R408) with the return from one (R405). -/

namespace Sys2Proof.Machine

/-! ## Memory -/

/-- The listed byte at an address. -/
def readCells : List Host.Cell → Nat → Byte
  | [], _ => unlistedByte
  | (a, b) :: t, x => if a = x then b else readCells t x

/-- The byte at an address. -/
def Memory.read (m : Memory) (a : Nat) : Byte := readCells m.cells a

/-- The listed bytes with one written: the unlisted byte removes the entry. -/
def writeCells : List Host.Cell → Nat → Byte → List Host.Cell
  | [], x, v => if v = unlistedByte then [] else [(x, v)]
  | (a, b) :: t, x, v =>
    if x < a then (if v = unlistedByte then (a, b) :: t else (x, v) :: (a, b) :: t)
    else if x = a then (if v = unlistedByte then t else (x, v) :: t)
    else (a, b) :: writeCells t x v

/-- One byte written. -/
def Memory.write (m : Memory) (a : Nat) (v : Byte) : Memory := { cells := writeCells m.cells a v }

/-- The cells written, the last of the list first. -/
def Memory.writeAll (m : Memory) (ws : List Host.Cell) : Memory := ws.foldr (fun c m => m.write c.1 c.2) m

/-! ## Regions (R231): the memories in one key space -/

/-- R231: HBM. -/
def kHbm (a : Nat) : Nat := 8 * a
/-- R248: host memory. -/
def kHost (a : Nat) : Nat := 8 * a + 1
/-- R362: remote memory, by package and offset. -/
def kRemote (a : Nat) : Nat := 8 * a + 2
/-- R249: the Abacus memory. -/
def kAbacus (a : Nat) : Nat := 8 * a + 3
/-- R235: a byte of a task's share, by task, rectangle position and offset. It keeps its key when the task moves. -/
def kShare (task pos off : Nat) : Nat := 8 * ((task * 128 + pos) * 16777216 + off) + 4
/-- R233: a byte of a wave's private lane stacks. -/
def kPrivate (wave off : Nat) : Nat := 8 * (wave * 16777216 + off) + 5
/-- R445: a byte of the firmware load window. -/
def kLoad (a : Nat) : Nat := 8 * a + 6

/-- R415: a byte of the image of a task, as a soft error names it. -/
def kImage (task : Nat) : Nat := 8 * task + 7

/-- Which memory a key lies in, and where in it. -/
def keyRegion (k : Nat) : Nat := k % 8
def keyOffset (k : Nat) : Nat := k / 8

/-- The 128-byte line and the 64-byte sector a byte lies in. -/
def lineOf (k : Nat) : Nat := keyOffset k / 128 * 8 + keyRegion k
def sectorOf (k : Nat) : Nat := keyOffset k / 64 * 8 + keyRegion k

/-- R261: what a soft error of a byte is corrected in: its sector, or its 8-byte word at an Abacus bank. -/
def eccUnit (k : Nat) : Nat := if keyRegion k = 3 then keyOffset k / 8 * 8 + 3 else sectorOf k

/-- Whether a key is of a phased memory: HBM, host or remote (R232). -/
def keyPhased (k : Nat) : Bool := decide (k % 8 < 3)

/-- R233: where byte `o` of a lane's stack lies in its wave's region. -/
def privateOffset (lane o : Nat) : Nat := (o / 8) * 256 + 8 * lane + o % 8

/-! ## Lists -/

/-- The element at `i` changed. -/
def updAt {α : Type} (l : List α) (i : Nat) (f : α → α) : List α := l.modify i f

/-- The elements that satisfy `p` changed. -/
def updWhere {α : Type} (p : α → Bool) (f : α → α) (l : List α) : List α := l.map (fun x => if p x then f x else x)

/-- Insertion in ascending order of a key, before equal keys. -/
def insertBy {α : Type} (key : α → Nat) (x : α) : List α → List α
  | [] => [x]
  | y :: t => if key x ≤ key y then x :: y :: t else y :: insertBy key x t

/-- A stable sort by a key. -/
def sortBy {α : Type} (key : α → Nat) : List α → List α
  | [] => []
  | x :: t => insertBy key x (sortBy key t)

/-- The elements with their positions. -/
def enum {α : Type} (l : List α) : List (Nat × α) := (List.range l.length).zip l

/-- The elements without repeats, the first of each kept. -/
def distinct {α : Type} [BEq α] (l : List α) : List α := l.foldl (fun acc x => if acc.contains x then acc else acc ++ [x]) []

/-- Whether a lane is in a mask. -/
def inMask (m : LaneMask) (l : Nat) : Bool := m.getLsbD l

/-- The lanes of a mask, in ascending order. -/
def lanesOf (m : LaneMask) : List Nat := (List.range 32).filter (inMask m)

/-- The mask of a list of lanes. -/
def maskOf (ls : List Nat) : LaneMask := ls.foldl (fun m l => m ||| BitVec.ofNat 32 (2 ^ l)) 0

/-- The number of lanes of a mask. -/
def countMask (m : LaneMask) : Nat := (lanesOf m).length

/-! ## Work: a step in progress -/

/-- A step in progress: the device, memory as the step found it, and what the step has written, the latest first. -/
structure Work where
  d : Dev
  m : Memory
  ws : List Host.Cell

/-- The byte a step sees: what it wrote itself, else memory. -/
def Work.byte (w : Work) (a : Nat) : Byte :=
  match w.ws.find? (fun c => c.1 == a) with
  | some c => c.2
  | none => w.m.read a

/-- `n` bytes from an address. -/
def Work.bytes (w : Work) (a n : Nat) : List Byte := (List.range n).map (fun i => w.byte (a + 8 * i))

/-- One byte written. -/
def Work.put (w : Work) (a : Nat) (v : Byte) : Work := { w with ws := (a, v) :: w.ws }

/-- Bytes written from a key on. -/
def Work.puts (w : Work) (a : Nat) (bs : List Byte) : Work :=
  (enum bs).foldl (fun w ib => w.put (a + 8 * ib.1) ib.2) w

/-- R3: the number of little-endian bytes. -/
def ofBytes : List Byte → Nat
  | [] => 0
  | b :: t => b.toNat + 256 * ofBytes t

/-- R3: `n` little-endian bytes of a number. -/
def toBytes : Nat → Nat → List Byte
  | 0, _ => []
  | n + 1, v => BitVec.ofNat 8 v :: toBytes n (v / 256)

/-- The 64-bit word at a key. -/
def Work.word (w : Work) (a : Nat) : Word := BitVec.ofNat 64 (ofBytes (w.bytes a 8))

/-- The device changed. -/
def Work.upd (w : Work) (f : Dev → Dev) : Work := { w with d := f w.d }

/-- A free choice: the next number of an unconstrained sequence (log 5). -/
def Work.free (w : Work) : Nat × Work :=
  (Config.freeNat w.d.freeCtr, w.upd (fun d => { d with freeCtr := d.freeCtr + 1 }))

/-- A free choice between two outcomes. -/
def Work.freeBit (w : Work) : Bool × Work :=
  (Config.freeBool w.d.freeCtr, w.upd (fun d => { d with freeCtr := d.freeCtr + 1 }))

/-- The state a finished step of `s` leaves: its device, and memory with the bytes the step wrote. -/
def Work.after (w : Work) (s : State) : State := { dev := w.d, mem := s.mem.writeAll w.ws }

/-- A step: what it does to the device and to memory, or why it cannot happen. Memory changes only by bytes written. -/
def State.run (s : State) (f : Work → Except Refusal Work) : Host.Outcome State Fault Refusal :=
  match f { d := s.dev, m := s.mem, ws := [] } with
  | .ok w => .next (w.after s)
  | .error r => .refused r

/-- A step of the device that cannot happen in this state. -/
def cannot (why : String) : Except Refusal Work := .error (.notEnabled why)

/-! ## Finding and changing parts of the device -/

def Dev.wave (d : Dev) (u : Nat) : Option Wave := d.waves.find? (fun w => w.uid == u)
def Dev.task (d : Dev) (u : Nat) : Option Task := d.tasks.find? (fun t => t.uid == u)
def Dev.ctx (d : Dev) (i : Nat) : Option Ctx := d.ctxs.find? (fun c => c.id == i)
def Dev.launch (d : Dev) (c i : Nat) : Option Launch := d.launches.find? (fun l => l.ctx == c && l.id == i)
def Dev.core (d : Dev) (i : Nat) : Core := d.cores.getD i Core.reset
def Dev.quad (d : Dev) (i : Nat) : Quad := d.quads.getD i Quad.reset

def Dev.updWave (d : Dev) (u : Nat) (f : Wave → Wave) : Dev := { d with waves := updWhere (fun w => w.uid == u) f d.waves }
def Dev.updTask (d : Dev) (u : Nat) (f : Task → Task) : Dev := { d with tasks := updWhere (fun t => t.uid == u) f d.tasks }
def Dev.updCtx (d : Dev) (i : Nat) (f : Ctx → Ctx) : Dev := { d with ctxs := updWhere (fun c => c.id == i) f d.ctxs }
def Dev.updLaunch (d : Dev) (c i : Nat) (f : Launch → Launch) : Dev :=
  { d with launches := updWhere (fun l => l.ctx == c && l.id == i) f d.launches }
def Dev.updCore (d : Dev) (i : Nat) (f : Core → Core) : Dev := { d with cores := updAt d.cores i f }
def Dev.updQuad (d : Dev) (i : Nat) (f : Quad → Quad) : Dev := { d with quads := updAt d.quads i f }
def Dev.updMg (d : Dev) (f : Mgmt → Mgmt) : Dev := { d with mg := f d.mg }

def Wave.split (w : Wave) (n : Nat) : Option Split := w.splits.find? (fun p => p.num == n)
def Wave.updSplit (w : Wave) (n : Nat) (f : Split → Split) : Wave :=
  { w with splits := updWhere (fun p => p.num == n) f w.splits }
def Wave.rec_ (w : Wave) (seq : Nat) : Option Rec := w.recs.find? (fun r => r.seq == seq)
def Wave.updRec (w : Wave) (seq : Nat) (f : Rec → Rec) : Wave :=
  { w with recs := updWhere (fun r => r.seq == seq) f w.recs }
def Wave.dropRec (w : Wave) (seq : Nat) : Wave := { w with recs := w.recs.filter (fun r => r.seq != seq) }

/-- R44: the logical position 12Y + X of a rectangle quad. -/
def Task.pos (t : Task) (x y : Nat) : Nat := 12 * (t.oy + y) + (t.ox + x)

/-- A dword of a launch descriptor (R380). -/
def Launch.d (l : Launch) (i : Nat) : Word := l.desc.getD i 0

/-- R380: the fields of a descriptor. -/
def Launch.prio (l : Launch) : Nat := bits (l.d 0) 61 3
def Launch.rcl (l : Launch) : Bool := (l.d 0).getLsbD 60
def Launch.svc (l : Launch) : Bool := (l.d 0).getLsbD 59
def Launch.yoyo (l : Launch) : Nat := bits (l.d 0) 55 4
def Launch.quantField (l : Launch) : Nat := bits (l.d 0) 31 24
def Launch.w (l : Launch) : Nat := bits (l.d 0) 27 4
def Launch.h (l : Launch) : Nat := bits (l.d 0) 24 3
def Launch.tasks (l : Launch) : Nat := bits (l.d 1) 48 16 + 1
def Launch.k (l : Launch) : Nat := bits (l.d 1) 42 6
def Launch.nm (l : Launch) : Nat := bits (l.d 1) 36 6
def Launch.nc (l : Launch) : Nat := bits (l.d 1) 30 6
def Launch.nv (l : Launch) : Nat := bits (l.d 1) 24 6
def Launch.t (l : Launch) : Nat := bits (l.d 1) 20 4
def Launch.prereqs (l : Launch) : List Nat :=
  [bits (l.d 2) 0 32, bits (l.d 2) 32 32, bits (l.d 3) 0 32, bits (l.d 3) 32 32].filter (· ≠ 0)
def Launch.share (l : Launch) : Nat := bits (l.d 8) 55 9 * 8192
def Launch.nb (l : Launch) : Nat := bits (l.d 8) 49 6
def Launch.ns (l : Launch) : Nat := bits (l.d 8) 45 4
def Launch.nd (l : Launch) : Nat := bits (l.d 8) 38 7
def Launch.stackBytes (l : Launch) : Nat := bits (l.d 8) 26 12 * 8
def Launch.paramBytes (l : Launch) : Nat := bits (l.d 8) 16 10 * 8
def Launch.ngrp (l : Launch) : Nat := bits (l.d 10) 55 9
def Launch.nmar (l : Launch) : Nat := bits (l.d 10) 46 9

/-- R52: the rotation quantum in cc. -/
def Launch.quantum (l : Launch) : Nat :=
  if l.quantField = 0 then 112500 else if l.quantField < 4500 then 4500 else l.quantField

/-- The launch, the task and the linear core index of a wave. -/
def Dev.launchOf (d : Dev) (w : Wave) : Option Launch := d.launch w.ctx w.launchId
def Dev.posOf (d : Dev) (w : Wave) : Nat :=
  match d.task w.task with
  | some t => t.pos w.x w.y
  | none => 0
def Dev.coreOf (d : Dev) (w : Wave) : Nat := d.posOf w * 4 + w.core

/-- The rectangle's width and height (R30). -/
def Dev.rectOf (d : Dev) (w : Wave) : Nat × Nat :=
  match d.launchOf w with
  | some l => (l.w, l.h)
  | none => (1, 1)

/-- The index of a quad in `Task.quads`: y × W + x. -/
def Dev.quadIndex (d : Dev) (w : Wave) (x y : Nat) : Nat := y * (d.rectOf w).1 + x

/-- R44: the die of a logical position. -/
def dieOf (pos : Nat) : Nat := (pos % 12) / 3 + 4 * ((pos / 12) / 3)

/-! ## Translation (R254 to R256) -/

/-- R254: the byte size of a page by the level of its leaf and its SIZE; `none` for any other SIZE or level. -/
def pageBytes (level size : Nat) : Option Nat :=
  match level with
  | 0 => if size ≤ 3 then some (4096 * 4 ^ size) else none
  | 1 => if size ≤ 2 then some (2097152 * 16 ^ size) else none
  | 2 => if size = 0 then some 1073741824 else none
  | _ => none

/-- R254: the entries of the group of a page. -/
def groupEntries (level size : Nat) : Nat :=
  match level with
  | 0 => 4 ^ size
  | 1 => 16 ^ size
  | _ => 1

/-- R255: the fields of a page-table entry. -/
def pteV (e : Word) : Bool := e.getLsbD 0
def pteL (e : Word) : Bool := e.getLsbD 1
def pteCache (e : Word) : Nat := bits e 7 2
def pteRd (e : Word) : Bool := e.getLsbD 9
def pteW (e : Word) : Bool := e.getLsbD 10
def pteX (e : Word) : Bool := e.getLsbD 11
def ptePa (e : Word) : Nat := bits e 12 40 * 4096
def pteType (e : Word) : Nat := bits e 55 2
def pteSize (e : Word) : Nat := bits e 57 3
def pteMg (e : Word) : Bool := e.getLsbD 60
def pteWt (e : Word) : Bool := e.getLsbD 61
def pteAc (e : Word) : Bool := e.getLsbD 62
def pteWb (e : Word) : Bool := e.getLsbD 63

/-- R255: the reserved fields of a leaf, with the bits of PA its TYPE does not use (log 98, DESIGN CHOICE). -/
def leafReserved (e : Word) : Bool :=
  bits e 52 3 != 0 || bits e 2 5 != 0 || pteCache e == 3 ||
  (pteType e == 3 && bits e 28 24 != 0) || (pteType e == 0 && bits e 40 12 != 0)

/-- R255: the reserved fields of a table entry: all but V, L and PA. -/
def tableReserved (e : Word) : Bool := bits e 52 12 != 0 || bits e 2 10 != 0

/-- R363: whether some working port reaches the package of a remote byte. -/
def reaches (d : Dev) (k : Nat) : Bool :=
  (List.range 16).any (fun p => Config.routed (keyOffset k / 2 ^ 43) p && ((d.ports[p]?).map PortState.working).getD false)

/-- R261, R363: whether an access of a byte raises MEMERR: its sector is uncorrectable, or its package is out of reach. -/
def lost (d : Dev) (k : Nat) : Bool := d.bad.contains (eccUnit k) || (keyRegion k == 2 && !reaches d k)

/-- R261: the first of `n` bytes from a key that is lost. -/
def lostIn (d : Dev) (k n : Nat) : Option Nat := ((List.range n).map (fun i => k + 8 * i)).find? (lost d)

/-- The outcomes of a walk (R256). -/
inductive Walk where
  /-- V = 0 at some level. -/
  | absent
  /-- R261: an entry is uncorrectable. -/
  | lost (key : Nat)
  /-- A malformed entry. -/
  | malformed
  /-- The leaf, its key in memory, its level and the page's bytes. -/
  | leaf (pte : Word) (key level bytes : Nat)
deriving DecidableEq, Repr

/-- R254: the walk from a table at `base`, `level + 1` levels to go. -/
def walkFrom (w : Work) (va : VAddr) : Nat → Nat → Walk
  | 0, base =>
    let k := kHbm (base + 8 * bits va 12 9)
    let e := w.word k
    if lost w.d k then .lost k
    else if !pteV e then .absent
    else if !pteL e || leafReserved e then .malformed
    else match pageBytes 0 (pteSize e) with
      | none => .malformed
      | some n => if ptePa e % n = 0 then .leaf e k 0 n else .malformed
  | l + 1, base =>
    let k := kHbm (base + 8 * bits va (12 + 9 * (l + 1)) 9)
    let e := w.word k
    if lost w.d k then .lost k
    else if !pteV e then .absent
    else if pteL e then
      if leafReserved e then .malformed
      else match pageBytes (l + 1) (pteSize e) with
        | none => .malformed
        | some n => if ptePa e % n = 0 then .leaf e k (l + 1) n else .malformed
    else if tableReserved e then .malformed
    else walkFrom w va l (ptePa e)

/-- R254: the walk of a context's table. -/
def walk (w : Work) (c : Ctx) (va : VAddr) : Walk := walkFrom w va 4 c.root

/-- R255: the key of a byte of a page: by the entry's TYPE. -/
def pageKey (pte : Word) (off : Nat) : Nat :=
  match pteType pte with
  | 0 => kHbm (ptePa pte + off)
  | 1 => kHost (ptePa pte + off)
  | 2 => kRemote (ptePa pte + off)
  | _ => kAbacus (ptePa pte + off)

/-- A translation: the entry, the page's first address and its bytes. -/
structure Xlat where
  pte : Word
  page : Nat
  bytes : Nat
deriving DecidableEq, Repr

/-- The key of an address under its translation. -/
def Xlat.key (t : Xlat) (va : VAddr) : Nat := pageKey t.pte (va.toNat % t.bytes)

/-- R256: the translation of a walk. -/
def xlatOf (va : VAddr) (e : Word) (n : Nat) : Xlat := { pte := e, page := va.toNat / n * n, bytes := n }

/-- R256: the cached translation of an address on a core. -/
def tlbFind (c : Core) (ctx : Nat) (va : VAddr) : Option Xlat :=
  (c.tlb.find? (fun e => e.ctx == ctx && decide (e.page ≤ va.toNat) && decide (va.toNat < e.page + e.size))).map
    (fun e => { pte := e.pte, page := e.page, bytes := e.size })

/-- R256: a translation put into a core's TLB of 128 entries; the oldest leaves. -/
def tlbAdd (c : Core) (ctx : Nat) (t : Xlat) : Core :=
  { c with
      tlb := ({ ctx, page := t.page, size := t.bytes, pte := t.pte } ::
      c.tlb.filter (fun e => !(e.ctx == ctx && e.page == t.page))).take 128 }

/-! ## Events and stores -/

/-- R400: an event of a core that belongs to no wave. -/
def coreEvent (d : Dev) (core ev : Nat) : Dev := { d with events := (core, 65536, ev) :: d.events }

/-- R400: an event of a performance counter in this cc, of a wave of a context. -/
def count (d : Dev) (core ctx ev : Nat) : Dev := { d with events := (core, ctx, ev) :: d.events }

/-- R184, R277: a byte stored by a wave outside phased memory; of a share or the Abacus memory, what it replaced is kept. -/
def Work.store (w : Work) (wave fence k : Nat) (v : Byte) : Work :=
  let old := w.byte k
  let w := if keyRegion k = 3 ∨ keyRegion k = 4 then w.upd (fun d => { d with
      pipeNum := d.pipeNum + 1, pipeLog := { num := d.pipeNum + 1, key := k, old, wave, fence } :: d.pipeLog }) else w
  w.put k v

/-- R266: whether a store of a core that issued in a cc belongs to the commit in progress there, not yet written. -/
def committing (d : Dev) (core at_ : Nat) : Bool := match (d.core core).boundary with
  | some b => !b.written && decide (at_ < b.start)
  | none => false

/-- R243, R266: the version line of a byte: of a core, a task and a generation. -/
def verLine (d : Dev) (core task at_ k : Nat) : Nat × Nat × Bool × Nat := (core, task, committing d core at_, lineOf k)
def VerByte.line (d : Dev) (v : VerByte) : Nat × Nat × Bool × Nat := verLine d v.core v.task v.at_ v.addr

/-- R264, R266: bytes stored at once into the version of a task. -/
def storeVersion (d : Dev) (core ctx task wave at_ fence : Nat) (bs : List Host.Cell) : Dev :=
  let old := d.vers.map (VerByte.line d)
  let new := (distinct (bs.map (fun b => verLine d core task at_ b.1))).filter (fun l => !old.contains l)
  let d := new.foldl (fun d _ => count d core ctx 7) d
  { d with
    storeSerial := d.storeSerial + 1
    vers := bs.map (fun b => {
      core, ctx, task, wave, at_, serial := d.storeSerial + 1, addr := b.1, val := b.2, fence,
      restored := false }) ++ d.vers }

/-- R264: the bytes of elements of `wd` bytes stored, each element at once. -/
def storeElems (d : Dev) (core ctx task wave at_ fence wd : Nat) (bs : List Host.Cell) : Dev :=
  (List.range (bs.length / wd)).foldl (fun d i => storeVersion d core ctx task wave at_ fence ((bs.drop (i * wd)).take wd)) d

/-! ## Which caches may hold a line (R238, R245, R248) -/

/-- R245: a home line that its slice may hold from now on, and the dies that may hold a copy of it. -/
def holdLine (d : Dev) (line : Nat) (dies : BitVec 8) : Dev := { d with
  dirs := if d.dirs.any (fun x => x.line == line) then
      updWhere (fun x => x.line == line) (fun (x : Dir) => { x with presence := x.presence ||| dies, held := true }) d.dirs
    else { line, presence := dies, held := true } :: d.dirs }

/-- R245, R248: home lines that their slices may hold from now on. -/
def holdLines (d : Dev) (lines : List Nat) : Dev := lines.foldl (fun d l => holdLine d l 0) d

/-- R238, R245, R248: whether a cache that serves a core may hold an older copy of a line than memory: its L1, the visitor lines of
its die, or, of host memory, the line's home slice. -/
def servedOld (d : Dev) (core line : Nat) : Bool :=
  (d.core core).l1.any (fun x => x.line == line) || (d.core core).misses.any (fun m => m.line == line) ||
  d.dirs.any (fun x => x.line == line && (line % 8 == 1 && x.held || x.presence.getLsbD (dieOf (core / 4))))

/-- R248: memory holds some lines as they are; only the cores that a cache may serve with an older copy may read one. -/
def freshLines (d : Dev) (lines : List Nat) : Dev :=
  let cores := List.range d.cores.length
  { d with
      fresh := lines.foldl (fun fs l =>
      let but := cores.filter (fun i => servedOld d i l)
      { line := l, serial := d.commitSerial, but } :: (if but.isEmpty then fs.filter (fun f => f.line != l) else fs)) d.fresh }

/-! ## Writes straight to a home (R381, R397, R448) -/

/-- R263: a byte written home; `h` says by which commit and store, `task` whose it is. -/
def Work.home (w : Work) (h : HomeByte) (task : Option Nat) (v : Byte) : Work :=
  let old := w.byte h.addr
  let w := w.upd (fun d => { d with
    home := { h with old } :: d.home,
    dirty := if keyRegion h.addr = 0 && !(d.dirty.any (fun c => c.key == h.addr)) then { key := h.addr, old, task } :: d.dirty else d.dirty })
  w.put h.addr v

/-- A byte committed under a serial of no store. -/
def HomeByte.plain (serial core addr : Nat) : HomeByte := { serial, core, addr, old := 0, wave := 0, stored := 0, fence := 0 }

/-- Bytes written home at once under a serial of their own, by the device itself (288) or another agent. -/
def Work.homesBy (w : Work) (core a : Nat) (bs : List Byte) : Work :=
  let w := w.upd (fun d => { d with commitSerial := d.commitSerial + 1 })
  (enum bs).foldl (fun w ib => w.home (.plain w.d.commitSerial core (a + 8 * ib.1)) none ib.2) w

/-- Bytes written home by the device itself. -/
def Work.homes (w : Work) (a : Nat) (bs : List Byte) : Work := w.homesBy 288 a bs

/-- R10, R261: a trap against a context for what none of its waves does (log 84). -/
def ctxTrap (d : Dev) (ctx code addr : Nat) : Dev := { d with
  traps := d.traps ++ [ {
    code, ctx, launchId := 0, task := 2 ^ 64, taskIndex := 0xFFFF, n := 0xFFFF, wave := none, split := none, age := 0,
    pc := 0, lanes := 0, d2 := 0, addr, handle := 0, offset := 0, safePoints := 0, edited := false, site := none }] }

/-- R261: MEMERR against a context for an access that none of its waves makes (log 84). -/
def ctxMemerr (d : Dev) (ctx key : Nat) : Dev := ctxTrap d ctx 0x29 (keyOffset key)

/-- R261: the uncorrectable byte that a direct access of a context meets: of a page table, or, of a read, its own. -/
def directLost (w : Work) (c : Ctx) (va : VAddr) (read : Bool) : Option Nat := match walk w c va with
  | .lost k => some k
  | .leaf e _ _ n => let k := (xlatOf va e n).key va
    if read && lost w.d k then some k else none
  | _ => none

/-- R261: the MEMERR of a direct access. -/
def directMemerr (w : Work) (c : Ctx) (va : VAddr) (read : Bool) : Work := match directLost w c va read with
  | some k => w.upd (fun d => ctxMemerr d c.id k)
  | none => w

/-- What a direct access of a context meets (R448). -/
inductive Direct where
  | key (k : Nat) | untranslated | denied | blocked
deriving DecidableEq, Repr

/-- R448: the translation of a direct access of a context, for reading or writing. -/
def direct (w : Work) (c : Ctx) (va : VAddr) (store : Bool) : Direct :=
  match walk w c va with
  | .absent => .untranslated
  | .malformed | .lost _ => .denied
  | .leaf e _ _ n =>
    if store && !pteW e then .denied
    else if !store && !pteRd e then .denied
    else if store && pteWb e then .blocked
    else .key ((xlatOf va e n).key va)

/-! ## Notifications (R338 to R340) -/

/-- R339: the kinds. -/
def nkAccess : Nat := 1
def nkXlate : Nat := 2
def nkTrap : Nat := 3
def nkLaunch : Nat := 4
def nkGrow : Nat := 5
def nkDeadlock : Nat := 6
def nkReassembly : Nat := 7

/-- R339: an entry, stamped with the package heartbeat count. -/
def notif (d : Dev) (kind ctx data : Nat) (w1 w2 : Word) : Notif :=
  { w0 := BitVec.ofNat 64 (kind * 2 ^ 56 + ctx % 65536 * 2 ^ 32 + data % 2 ^ 32), w1, w2,
    w3 := BitVec.ofNat 64 d.hb.count }

/-- R338: the count of entries in the ring. -/
def Ctx.nqCount (c : Ctx) : Nat := (c.nqTail + 2 ^ 32 - c.nqHead) % 2 ^ 32

/-- R338: the address of an entry's slot. -/
def Ctx.nqSlot (c : Ctx) (i : Nat) : VAddr := BitVec.ofNat 57 (bits c.nqBase 0 57 + 32 * (i % 4096))

/-- The bytes of a notification entry. -/
def Notif.bytes (n : Notif) : List Byte := wordBytes n.w0 ++ wordBytes n.w1 ++ wordBytes n.w2 ++ wordBytes n.w3

/-- The outcomes of writing a notification. -/
inductive Posted where
  | written (w : Work) | dropped (w : Work) | wait

/-- R338, R448: one entry written at the tail, dropped for want of W, or not yet possible. -/
def writeNotif (w : Work) (c : Ctx) (n : Notif) : Posted :=
  if 4096 ≤ c.nqCount then .wait
  else match direct w c (c.nqSlot c.nqTail) true with
    | .key k => .written ((w.homes k n.bytes).upd (fun d => d.updCtx c.id (fun c => { c with nqTail := (c.nqTail + 1) % 2 ^ 32 })))
    | .denied => .dropped (w.upd (fun d => d.updCtx c.id (fun c => { c with nqLost := c.nqLost + 1 })))
    | .untranslated | .blocked => .wait

/-- R340: an entry a unit holds, or drops: of some kinds it holds no more than 64. -/
def holdNotif (d : Dev) (unit : Poster) (ctx : Nat) (n : Notif) (fin : Finish) : Dev :=
  let kind := bits n.w0 56 8
  d.updCtx ctx (fun c =>
    if 64 ≤ (c.held.filter (fun h => h.unit == unit)).length && (kind == nkAccess || kind == nkGrow) then { c with nqLost := c.nqLost + 1 }
    else { c with held := c.held ++ [{ unit, entry := n, fin }] })

/-- The posting of a notification by a unit: behind those already held, at once, or held (R340). `fin` is what it leaves
unfinished. -/
def post1 (w : Work) (unit : Poster) (ctx : Nat) (n : Notif) (fin : Finish) : Work × Bool :=
  match w.d.ctx ctx with
  | none => (w, true)
  | some c =>
    if c.held.isEmpty then
      match writeNotif w c n with
      | .written w => (w, true)
      | .dropped w => (w, true)
      | .wait => (w.upd (fun d => holdNotif d unit ctx n fin), false)
    else (w.upd (fun d => holdNotif d unit ctx n fin), false)

/-- R256, R340, R381, R448: an XLATE notification, whose access waits at least until it is written. -/
def postXlate (w : Work) (unit : Poster) (ctx data : Nat) (va : VAddr) : Work :=
  (post1 w unit ctx (notif w.d nkXlate ctx data (va.setWidth 64) 0) (.xlate va.toNat false)).1

/-! ## Groups (R370 to R373) -/

/-- R372: a release. -/
def Group.release (g : Group) : Group := { g with gen := (g.gen + 1) % 256, arrived := 0 }

/-- R373: BROKEN set in the groups of a launch that have one of these members. -/
def breakGroups (d : Dev) (ctx launchId : Nat) (ns : List Nat) : Dev :=
  d.updLaunch ctx launchId (fun l =>
    { l with groups := l.groups.map (fun g => if g.members.any (fun n => ns.contains n) then { g with broken := true } else g) })

/-! ## Stall records (R397) -/

/-- R397: a wave's record: 16 dwords. -/
def stallDwords (w : Wave) (fatal : Bool) : List Word :=
  [BitVec.ofNat 64 (w.launchId % 2 ^ 32 * 2 ^ 32 + w.n % 65536 * 65536 + w.ctx % 65536),
   BitVec.ofNat 64 w.counters.resident, BitVec.ofNat 64 w.counters.issued] ++
  (List.range 12).map (fun i => BitVec.ofNat 64 (w.counters.stall.getD i 0)) ++
  [BitVec.ofNat 64 ((if fatal then 2 ^ 56 else 0) + w.counters.safePoints % 2 ^ 56)]

/-- R254, R448: the parts of a record of at most 4 KiB in its pages: each with its address and bytes. -/
def ringParts (a : VAddr) (bs : List Byte) : List (VAddr × List Byte) :=
  let n := 4096 - a.toNat % 4096
  if bs.length ≤ n then [(a, bs)] else [(a, bs.take n), (a + BitVec.ofNat 57 n, bs.drop n)]

/-- R397, R448: the bytes of a record written straight to their home at an address of a context; dropped and counted where
a page lacks W; kept to be written later where a page does not translate, with the wave's XLATE notification. -/
def ringPut (w : Work) (c : Ctx) (n : Nat) (x : RingWait) : Work :=
  let wait (w : Work) (a : VAddr) : Work := w.upd (fun d => { d with ringWaits := d.ringWaits ++ [{ x with on_ := a }] })
  let parts := ringParts x.addr x.bytes
  let met (o : Direct) : Option VAddr := (parts.find? (fun p => direct w c p.1 true == o)).map Prod.fst
  match met .denied, met .untranslated, met .blocked with
  | some a, _, _ => (directMemerr w c a false).upd (fun d => d.updCtx c.id (fun c => { c with nqLost := c.nqLost + 1 }))
  | none, some a, _ => postXlate (wait w a) x.unit c.id n a
  | none, none, some a => wait w a
  | none, none, none => parts.foldl (fun w p => match direct w c p.1 true with
    | .key k => w.homes k p.2
    | _ => w) w

/-- R397, R434: a record of a wave in a ring of its context. -/
def ringWrite (w : Work) (unit : Poster) (c : Ctx) (n : Nat) (base : Word) (size count : Nat) (ds : List Word) : Work :=
  if bits base 0 57 = 0 then w
  else
    let addr : VAddr := BitVec.ofNat 57 (bits base 0 57 + 8 * ds.length * (count % 2 ^ size))
    ringPut w c n { unit, ctx := c.id, addr, bytes := ds.flatMap wordBytes, on_ := addr }

/-- R397: the stall record of a wave that stops. Handler waves write none. -/
def stallRecord (w : Work) (v : Wave) (fatal : Bool) : Work :=
  if v.handler.isSome then w
  else match w.d.ctx v.ctx with
    | none => w
    | some c =>
      if bits c.stBase 0 57 = 0 then w
      else (ringWrite w (.core (w.d.coreOf v)) c v.n c.stBase (c.stSize.toNat % 64) c.stCount (stallDwords v fatal)).upd
        (fun d => d.updCtx c.id (fun c => { c with stCount := (c.stCount + 1) % 2 ^ 32 }))

/-! ## Launch states (R41, R42, R47, R381) -/

/-- R47: a launch that can no longer retire or has retired, and whose notification is written. -/
def Launch.final (l : Launch) : Bool :=
  l.counted && (l.state == .retired || l.state == .rejected || l.state == .cancelled)

/-- R42: whether a prerequisite counts as one that retired with trapped tasks. -/
def Launch.unclean (l : Launch) : Bool := decide (0 < l.trappedTasks) || l.state == .rejected || l.state == .cancelled

/-- R381: the state code. -/
def stateCode : LaunchState → Nat
  | .held => 0 | .ready => 1 | .running => 2 | .retired => 3 | .rejected => 4 | .cancelled => 5

/-- R381: the status word. -/
def Launch.statusWord (l : Launch) : Word :=
  BitVec.ofNat 64 (stateCode l.state * 2 ^ 60 + l.reason % 16 * 2 ^ 56 + min l.trappedTasks 65535 * 2 ^ 32 + l.id % 2 ^ 32)

/-- R381: the status word written, with its waits. A launch whose descriptor could not be read names none. -/
def writeStatus (w : Work) (ctx id : Nat) : Work :=
  match w.d.launch ctx id, w.d.ctx ctx with
  | some l, some c =>
    if l.desc.isEmpty then w else
    let va := BitVec.ofNat 57 (bits (l.d 12) 0 57)
    let pend (b : Bool) (w : Work) := w.upd (fun d => d.updLaunch ctx id (fun l => { l with statusPending := b }))
    match direct w c va true with
    | .key k => pend false (w.homes k (wordBytes l.statusWord))
    | .denied => pend false (directMemerr w c va false)
    | .blocked => pend true w
    | .untranslated => pend true (if l.statusPending then w else postXlate w .launchUnit ctx 0xFFFFFFFF va)
  | _, _ => w

/-- R47: a launch enters a state, and its status word is written; its tasks wait for placement from Ready on. -/
def setLaunch (w : Work) (ctx id : Nat) (st : LaunchState) : Work :=
  let w := w.upd (fun d => d.updLaunch ctx id (fun l => { l with state := st }))
  let w := if st = .ready then w.upd (fun d => { d with
      tasks := updWhere (fun t => t.ctx == ctx && t.launchId == id) (fun t => { t with waitSince := d.cc }) d.tasks }) else w
  writeStatus w ctx id

/-- R339: the LAUNCH notification of a final state. -/
def launchNotif (d : Dev) (l : Launch) : Notif :=
  notif d nkLaunch l.ctx l.id l.statusWord (BitVec.ofNat 64 l.trappedTasks)

/-- R41, R42: what a held launch becomes when its prerequisites stand as they do: nothing, ready or cancelled. -/
def heldFate (d : Dev) (l : Launch) : Option LaunchState :=
  let ps := l.prereqs.map (fun p => d.launch l.ctx p)
  let final (o : Option Launch) : Bool := match o with
    | some p => p.final
    | none => true
  let unclean (o : Option Launch) : Bool := match o with
    | some p => p.final && p.unclean
    | none => false
  if l.rcl && ps.any unclean then some .cancelled
  else if ps.all final then some .ready
  else none

/-- R41, R42, R340: the held launches of a context released or cancelled, as often as a cancellation releases others.
`fuel` bounds the rounds by the number of launches. -/
def releaseHeld : Nat → Work → Nat → Work
  | 0, w, _ => w
  | fuel + 1, w, ctx =>
    match w.d.launches.find? (fun l => l.ctx == ctx && l.state == .held && (heldFate w.d l).isSome) with
    | none => w
    | some l =>
      match heldFate w.d l with
      | some .cancelled =>
        let w := setLaunch w ctx l.id .cancelled
        let l' := { l with state := .cancelled }
        let (w, now) := post1 w .launchUnit ctx (launchNotif w.d l') (.launch ctx l.id)
        releaseHeld fuel (if now then w.upd (fun d => d.updLaunch ctx l.id (fun l => { l with counted := true })) else w) ctx
      | _ => releaseHeld fuel (setLaunch w ctx l.id .ready) ctx

/-- R340: a launch's final state counts from now on, and its dependents are released (R41, R42). -/
def launchFinal (w : Work) (ctx id : Nat) : Work :=
  let w := w.upd (fun d => d.updLaunch ctx id (fun l => { l with counted := true }))
  releaseHeld (w.d.launches.length + 1) w ctx

/-! ## The page watch table (R386, R387) -/

/-- R387: the entry of a page in the page watch table. -/
def watchOf (e : WatchEntry) (ctx : Nat) (va : Nat) : Bool :=
  e.valid && e.ctx == ctx && decide (e.page ≤ va) && decide (va < e.page + e.size)

/-- R387: the count of a page read, and reset. -/
def performPgcnt (d : Dev) (ctx : Nat) (a : VAddr) (rst : Bool) : Dev × Nat :=
  match d.watch.find? (fun e => watchOf e ctx a.toNat) with
  | none => (d, 0)
  | some e =>
    ({ d with watch := if rst then updWhere (fun e => watchOf e ctx a.toNat) (fun e => { e with count := 0 }) d.watch else d.watch },
     65536 + e.count % 65536)

/-! ## Taking a trap (R403 to R408) -/

/-- R403: the trap codes. -/
def tSwtrap : Nat := 0x10
def tFpe : Nat := 0x11
def tWatch : Nat := 0x12
def tBreak : Nat := 0x13
def tIllegal : Nat := 0x20
def tQempty : Nat := 0x21
def tTag : Nat := 0x22
def tRole : Nat := 0x23
def tRejoin : Nat := 0x24
def tProt : Nat := 0x25
def tAlign : Nat := 0x26
def tBounds : Nat := 0x27
def tCalldepth : Nat := 0x28
def tMemerr : Nat := 0x29
def tDeadlock : Nat := 0x2A
def tReset : Nat := 0x2B

/-- R403: the fatal class. -/
def fatal (code : Nat) : Bool := decide (0x20 ≤ code)

/-- R55: the index of a split among the live splits of its wave, oldest first. -/
def Wave.ageIndex (v : Wave) (p : Split) : Nat := (v.splits.filter (fun q => decide (q.created < p.created))).length

/-- R403: a trap of a split, at a stop point. -/
def splitTrap (v : Wave) (p : Split) (code : Nat) (pc : VAddr) (lanes : LaneMask) (d2 addr : Nat) : Trap :=
  { code, ctx := v.ctx, launchId := v.launchId, task := v.task, taskIndex := v.taskIndex, n := v.n, wave := some v.uid,
    split := some p.num, age := p.created, pc, lanes, d2, addr, handle := 0, offset := 0,
    safePoints := v.counters.safePoints, edited := v.edited, site := none }

/-- R403: a fault found later in an operation of a wave: against its split where it still lives, else with 0xFF. -/
def lateTrap (v : Wave) (split : Nat) (code : Nat) (pc : VAddr) (lanes : LaneMask) (addr handle offset : Nat) : Trap :=
  match v.split split with
  | some p => { splitTrap v p code pc lanes 0 addr with handle, offset }
  | none => { splitTrap v (Split.first pc 0) code pc lanes 0 addr with split := none, handle, offset }

/-- A trap raised: it awaits delivery (R408), and its split stops at its stop point. -/
def raise (d : Dev) (t : Trap) : Dev :=
  let d := { d with traps := d.traps ++ [t] }
  match t.wave, t.split with
  | some u, some n => d.updWave u (fun v => v.updSplit n (fun p => { p with trapped := true, stage := .idle, wait := none }))
  | _, _ => d

/-- R407: the dwords of a trap record. -/
def trapDwords (d : Dev) (t : Trap) : List Word :=
  let age := match t.wave, t.split with
    | some u, some n => (match d.wave u with
      | some v => (match v.split n with
        | some p => n % 256 * 256 + v.ageIndex p % 256
        | none => 0xFFFF)
      | none => 0xFFFF)
    | _, _ => 0xFFFF
  [BitVec.ofNat 64 (t.code * 2 ^ 56 + t.ctx % 65536 * 2 ^ 32 + t.n % 65536 * 65536 + t.taskIndex % 65536),
   BitVec.ofNat 64 ((if t.edited then 2 ^ 63 else 0) + t.pc.toNat / 8 * 8),
   BitVec.ofNat 64 (t.lanes.toNat * 2 ^ 32 + t.d2 % 2 ^ 32),
   BitVec.ofNat 64 t.addr,
   BitVec.ofNat 64 t.safePoints,
   BitVec.ofNat 64 (age * 2 ^ 48),
   BitVec.ofNat 64 (t.handle * 2 ^ 32 + t.offset % 2 ^ 32),
   0]

/-- R407: the record written at (count mod 256). -/
def addRecord (c : Ctx) (ds : List Word) : Ctx :=
  let i := c.trapCount % 256
  { c with
    trapRecs := if i < c.trapRecs.length then c.trapRecs.set i { dwords := ds } else c.trapRecs ++ [{ dwords := ds }],
    trapCount := c.trapCount + 1 }

/-- R323, R37: the extension bytes a task holds in a quad return to its spare pool. -/
def freeSpare (d : Dev) (t : Task) (w : Nat) : Dev :=
  (enum t.quads).foldl (fun d iq =>
    d.updQuad (t.pos (iq.1 % w) (iq.1 / w)) (fun q => { q with spare := min 262144 (q.spare + (iq.2.share - iq.2.placed)) })) d

/-- R37, R345, R406: what a task holds is given back: its waves, its chains, messages and filter entries. -/
def releaseTask (d : Dev) (t : Task) : Dev :=
  let w := match d.launch t.ctx t.launchId with
    | some l => l.w
    | none => 1
  let d := freeSpare d t w
  { d with
    waves := d.waves.filter (fun v => v.task != t.uid),
    quads := d.quads.map (fun q =>
      { q with
      engines := q.engines.map (fun e => { e with chains := e.chains.filter (fun c => c.task != t.uid) }),
      leaveQueue := q.leaveQueue.filter (fun r => d.waves.all (fun v => v.uid != r.2.1 || v.task != t.uid)) }),
    cores := d.cores.map (fun c => { c with messages := c.messages.filter (fun m => m.task != t.uid) }),
    msgReqs := d.msgReqs.filter (fun r => r.msg.task != t.uid || !r.refusedAt.isSome),
    deliveries := d.deliveries.filter (fun r => d.waves.all (fun v => v.uid != r.wave || v.task != t.uid)),
    filters := d.filters.filter (fun f => f.task != t.uid) }

/-- R406 step 3, R272: the task's version bytes that no commit in progress covers are discarded. -/
def discardVersions (d : Dev) (task : Nat) : Dev :=
  { d with
      vers := d.vers.filter (fun v =>
      v.task != task || committing d v.core v.at_) }

/-- R406: a task ends by a fatal trap, once its TRAP notification is written (R340). -/
def endTrapped (w : Work) (task : Nat) : Work :=
  match w.d.task task with
  | none => w
  | some t =>
    let vs := w.d.waves.filter (fun v => v.task == task)
    let w := ((sortBy Wave.n vs).filter (fun v => !v.freed)).foldl (fun w v => stallRecord w v true) w
    let w := w.upd (fun d => breakGroups d t.ctx t.launchId ((vs.filter (fun v => v.handler.isNone)).map Wave.n))
    let w := w.upd (fun d => releaseTask d t)
    w.upd (fun d => (d.updTask task (fun t => { t with state := .ended, trapped := true, image := none })).updLaunch
      t.ctx t.launchId (fun l => { l with trappedTasks := l.trappedTasks + 1 }))

/-- R340: what was left unfinished until its notification was written. -/
def finish (w : Work) : Finish → Work
  | .none => w
  | .endTask t => endTrapped w t
  | .launch c i => launchFinal w c i
  | .trap _ | .xlate _ _ => w

/-- R340: a notification posted by a unit, with what it leaves unfinished finished as soon as it is written. -/
def post (w : Work) (unit : Poster) (ctx : Nat) (n : Notif) (fin : Finish) : Work :=
  let (w, now) := post1 w unit ctx n fin
  if now then finish w fin else w

/-- R272: the bytes that a store of a commit in progress, still on its way, brings into that commit: those its translation, made
or still to be made, lets it write (log 73). -/
def landing (w : Work) (v : Wave) (r : Rec) : List Host.Cell :=
  match w.d.ctx v.ctx with
  | none => []
  | some c =>
    let todo := (enum r.accesses).filter (fun ia => !inMask r.done ia.2.lane)
    todo.flatMap (fun ia => match ia.2.target with
      | .virt a =>
        let key := match r.phys[ia.1]? with
          | some k => some k
          | none => (match direct w c a true with
            | .key k => some k
            | _ => none)
        (match key with
         | some k => if keyPhased k then (enum ia.2.data).map (fun ib => (k + 8 * ib.1, ib.2)) else []
         | none => [])
      | _ => [])

/-- R272: the stores of a wave that a commit in progress awaits stand in their versions. -/
def landStores (w : Work) (v : Wave) : Work :=
  let core := w.d.coreOf v
  v.recs.foldl (fun w r => match r.op with
    | .store wd => if r.frozen || !committing w.d core r.at_ then w
        else
          let bs := landing w v r
          w.upd (fun d => storeElems d core v.ctx v.task v.uid r.at_ v.fenceAt wd bs)
    | _ => w) w

/-- R406 step 2: the resets of access counters by a wave, already injected, take effect. -/
def landResets (d : Dev) (v : Wave) : Dev := v.recs.foldl (fun d r => match r.op with
  | .pgcnt a true => if r.frozen || !r.injected then d else (performPgcnt d v.ctx a true).1
  | _ => d) d

/-- R398: the leave requests of a task are abandoned. -/
def dropLeaves (d : Dev) (task : Nat) : Dev :=
  let mine (u : Nat) : Bool := d.waves.any (fun v => v.uid == u && v.task == task)
  { d with
    waves := updWhere (fun v => v.task == task) (fun v => { v with slots := v.slots.map (fun o => { o with asked := none }) }) d.waves
    quads := d.quads.map (fun q => { q with
      engines := q.engines.map (fun e => { e with chains := updWhere (fun c => c.task == task) (fun c => { c with leaveAsked := none }) e.chains })
      leaveQueue := q.leaveQueue.filter (fun r => !mine r.2.1) }) }

/-- R406 steps 1 to 3: the waves of a task stop, and what it has not published is discarded. -/
def stopTask (w : Work) (task : Nat) : Work :=
  let w := (w.d.waves.filter (fun v => v.task == task)).foldl landStores w
  w.upd (fun d =>
    let d := (d.waves.filter (fun v => v.task == task)).foldl landResets d
    let d := dropLeaves d task
    let d := { d with waves := updWhere (fun v => v.task == task) (fun v => { v with stopped := true, recs := [] }) d.waves }
    let d := discardVersions d task
    d.updTask task (fun t => { t with trapped := true, state := .stopping }))

/-- R408: ascending logical wave number, then split age. -/
def trapKey (t : Trap) : Nat := t.n * 2 ^ 64 + t.age

/-- R407: one trap recorded and notified; a fatal one leaves the end of its task unfinished until it is written. -/
def recordTrap (w : Work) (t : Trap) (last : Bool) : Work :=
  let ds := trapDwords w.d t
  let w := w.upd (fun d => d.updCtx t.ctx (fun c => addRecord c ds))
  let n := notif w.d nkTrap t.ctx (t.code * 2 ^ 24 + t.taskIndex % 65536) (t.pc.setWidth 64) (Config.freeWord w.d.freeCtr)
  let w := w.upd (fun d => { d with freeCtr := d.freeCtr + 1 })
  post w ((t.wave.bind w.d.wave).elim .launchUnit (fun v => .core (w.d.coreOf v))) t.ctx n
    (if last then .endTask t.task else (t.wave.map Finish.trap).getD .none)

/-- R431: the log entry of a home-side match whose owning wave has exited: a WATCH record and notification with the wave number
0xFFFF. There is no stop, so the stop point and the safe-point count are free (log 6). -/
def watchMissed (w : Work) (ctx launchId index writer addr : Nat) : Work :=
  let n := w.d.freeCtr
  recordTrap (w.upd (fun d => { d with freeCtr := n + 2 })) {
    code := tWatch, ctx, launchId, task := 0, taskIndex := index, n := 0xFFFF, wave := none, split := none, age := 0,
    pc := (Config.freeWord n).setWidth 57, lanes := 0, d2 := 2 ^ 31 + writer % 65536, addr, handle := 0, offset := 0,
    safePoints := (Config.freeWord (n + 1)).toNat, edited := false, site := none } false

/-- R426, R448: the stop site at an address of a wave's code; the sites of relocated code have moved with it. -/
def siteAt (d : Dev) (v : Wave) (pc : VAddr) : Option StopSite :=
  let k := ((d.launch v.ctx v.launchId).map Launch.moved).getD 0
  (d.ctx v.ctx).bind (fun c => c.sites.find? (fun s => s.pc + k == pc))

/-- R427, R432: the stop site of a trap of a wave: that of the instruction that raised it, where it is one, else the one at the stop
point (log 93), with the home set of its split. -/
def haltSite (d : Dev) (v : Wave) (t : Trap) : Option (LaneMask × StopSite) :=
  (if t.site.isSome then t.site else siteAt d v t.pc).map (fun s => (((t.split.bind v.split).map Split.home).getD 0, s))

/-- R405: a wave halted by its program-visible traps: each trapping split stops at its stop point; one that has arrived at a
`rejoin` waits there. -/
def haltWave (d : Dev) (v : Wave) (ts : List Trap) : Wave :=
  let mine := ts.filter (fun t => t.wave == some v.uid)
  { v with
    halted := true,
    haltSites := v.haltSites ++ mine.filterMap (haltSite d v),
    debugHalt := v.debugHalt || mine.any (fun t => t.code == tBreak || t.code == tWatch),
    haltList := v.haltList ++ mine.map (fun t => (t.split.getD 0, t.code)),
    splits := v.splits.map (fun p => match mine.find? (fun t => t.split == some p.num) with
      | some t => if p.arrived then { p with trapped := true } else { p with pc := t.pc, trapped := true, stage := .idle, wait := none }
      | none => p) }

/-- R408: every trap raised in this cc delivered: the records in order, then the end of each task a fatal trap hit, and
the halts of the other waves. A task stopped with DEADLOCK ends with its DEADLOCK notification (R322, R340). -/
def deliverTraps (w : Work) : Work :=
  let ts := sortBy trapKey w.d.traps
  let doomed (task : Nat) : Bool := ts.any (fun t => t.task == task && fatal t.code)
  let w := w.upd (fun d => { d with traps := [] })
  let w := (distinct ((ts.filter (fun t => fatal t.code)).map Trap.task)).foldl stopTask w
  let w := w.upd (fun d => { d with
    waves := d.waves.map (fun v =>
    if ts.any (fun t => t.wave == some v.uid) && !doomed v.task then haltWave d v ts else v) })
  (enum ts).foldl (fun w it =>
    let last := !(ts.drop (it.1 + 1)).any (fun u => u.task == it.2.task)
    recordTrap w it.2 (doomed it.2.task && last && !ts.any (fun u => u.task == it.2.task && u.code == tDeadlock))) w

/-! ## The return from a trap (R405) -/

/-- R405: a halted wave resumes: each trapping split continues at its stop point, which is its PC. -/
def resumeWave (v : Wave) : Wave :=
  { v with
    halted := false, debugHalt := false, haltList := [], haltSites := []
    splits := v.splits.map (fun p => { p with trapped := false }) }

/-- R340: whether a TRAP notification of a wave is held: its trap is unfinished. -/
def trapHeld (d : Dev) (v : Wave) : Bool := ((d.ctx v.ctx).map (fun c => c.held.any (fun h => h.fin == .trap v.uid))).getD false

/-- R405: the wave a resume names; naming no halted wave, or one whose trap is unfinished (R340), has no effect. -/
def resume (d : Dev) (ctx launchId n : Nat) : Dev :=
  let named (v : Wave) :=
    v.ctx == ctx && v.launchId == launchId && v.n == n && v.handler.isNone && v.halted && !trapHeld d v
  { d with waves := updWhere named resumeWave d.waves }

end Sys2Proof.Machine
end

