-- ==== Sys2Proof/Machine/Phased.lean ====
section
/-! DEFINITION. Phased memory (spec/10): versions, boundaries (R266, R267), commits and their serial order (R263), entries
and snapshots, the value a load returns (R269, R270, R277), and the homes of lines (R242, R245). -/

namespace Sys2Proof.Machine

/-- R242: the home die of a line: HBM by A[39:37], host memory by A[9:7]; a remote line has no home here. -/
def homeDie (k : Nat) : Nat := if keyRegion k = 0 then keyOffset k / 2 ^ 37 % 8 else keyOffset k / 128 % 8

/-- R242, R439: the home slice of a line: A[10:7] XOR A[18:15], moved to index XOR 1 where it is mapped out, also where that
slice is mapped out too (R20; log 63, DESIGN CHOICE). -/
def homeSlice (d : Dev) (k : Nat) : Nat :=
  let a := keyOffset k
  let s := (a / 128 % 16) ^^^ (a / 32768 % 16)
  if d.mg.mappedOut.contains (.slice (homeDie k) s) then s ^^^ 1 else s

/-- R242: the stack of its die's two that holds a byte of HBM: A[11] XOR A[19]. -/
def homeStack (k : Nat) : Nat := (keyOffset k / 2 ^ 11 % 2) ^^^ (keyOffset k / 2 ^ 19 % 2)

/-! ## Versions -/

/-- R243: the version lines the package holds. -/
def verLines (d : Dev) : List (Nat × Nat × Bool × Nat) := distinct (d.vers.map (VerByte.line d))

/-- R271: the version lines a core holds, those of a commit in progress among them. -/
def coreLines (d : Dev) (core : Nat) : List (Nat × Nat × Bool × Nat) := (verLines d).filter (fun l => l.1 == core)

/-- R243: the version lines a slice may hold: 75 % of its lines outside its part of the Toybox, which is one 128th of
the Toybox size, in units of 2 MiB, that is 128 lines of each unit's 16,384. -/
def sliceLimit (d : Dev) : Nat := (49152 - 128 * d.toybox) * 3 / 4

/-- R243, R247: the slice of this package that holds a line's version: its die and index; none of a remote line, whose version
its home package holds. -/
def lineSlice (d : Dev) (line : Nat) : Option (Nat × Nat) :=
  let k := line / 8 * 1024 + line % 8
  if line % 8 < 2 then some (homeDie k, homeSlice d k) else none

/-- R271, R243: whether a core may put these bytes of a task, stored in a cc, into versions without passing a limit. -/
def versionRoom (d : Dev) (core task at_ : Nat) (keys : List Nat) : Bool :=
  let old := verLines d
  let new := (distinct (keys.map (verLine d core task at_))).filter (fun l => !old.contains l)
  let all := old ++ new
  let here (s : Nat × Nat) : Nat := (all.filter (fun l => lineSlice d l.2.2.2 == some s)).length
  new.isEmpty || (decide ((all.filter (fun l => l.1 == core)).length ≤ 32768) &&
    (distinct (new.filterMap (fun l => lineSlice d l.2.2.2))).all (fun s => decide (here s ≤ sliceLimit d)))

/-! ## Home watch (R260, R431) -/

/-- R254: the parts of a range of at most 4 KiB that lie in one 4 KiB page each: where each starts, and its bytes. -/
def pageParts (a : VAddr) (n : Nat) : List (VAddr × Nat) :=
  let m := 4096 - a.toNat % 4096
  if n ≤ m then [(a, n)] else [(a, m), (a + BitVec.ofNat 57 m, n - m)]

/-- R431: whether a written byte lies in a part of a watched range whose page has WT set. -/
def partHit (w : Work) (c : Ctx) (k : Nat) (p : VAddr × Nat) : Bool := match walk w c p.1 with
  | .leaf pte _ _ b =>
    pteWt pte &&
    (let base := (xlatOf p.1 pte b).key p.1
     keyRegion base == keyRegion k && decide (keyOffset base ≤ keyOffset k) && decide (keyOffset k < keyOffset base + p.2))
  | _ => false

/-- R431: whether a written byte matches a home-side watchpoint of a context. -/
def watchHit (w : Work) (c : Ctx) (e : Word × Word) (k : Nat) : Bool :=
  let n := bits e.2 0 4
  decide (3 ≤ n) && decide (n ≤ 12) && (pageParts (BitVec.ofNat 57 (bits e.1 3 54 * 8)) (2 ^ n)).any (partHit w c k)

/-- R431: the wave a home-side watchpoint of a context names. -/
def watchOwner (c : Ctx) (e : Word × Word) (v : Wave) : Bool :=
  v.ctx == c.id && v.launchId == bits e.2 16 32 && v.n == bits e.2 48 16 && v.handler.isNone

/-- R30, R36: the task of a wave number of a launch. -/
def taskIndexOf (l : Launch) (n : Nat) : Nat := n / (4 * l.w * l.h * l.k)

/-- R431: whether that wave has exited. -/
def ownerExited (d : Dev) (c : Ctx) (e : Word × Word) : Bool :=
  d.waves.any (fun v => watchOwner c e v && v.exited) || (match d.launch c.id (bits e.2 16 32) with
    | none => false
    | some l => l.state == .retired || d.tasks.any (fun t =>
      t.ctx == c.id && t.launchId == l.id && t.index == taskIndexOf l (bits e.2 48 16) && t.state == .ended && !t.trapped))

/-- R431: the home logs the writer of a watched byte for the owning wave, where the last writer stays; of a wave that has
exited, the log entry is posted. -/
def homeWatch (w : Work) (writer : Nat) (k : Nat) : Work :=
  w.d.ctxs.foldl (fun w c =>
    c.hwatch.foldl (fun w e =>
      if !watchHit w c e k then w
      else if ownerExited w.d c e then
        let i := ((w.d.launch c.id (bits e.2 16 32)).map (fun l => taskIndexOf l (bits e.2 48 16))).getD 0
        watchMissed w c.id (bits e.2 16 32) i writer (bits e.1 3 54 * 8)
      else w.upd (fun d =>
        { d with waves := updWhere (watchOwner c e) (fun v => { v with homeWatch := some (writer, bits e.1 3 54 * 8) }) d.waves }))
      w) w

/-! ## Boundaries -/

/-- R266: a boundary of a core begins now. -/
def startBoundary (d : Dev) (core : Nat) (entry : Bool) : Dev :=
  (coreEvent d core 8).updCore core (fun c =>
    { c with
      started := c.started + 1
      boundary := some { num := c.started + 1, serial := 0, entry, start := d.cc, written := false, done := false } })

/-- Whether an access names a byte by a virtual address. -/
def Access.virtual (a : Access) : Bool := match a.target with
  | .virt _ => true
  | _ => false

/-- R266: whether a record entry of a wave is a phased store that the commit in progress on its core still awaits. -/
def owes (d : Dev) (core : Nat) (r : Rec) : Bool :=
  committing d core r.at_ && !r.frozen && (match r.op with
    | .store _ => r.accesses.any Access.virtual && (r.phys.isEmpty || r.phys.any keyPhased)
    | _ => false)

/-- R266: every phased store issued on the core before the cc of its boundary stands in its version. -/
def storesStand (d : Dev) (core : Nat) : Bool := d.waves.all (fun v => d.coreOf v != core || v.recs.all (fun r => !owes d core r))

/-- R266: the commit writes the stored bytes of every task's version on the core home, in store order, under one serial;
visitor copies go (R246) and home watches match (R431). -/
def writeCommit (w : Work) (core : Nat) : Work :=
  let mine (v : VerByte) : Bool := v.core == core && committing w.d core v.at_
  let vs := sortBy VerByte.serial (w.d.vers.filter mine)
  let s := w.d.commitSerial + 1
  let w := w.upd (fun d => { d with commitSerial := s, openCommits := s :: d.openCommits })
  let put (w : Work) (v : VerByte) : Work :=
    w.home { serial := s, core, addr := v.addr, old := 0, wave := v.wave, stored := v.serial, fence := v.fence } (some v.task) v.val
  let w' := vs.foldl (fun w v => homeWatch (put w v) v.ctx v.addr) w
  let lines := vs.map (fun v => lineOf v.addr)
  w'.upd (fun d =>
    let d := holdLines { d with
      vers := d.vers.filter (fun v => !mine v)
      dirs := d.dirs.map (fun (x : Dir) => if lines.contains x.line then
        { x with presence := x.presence &&& BitVec.ofNat 8 (2 ^ dieOf (core / 4)) } else x) } (distinct (lines.filter (fun l => l % 8 == 1)))
    d.updCore core (fun c =>
      { c with boundary := c.boundary.map (fun b => { b with written := true, serial := s }) }))

/-- R261: the tasks whose version bytes meet an uncorrectable sector at a commit, with the byte. -/
def badCommits (d : Dev) (core : Nat) : List (Nat × Nat) :=
  let vs := d.vers.filter (fun v => v.core == core && committing d core v.at_ && lost d v.addr)
  (distinct (vs.map VerByte.task)).map (fun t => (t, ((vs.find? (fun v => v.task == t)).map VerByte.addr).getD 0))

/-- R261: MEMERR against a task as a whole, while it lives: of its first wave, at the next issue slot of its oldest split. -/
def taskTrap (d : Dev) (task code addr : Nat) : Dev :=
  match d.task task with
  | none => d
  | some t =>
    if t.state == .ended || t.state == .stopping then d
    else match d.waves.find? (fun v => v.task == task) with
      | some v => match v.splits.head? with
        | some p => raise d (splitTrap v p code p.pc 0 0 addr)
        | none => raise d { splitTrap v (Split.first 0 0) code 0 0 0 addr with split := none }
      | none => { d with
        traps := d.traps ++ [ {
          code, ctx := t.ctx, launchId := t.launchId, task := t.uid, taskIndex := t.index, n := 0,
          wave := none, split := none, age := 0, pc := 0, lanes := 0, d2 := 0, addr, handle := 0, offset := 0,
          safePoints := 0, edited := false, site := none }] }

/-- R266: the commit of a core's boundary is written as soon as its stores stand. -/
def tryCommit (w : Work) (core : Nat) : Work :=
  match (w.d.core core).boundary with
  | some b =>
    if !b.written && storesStand w.d core then
      let bad := badCommits w.d core
      let w := writeCommit w core
      w.upd (fun d => bad.foldl (fun d t => taskTrap d t.1 tMemerr (keyOffset t.2)) d)
    else w
  | none => w

/-- R267: requests of a core that one further boundary will serve; `entry` says whether this one wants an entry. -/
def mergeRequest (d : Dev) (core : Nat) (entry : Bool) : Dev :=
  d.updCore core (fun c => { c with merged := some (entry || c.merged == some true) })

/-- R267: a boundary requested of a core: it starts now, or is merged into the one after the current one. Answers the
number of the boundary that will serve it. -/
def requestBoundary (w : Work) (core : Nat) (entry : Bool) : Work × Nat :=
  let c := w.d.core core
  if c.boundary.isNone && c.merged.isNone then
    (tryCommit (w.upd (fun d => startBoundary d core entry)) core, c.started + 1)
  else (w.upd (fun d => mergeRequest d core entry), c.started + 1)

/-- R266: whether every commit a wave of the core has read from is complete. -/
def readsComplete (d : Dev) (core : Nat) : Bool := (d.core core).readFrom.all (fun s => !d.openCommits.contains s)

/-- R270: the commits under way whose data a core has read that has a commit under way: those that one awaits. -/
def awaitedBy (d : Dev) (s : Nat) : List Nat :=
  d.cores.flatMap (fun c => match c.boundary with
    | some b => if b.written && b.serial == s then c.readFrom.filter (fun r => r != s && d.openCommits.contains r) else []
    | none => [])

/-- The commits some commits await, and those these await; `fuel` bounds the rounds by the number of commits under way. -/
def commitReach (d : Dev) : Nat → List Nat → List Nat
  | 0, ss => ss
  | fuel + 1, ss => commitReach d fuel (distinct (ss ++ ss.flatMap (awaitedBy d)))

/-- R266, R270: whether a commit need wait for no other: every one it awaits waits for it in turn (log 74). -/
def awaitsNone (d : Dev) (s : Nat) : Bool :=
  let n := d.openCommits.length
  (commitReach d n (awaitedBy d s)).all (fun t => t == s || (commitReach d n (awaitedBy d t)).contains s)

/-- R241: the loads that a core's fills under way serve keep the snapshot of the phase that asked for them, past an entry. -/
def keepLate (d : Dev) (core : Nat) : Dev :=
  (d.core core).misses.foldl (fun d m => if m.epoch = (d.core core).epoch then
    m.joined.foldl (fun d j => d.updWave j.1 (fun v => v.updRec j.2 (fun r => { r with late := r.late <|> some m.snap }))) d else d) d

/-- R239, R241, R266, R269: an entry of a core: its phased L1 lines go, its snapshot is every commit completed by now, and what its
waves have read binds them no longer. -/
def enter (d : Dev) (core : Nat) : Dev :=
  let d := (keepLate d core).updCore core (fun c =>
    { c with
      l1 := c.l1.filter (fun s => !decide (s.line % 8 < 3))
      epoch := c.epoch + 1
      snap := { upTo := d.commitSerial, open_ := d.openCommits }
      readFrom := c.readFrom.filter (fun s => d.openCommits.contains s) })
  let fresh (v : Wave) : Wave := { v with seen := [], seenStores := [], awaitsEntry := false }
  { d with waves := updWhere (fun v => d.coreOf v == core) fresh d.waves }

/-- R267: an entry requested alone: served by the entry of a commit in progress, whose number it answers; performed now
where the commits read from are complete; else to be asked again. -/
def requestEntry (d : Dev) (core : Nat) : Dev × Option Nat × Bool :=
  match (d.core core).boundary with
  | some b =>
    (d.updCore core (fun c => { c with boundary := some { b with entry := true } }), some b.num, false)
  | none => if readsComplete d core then (enter d core, none, true) else (d, none, false)

/-- R267: the entry that restored waves of a core await and no boundary of it serves. -/
def loneEntry (d : Dev) (core : Nat) : Option Dev :=
  if d.waves.any (fun v => v.awaitsEntry && d.coreOf v == core) && readsComplete d core then some (enter d core) else none

/-- R270: the commits that complete with one: those it awaits, which then await it (log 74). -/
def commitGroup (d : Dev) (s : Nat) : List Nat := distinct (s :: commitReach d d.openCommits.length (awaitedBy d s))

/-- The cores whose commit under way is one of some serials. -/
def commitCores (d : Dev) (ss : List Nat) : List Nat :=
  ((enum d.cores).filter (fun ic => match ic.2.boundary with
    | some b => b.written && !b.done && ss.contains b.serial
    | none => false)).map Prod.fst

/-- R266: the commits of some serials complete. -/
def completeCommits (d : Dev) (ss : List Nat) : Dev :=
  (commitCores d ss).foldl (fun d core => d.updCore core (fun c => { c with
      committed := (c.boundary.map Boundary.num).getD c.committed
      lastCommitCc := d.cc
      boundary := c.boundary.map (fun b => { b with done := true }) }))
    { d with openCommits := d.openCommits.filter (fun s => !ss.contains s) }

/-- R266: the end of a core's commit, with those it completes with, or of its entry. Answers none while neither can end. -/
def completeBoundary (d : Dev) (core : Nat) : Option Dev :=
  match (d.core core).boundary with
  | none => loneEntry d core
  | some b =>
    if b.written && (b.done || awaitsNone d b.serial) then
      let d := if b.done then d else completeCommits d (commitGroup d b.serial)
      let done (d : Dev) : Dev := d.updCore core (fun c => { c with boundary := none, ended := d.cc })
      if !b.entry then some (done d)
      else if readsComplete d core then some ((done (enter d core)).updCore core (fun c => { c with entered := b.num }))
      else if b.done then none
      else some d
    else none

/-- R267, R268: the boundary the merged requests asked for begins, in a cc after the one before it; without a request, one the
device adds (log 75). -/
def startMerged (w : Work) (core : Nat) : Option Work :=
  let c := w.d.core core
  if c.boundary.isSome || (c.merged.isSome && decide (w.d.cc ≤ c.ended)) then none
  else
    let entry := c.merged.getD true
    some (tryCommit (w.upd (fun d => startBoundary (d.updCore core (fun c => { c with merged := none })) core entry)) core)

/-- R271: at a safe point, a core at its high water takes an early boundary for the lines no boundary of it serves yet. -/
def highWater (w : Work) (core : Nat) : Work :=
  let lines := coreLines w.d core
  if 28672 ≤ lines.length && (w.d.core core).merged.isNone && lines.any (fun l => !l.2.2.1) then
    (requestBoundary (w.upd (fun d => coreEvent d core 9)) core true).1
  else w

/-- R271: a core whose versions have no room takes an early boundary for the lines none serves yet; none where it is asked for. -/
def askRoom (w : Work) (core : Nat) : Option Work :=
  let c := w.d.core core
  if c.merged.isNone && (c.boundary.isNone || (coreLines w.d core).any (fun l => !l.2.2.1)) then
    some (requestBoundary (w.upd (fun d => coreEvent d core 9)) core true).1
  else none

/-- R37, R267: a task ends on a core: a commit without an entry. -/
def endCommit (w : Work) (core : Nat) : Work × Nat := requestBoundary w core false

/-! ## What a load returns (R264, R269, R277) -/

/-- The number kept for a key in a list of pairs. -/
def look (l : List (Nat × Nat)) (k : Nat) : Nat := ((l.find? (fun e => e.1 == k)).map Prod.snd).getD 0

/-- The larger number kept for a key. -/
def keep (l : List (Nat × Nat)) (k v : Nat) : List (Nat × Nat) :=
  if look l k < v then (k, v) :: l.filter (fun e => e.1 != k) else l

/-- R248, R308, R310: no cache holds an older copy of some lines than what memory holds now, but those that may hold the line. Only
a line that some commit has written has an older value. -/
def refresh (d : Dev) (line : Nat → Bool) : Dev := freshLines d (distinct ((d.home.map (fun h => lineOf h.addr)).filter line))

/-- The lines of some bytes from a key on. -/
def linesFrom (a n : Nat) : List Nat := distinct ((List.range n).map (fun i => lineOf (a + 8 * i)))

/-- R248: bytes the host writes to its own memory. A cache that holds a line of them goes on holding the older one (log 54). -/
def hostHomes (w : Work) (a : Nat) (bs : List Byte) : Work := (w.homesBy 289 a bs).upd (fun d => freshLines d (linesFrom a bs.length))

/-- R231: bytes the host writes to HBM, at their home. -/
def hostHbm (w : Work) (a : Nat) (bs : List Byte) : Work := (w.homes a bs).upd (fun d => freshLines d (linesFrom a bs.length))

/-- R266: whether a snapshot holds a commit. The host's own writes belong to none (R248). -/
def Snap.has (s : Snap) (h : HomeByte) : Bool := decide (h.serial ≤ s.upTo) && !s.open_.contains h.serial && h.core != 289

/-- What a load of a wave sees at the least. -/
structure View where
  core : Nat
  task : Nat
  wave : Nat
  at_ : PipeView
  /-- R248: the sectors of uncached host memory, which it sees as they are. -/
  direct : List Nat

/-- R269: what is visible to a wave now. -/
def Wave.present (d : Dev) (v : Wave) : PipeView :=
  { snap := (d.core (d.coreOf v)).snap, stores := d.storeSerial, seen := v.seen, seenStores := v.seenStores, knows := v.knows,
    num := d.pipeNum }

/-- R269: the view of a wave's loads. -/
def Wave.view (d : Dev) (v : Wave) : View := { core := d.coreOf v, task := v.task, wave := v.uid, at_ := v.present d, direct := [] }

/-- R184: the view of the load pipes of a wave's matrix engine. -/
def Wave.pipeView (d : Dev) (v : Wave) : View := { core := d.coreOf v, task := v.task, wave := v.uid, at_ := v.pipes, direct := [] }

/-- R269, R277: whether a view holds a store of a byte by a wave: its own, one it has read, or one ordered before it. -/
def View.holds (x : View) (wave stored k : Nat) : Bool :=
  decide (0 < stored) && ((wave == x.wave && decide (stored ≤ x.at_.stores)) || decide (stored ≤ look x.at_.seenStores k) ||
    decide (stored ≤ look x.at_.knows wave))

/-- R248: the commit serial that a core's value of a byte is at least as new as, whatever its snapshot. -/
def freshFloor (d : Dev) (core k : Nat) : Nat :=
  d.fresh.foldl (fun m f => if f.line == lineOf k && !f.but.contains core then max m f.serial else m) 0

/-- R248, R269: the commit serial that a view's value of a byte is at least as new as. -/
def View.floor (d : Dev) (x : View) (k : Nat) : Nat :=
  if x.direct.contains (sectorOf k) then d.commitSerial
  else d.home.foldl (fun m h => if h.addr == k && (x.at_.snap.has h || x.holds h.wave h.stored k) then max m h.serial else m)
    (max (look x.at_.seen k) (freshFloor d x.core k))

/-- R263: the byte as of a commit serial: what the first later commit of it replaced, else what its home holds. -/
def byteAt (w : Work) (serial k : Nat) : Byte :=
  match w.d.home.foldl (fun (b : Option HomeByte) h =>
      if h.addr == k && decide (serial < h.serial) then
        (match b with
         | some o => if h.serial ≤ o.serial then some h else b
         | none => some h)
      else b) none with
  | some h => h.old
  | none => w.byte k

/-- The commit a byte's value at a serial came from. -/
def commitAt (d : Dev) (serial k : Nat) : Option HomeByte :=
  d.home.foldl (fun m h => if h.addr == k && decide (h.serial ≤ serial) && decide (((m.map HomeByte.serial).getD 0) < h.serial) then some h else m) none

/-- R246, R264, R269: the commit serials under which an access sees its 64-byte sectors: one for each, free, but not older than
the view of any byte read there. -/
def sectorViews (w : Work) (x : View) (keys : List Nat) : List (Nat × Nat) × Work :=
  let phased := keys.filter keyPhased
  (distinct (phased.map sectorOf)).foldl (fun (acc : List (Nat × Nat) × Work) s =>
    let lo := (phased.filter (fun k => sectorOf k == s)).foldl (fun m k => max m (x.floor w.d k)) 0
    let (f, w) := acc.2.free
    ((s, lo + f % (w.d.commitSerial - lo + 1)) :: acc.1, w)) ([], w)

/-- The version bytes of a view's task on its core, and those of them that it surely sees (R269, R272). -/
def View.versions (d : Dev) (x : View) (keys : List Nat) : List VerByte :=
  d.vers.filter (fun v => v.core == x.core && v.task == x.task && keys.contains v.addr)
def View.must (x : View) (v : VerByte) : Bool := v.restored || x.holds v.wave v.serial v.addr

/-- The latest of some version bytes at an address, up to a store. -/
def latestStore (vs : List VerByte) (n a : Nat) : Option VerByte :=
  vs.foldl (fun (b : Option VerByte) x =>
    if x.addr == a && decide (x.serial ≤ n) then
      (match b with
       | some o => if o.serial < x.serial then some x else b
       | none => some x)
    else b) none

/-- Where a byte read of phased memory came from. -/
inductive Origin where
  | store (v : VerByte)
  | home (k : Nat) (h : Option HomeByte)
deriving DecidableEq, Repr

/-- R269, R277: what reading a byte tells its wave. -/
def Wave.sees (v : Wave) : Origin → Wave
  | .store x => { v with seenStores := keep v.seenStores x.addr x.serial, learned := keep v.learned x.wave x.fence }
  | .home k (some h) => { v with seen := keep v.seen k h.serial, learned := keep v.learned h.wave h.fence }
  | .home _ none => v

/-- R269: one element of phased bytes, seen by a view under the given serials of its sectors, with the uncommitted stores of its
task on its core up to one of them, free, but all it surely sees; and where each byte came from. -/
def readPhased (w : Work) (x : View) (views : List (Nat × Nat)) (keys : List Nat) : List Byte × List Origin × Work :=
  let vs := x.versions w.d keys
  let must := (vs.filter x.must).foldl (fun m v => max m v.serial) 0
  let may := vs.foldl (fun m v => max m v.serial) must
  let (f, w) := w.free
  let n := must + f % (may - must + 1)
  let from_ (k : Nat) : Origin := match latestStore vs n k with
    | some v => .store v
    | none => .home k (commitAt w.d (look views (sectorOf k)) k)
  (keys.map (fun k => match latestStore vs n k with
    | some v => v.val
    | none => byteAt w (look views (sectorOf k)) k), keys.map from_, w)

/-- R269, R270, R277: a wave has read bytes from these places: they bind its later loads, and its core awaits the commits under
way it has read from. -/
def noteReads (d : Dev) (u core : Nat) (os : List Origin) : Dev :=
  let opens := os.filterMap (fun o => match o with
    | .home _ (some h) => if d.openCommits.contains h.serial then some h.serial else none
    | _ => none)
  (d.updWave u (fun v => os.foldl Wave.sees v)).updCore core (fun c => { c with
    readFrom := opens.foldl (fun l s => if l.contains s then l else s :: l) c.readFrom })

/-- R269: one element read by a wave through a view, from the given serials of its sectors. -/
def loadPhased (w : Work) (x : View) (views : List (Nat × Nat)) (keys : List Nat) : List Byte × Work :=
  let (bs, os, w) := readPhased w x views keys
  (bs, w.upd (fun d => noteReads d x.wave x.core os))

/-- R269: one element read through a view of its own. -/
def loadElement (w : Work) (x : View) (keys : List Nat) : List Byte × Work :=
  let (views, w) := sectorViews w x keys
  loadPhased w x views keys

/-- R277: the last store outside phased memory to a byte tells a wave that reads it what its wave had fenced before. -/
def noteFlags (d : Dev) (u : Nat) (keys : List Nat) : Dev :=
  let ps := keys.filterMap (fun k => d.pipeLog.find? (fun p => p.key == k))
  d.updWave u (fun v => { v with learned := ps.foldl (fun l p => keep l p.wave p.fence) v.learned })

/-- R276, R279, R282, R372: the stall class in which an access of a wave's split waits for another split of the wave: for its
fence, its `fencesc`, its `gwait`, or, where the access is to scratchpad or phased memory, its `swait` or `cbwait` (log 76). -/
def Wave.hold (v : Wave) (n : Nat) (soft : Bool) : Option Nat :=
  (v.splits.filter (fun q => q.num != n)).findSome? (fun q => match q.stage with
    | .fence _ _ | .phaseFence _ _ => some (q.wait.getD 6)
    | .scCommit _ _ | .scTick _ _ | .scGuard _ | .scEntry _ => some 7
    | .arriving _ | .entering _ => some 5
    | .acquire => if soft then some (q.wait.getD 3) else none
    | _ => none)

/-- R277: a fence of core scope or wider orders the wave's stores so far, and what its loads brought before its later
loads. -/
def Wave.ordered (d : Dev) (v : Wave) : Wave :=
  { v with fenceAt := d.storeSerial, knows := v.learned.foldl (fun l e => keep l e.1 e.2) v.knows }

/-! ## Phase numbers (R274, R275) -/

/-- R274: the place of a core in the 2W × 2H grid of its task. -/
def gridAt (x y c : Nat) : Nat × Nat := (2 * x + c % 2, 2 * y + c / 2)

/-- R274: the smallest phase number of the task's live waves on a core, as R393 compares them: none without a live one. -/
def coreNumber (d : Dev) (task x y c : Nat) : Option Nat :=
  (d.waves.filter (fun v => v.task == task && v.x == x && v.y == y && v.core == c && !v.exited && v.handler.isNone)).foldl
    (fun m v => match m with
      | some n => if (BitVec.ofNat 32 v.phase - BitVec.ofNat 32 n).msb then some v.phase else some n
      | none => some v.phase) none

/-- R275: the neighbours of a core in its task's grid: quad and core, in the order up, left, right, down. -/
def neighbours (w h x y c : Nat) : List (Option (Nat × Nat × Nat)) :=
  let (gx, gy) := gridAt x y c
  let at_ (ok : Bool) (a b : Nat) : Option (Nat × Nat × Nat) :=
    if ok then some (a / 2, b / 2, a % 2 + 2 * (b % 2)) else none
  [at_ (decide (0 < gy)) gx (gy - 1), at_ (decide (0 < gx)) (gx - 1) gy,
   at_ (decide (gx + 1 < 2 * w)) (gx + 1) gy, at_ (decide (gy + 1 < 2 * h)) gx (gy + 1)]

/-- R275, R287: the number of a neighbour that a check of a cc uses: what was received before it. -/
def Nbr.usable (n : Nbr) (cc : Nat) : Option Nat := if n.at_ = cc then n.was else n.num

/-- R275, R306: the phases of a wave that have passed their allowance and are not performed. -/
def phasesUnderWay (v : Wave) : Nat := (v.splits.filter (fun p => match p.stage with
  | .phase _ | .phaseFence _ _ => true
  | _ => false)).length

/-- R275, R393: whether the wave's number, with its phases under way, stays within the allowance of every received neighbour
number. -/
def allowanceOk (d : Dev) (v : Wave) : Bool :=
  match v.handler, d.launchOf v, d.task v.task with
  | none, some l, some t =>
    let nbr := (t.cores.getD ((v.y * l.w + v.x) * 4 + v.core) TaskCore.reset).nbr
    (enum (neighbours l.w l.h v.x v.y v.core)).all (fun io => match io.2 with
      | none => true
      | some _ => match (nbr.getD io.1 Nbr.zero).usable d.cc with
        | none => true
        | some got => !(BitVec.ofNat 32 (got + l.yoyo) - BitVec.ofNat 32 (v.phase + phasesUnderWay v)).msb)
  | _, _, _ => true

end Sys2Proof.Machine
end

