-- ==== Sys2Proof/Machine/Operands.lean ====
section
/-! DEFINITION. The operand forms of an encoded instruction: what a split that issues reads and writes. The guard and the
active set (R70, R71), the sources (R64 to R67), the gate they pose (R83: pending, inbox empty, QEMPTY, TAG), the delivery
of results (R68, R92, R103), predicates (R69, R101), and the completion of an issue (R29, R53, R79, R399, R429, R434). -/

namespace Sys2Proof.Machine

/-- An issue in progress: the step, the wave and split that issue, the instruction, and the lanes that execute it (R70),
as they are when it issues. -/
structure Iss where
  w : Work
  v : Wave
  p : Split
  i : Instr
  g : FormSpec
  f : Form
  lanes : LaneMask

/-- The current cc. -/
def Iss.cc (s : Iss) : Nat := s.w.d.cc

/-- R61: the words of the instruction. -/
def formWords (f : Form) : Nat := 1 + (if f.modw.isSome then 1 else 0) + (if f.imm.isSome then 1 else 0)

/-- R61: the address after the instruction. -/
def Iss.next (s : Iss) : VAddr := s.p.pc + BitVec.ofNat 57 (8 * formWords s.f)

/-- The core, the rectangle position and the task of the issuing wave. -/
def Iss.core (s : Iss) : Nat := s.w.d.coreOf s.v

/-! ## Predicates and the active set -/

/-- R101: a predicate of a lane; p7 reads true. -/
def predVal (l : Lane) (k : Nat) : Bool := if k = 7 then true else ((l.p.getD k { val := false, ready := 0 }).val)

/-- R110: whether a predicate of a lane is still pending. -/
def predPending (cc : Nat) (l : Lane) (k : Nat) : Bool :=
  decide (k ≠ 7) && decide (cc < (l.p.getD k { val := false, ready := 0 }).ready)

/-- A lane of a wave. -/
def Wave.lane (v : Wave) (l : Nat) : Lane := v.lanes.getD l Lane.reset

/-- R104, R166: a codebook as an instruction of this cc sees it: as it was before a `cbkld` of the same cc. -/
def Wave.book (v : Wave) (cc k : Nat) : BitVec 256 := match v.oldBooks with
  | some (c, bs) => if c = cc then bs.getD k 0 else v.books.getD k 0
  | none => v.books.getD k 0

/-- R70: whether the guard of a lane holds. -/
def guardHolds (v : Wave) (f : Form) (l : Nat) : Bool := predVal (v.lane l) f.guard.p.val != f.guard.inv

/-- R70, R103: the lanes in which an instruction executes. -/
def activeLanes (v : Wave) (p : Split) (f : Form) : List Nat :=
  (lanesOf p.emask).filter (fun l => inMask p.home l && guardHolds v f l)

def Iss.active (s : Iss) : List Nat := activeLanes s.v s.p s.f

/-- R71: whether the guard's predicate is still pending in some lane of the mask. -/
def guardPending (cc : Nat) (v : Wave) (p : Split) (f : Form) : Bool :=
  (lanesOf p.emask).any (fun l => predPending cc (v.lane l) f.guard.p.val)

/-! ## Sources -/

/-- R93, R110: whether an entry is pending. -/
def Entry.pending (e : Entry) (cc : Nat) : Bool :=
  match e.pend with
  | .clear => false
  | .fixed r | .tagged r _ => decide (cc < r)
  | .bound _ _ => true

/-- R91, R96: the tag an entry shows: that of its result from the cc on in which it may be read. -/
def Entry.shownTag (e : Entry) (cc : Nat) : Ty := match e.pend with
  | .tagged r t => if cc < r then t else e.tag
  | _ => e.tag

/-- R72: a value cut to a width of 32 bits where its tag has that width. -/
def fit (t : Ty) (x : Word) : Word := if tyWidth t = 32 then (x.setWidth 32).setWidth 64 else x

/-- R65: the typed constants under an integer TY: 0, 1, 2 and all ones. -/
def intConst (k : Nat) : Word := match k with
  | 0 => 0 | 1 => 1 | 2 => 2 | _ => BitVec.allOnes 64

/-- R65: the typed constants under a float TY: +0, 1, 2, −1, 0.5, 1, 2, −1 in the format, in every element. -/
def floatConst (t : Ty) (k : Nat) : Word :=
  let pick (nil one two mone half : Nat) : Nat := match k with
    | 0 => nil | 1 => one | 2 => two | 3 => mone | 4 => half | 5 => one | 6 => two | _ => mone
  match t with
  | .f64 => BitVec.ofNat 64 (pick 0 0x3FF0000000000000 0x4000000000000000 0xBFF0000000000000 0x3FE0000000000000)
  | .f32 => BitVec.ofNat 64 (pick 0 0x3F800000 0x40000000 0xBF800000 0x3F000000)
  | .f16x2 => BitVec.ofNat 64 (pick 0 0x3C003C00 0x40004000 0xBC00BC00 0x38003800)
  | _ => BitVec.ofNat 64 (pick 0 0x3F803F80 0x40004000 0xBF80BF80 0x3F003F00)

/-- The head entries of an inbox that `n` pops would take, when they are all filled. -/
def inboxHead (v : Wave) (k n : Nat) : Option (List (Word × Ty)) :=
  match (v.inboxes.getD k []).drop n with
  | s :: _ => s.fill
  | [] => none

/-- An entry of a lane's queue or frame. -/
def entryAt (l : Lane) : Src → Entry
  | .age a => l.q.getD a.val Entry.empty
  | .frame k => l.f.getD k.val Entry.empty
  | _ => Entry.empty

/-- R64: the value and tag a source field names in a lane. `nth` counts the earlier namings of the same inbox (R67). -/
def srcVal (v : Wave) (f : Form) (l : Nat) (s : Src) (nth : Nat) : Word × Ty :=
  match s with
  | .age _ | .frame _ => let e := entryAt (v.lane l) s; (e.val, e.tag)
  | .const k => (if tyFloat f.ty then floatConst f.ty k.val else fit f.ty (intConst k.val), f.ty)
  | .lane => (BitVec.ofNat 64 (if v.handler.isSome then 0 else l), .i32)
  | .wslot => (BitVec.ofNat 64 v.n, .i32)
  | .x13 => (fit f.ty (f.x13.signExtend 64), f.ty)
  | .imm => (fit f.ty (f.imm.getD 0), f.ty)
  | .inbox k => match inboxHead v k.val nth with
    | some vs => vs.getD l (0, .empty)
    | none => (0, .empty)

/-- The source fields a form reads, in order (R67). -/
def readFields (g : FormSpec) (f : Form) : List Src :=
  (if g.ra then [f.sa] else []) ++ (if g.rb then [f.sb] else []) ++ (if g.rc then [f.sc] else [])

/-- R67: each read source with how many earlier sources name the same inbox. -/
def numbered : List Src → List (Src × Nat)
  | [] => []
  | ss => (enum ss).map (fun is => (is.2, ((ss.take is.1).filter (fun t => match t, is.2 with
    | .inbox a, .inbox b => a == b
    | _, _ => false)).length))

def Iss.srcs (s : Iss) : List (Src × Nat) := numbered (readFields s.g s.f)

/-- The values a lane's sources supply. -/
def Iss.vals (s : Iss) (l : Nat) : List (Word × Ty) := s.srcs.map (fun q => srcVal s.v s.f l q.1 q.2)

/-- R94: whether some source of these lanes is a pending entry. -/
def srcPending (cc : Nat) (v : Wave) (ss : List (Src × Nat)) (ls : List Nat) : Bool :=
  ls.any (fun l => ss.any (fun q => (entryAt (v.lane l) q.1).pending cc))

/-- R256: whether an entry is pending because its access waits on an absent or write-blocked page. -/
def Entry.stalled (v : Wave) (e : Entry) : Bool := match e.pend with
  | .bound q _ => (match (v.rec_ q).map Rec.state with
    | some (.xlate _) | some (.held _) => true
    | _ => false)
  | _ => false

/-- R94, R256, R395: the class of a wait on pending sources: replay where each of them waits on such a page, else pending
entry. -/
def pendingClass (cc : Nat) (v : Wave) (ss : List (Src × Nat)) (ls : List Nat) : Nat :=
  if ls.all (fun l => ss.all (fun q => let e := entryAt (v.lane l) q.1; !e.pending cc || e.stalled v)) then 12 else 1

/-- R96, R106: whether an inbox can supply its entry after `n` pops: filled in an earlier cc. -/
def inboxReady (cc : Nat) (v : Wave) (k n : Nat) : Bool :=
  match (v.inboxes.getD k []).drop n with
  | s :: _ => s.fill.isSome && decide (s.readyAt ≤ cc)
  | [] => false

/-- R67, R106: whether some inbox named cannot supply its entries. -/
def inboxShort (cc : Nat) (v : Wave) (ss : List (Src × Nat)) : Bool :=
  ss.any (fun q => match q.1 with
    | .inbox k => !inboxReady cc v k.val q.2
    | _ => false)

/-- R73: whether RAW suspends the tag check. -/
def Iss.raw (s : Iss) : Bool := match s.f.modw with
  | some m => m.raw
  | none => false

/-- What stands in the way of an issue (R83 steps 4 and 5). -/
inductive Gate where
  | ready
  | wait (cls : Nat)
  | trap (code : Nat) (lanes : LaneMask)
deriving DecidableEq, Repr

/-- R117: whether a source is a literal, which carries tag TY. -/
def isLiteral : Src → Bool
  | .const _ | .x13 | .imm => true
  | _ => false

/-- R73: whether a tag is accepted: an empty list accepts every tag but EMPTY. -/
def tagOk (acc : List Ty) (t : Ty) : Bool := acc.isEmpty || acc.contains t

/-- R395: the lowest class of a wait on sources: of pending entries, where there are some, and of an inbox, where one is short. -/
def lowestClass (pending : Option Nat) (short : Bool) : Option Nat := match pending, short with
  | some c, true => some (min c 2)
  | some c, false => some c
  | none, true => some 2
  | none, false => none

/-- R83, R395: the wait that the sources of some lanes pose. -/
def Iss.sourceWait (s : Iss) (ls : List Nat) : Option Nat :=
  lowestClass (if srcPending s.cc s.v s.srcs ls then some (pendingClass s.cc s.v s.srcs ls) else none)
    (!ls.isEmpty && inboxShort s.cc s.v s.srcs)

/-- R83: the gate the guard and the sources of some lanes pose: pending entries, inboxes, QEMPTY, TAG. -/
def Iss.gate (s : Iss) (ls : List Nat) (accs : List (List Ty)) : Gate :=
  if guardPending s.cc s.v s.p s.f then .wait 1
  else match s.sourceWait ls with
  | some c => .wait c
  | none =>
    if ls.isEmpty then .ready else
    let empty := ls.filter (fun l => (s.vals l).any (fun x => x.2 == .empty))
    if !empty.isEmpty then .trap tQempty (maskOf empty)
    else
      let bad := ls.filter (fun l => ((s.vals l).zip accs).any (fun x => !tagOk x.2 x.1.2))
      if !s.raw && !bad.isEmpty then .trap tTag (maskOf bad)
      else .ready

/-- R106: the popped inbox entries leave. -/
def popInboxes (v : Wave) (ss : List (Src × Nat)) : Wave :=
  ss.foldl (fun v q => match q.1 with
    | .inbox k => { v with inboxes := updAt v.inboxes k.val List.tail }
    | _ => v) v

/-! ## Ending an attempt -/

/-- The wave and split written back. -/
def Iss.put (s : Iss) : Work :=
  s.w.upd (fun d => { d.updWave s.v.uid (fun _ => s.v.updSplit s.p.num (fun _ => s.p)) with issuer := none })

/-- R94: the split waits, charged to a stall class; in class 0, for the special-function unit, to none (R395). -/
def Iss.wait (s : Iss) (cls : Nat) : Work := { s with p := { s.p with wait := some cls } }.put

/-- The split waits only for its half, charged to no class (R395). -/
def Iss.stay (s : Iss) : Work := { s with p := { s.p with wait := none } }.put

/-- R403: the issue raises a trap at a stop point. -/
def Iss.trapAt (s : Iss) (code : Nat) (pc : VAddr) (lanes : LaneMask) (d2 addr : Nat) : Work :=
  s.put.upd (fun d => raise d (splitTrap s.v s.p code pc lanes d2 addr))

/-- R403: a trap whose stop point is the instruction. -/
def Iss.trap (s : Iss) (code : Nat) (lanes : LaneMask) : Work := s.trapAt code s.p.pc lanes 0 0

/-- The gate followed by what the instruction does when it may proceed. -/
def Iss.gated (s : Iss) (ls : List Nat) (accs : List (List Ty)) (k : Iss → Work) : Work :=
  match s.gate ls accs with
  | .wait c => s.wait c
  | .trap c m => s.trap c m
  | .ready => k s

/-- R106: the inbox entries the instruction read leave, where some lane executed. -/
def Iss.pop (s : Iss) : Iss := if s.active.isEmpty then s else { s with v := popInboxes s.v s.srcs }

/-! ## Results -/

/-- R92: a push: the oldest entry leaves, its data to be discarded. -/
def push (q : List Entry) (e : Entry) : List Entry := e :: q.take 15

/-- R68: results pushed in order, so that the last ends at q1. -/
def pushAll (q : List Entry) (es : List Entry) : List Entry := es.foldl push q

/-- R68: results written to the frame from a slot up. -/
def writeFrame (fr : List Entry) (fd : Nat) (es : List Entry) : List Entry :=
  (enum es).foldl (fun fr ie => fr.set (fd + ie.1) ie.2) fr

/-- R68: whether the results are pushed, and written to the frame. -/
def pushes : DS → Bool
  | .push | .pushFrame => true
  | _ => false
def frames : DS → Bool
  | .pushFrame | .frame => true
  | _ => false

/-- R68: a lane's results delivered by DS. -/
def deliverLane (f : Form) (l : Lane) (es : List Entry) : Lane :=
  { l with
    q := if pushes f.ds then pushAll l.q es else l.q
    f := if frames f.ds then writeFrame l.f f.fd.toNat es else l.f }

/-- R70, R103: a lane of the home set that does not execute takes zero pushes with the results' tags. -/
def zeroLane (f : Form) (l : Lane) (tags : List Ty) : Lane :=
  { l with q := if pushes f.ds then pushAll l.q (tags.map (fun t => { val := 0, tag := t, pend := .clear })) else l.q }

/-- R207, R126: the push count of the top mark of this call level changes, saturating for good. -/
def addCount (p : Split) (n : Int) : Split :=
  match p.marks with
  | m :: ms =>
    if m.depth = p.depth then
      let c := if m.count = 127 ∨ m.count = -128 then m.count else max (-128) (min 127 (m.count + n))
      { p with marks := { m with count := c } :: ms }
    else p
  | [] => p

/-- R68, R70, R103: the results of an instruction delivered in every lane of the home set. `res` gives an executing
lane's entries, `tags` those of the zero pushes. -/
def Iss.deliver (s : Iss) (act : List Nat) (tags : List Ty) (res : Nat → List Entry) : Iss :=
  { s with
    v := { s.v with
      lanes := (enum s.v.lanes).map (fun il =>
      if act.contains il.1 then deliverLane s.f il.2 (res il.1)
      else if inMask s.p.home il.1 then zeroLane s.f il.2 tags
      else il.2) }
    p := if pushes s.f.ds then addCount s.p tags.length else s.p }

/-- R110: a result that may be read `lat` cc after issue. -/
def Iss.entry (s : Iss) (lat : Nat) (x : Word × Ty) : Entry :=
  { val := fit x.2 x.1, tag := x.2, pend := if lat = 0 then .clear else .fixed (s.cc + lat) }

/-- R69, R71, R101: a predicate written in the executing lanes; a write to p7 is discarded. -/
def Iss.setPred (s : Iss) (act : List Nat) (pd lat : Nat) (val : Nat → Bool) : Iss :=
  { s with
      v := { s.v with
      lanes := (enum s.v.lanes).map (fun il =>
      if act.contains il.1 && pd != 7 then { il.2 with p := il.2.p.set pd { val := val il.1, ready := s.cc + lat } }
      else il.2) } }

/-! ## Completion -/

/-- R29: how an instruction occupies its half and the special-function unit, in cc. -/
structure Occupancy where
  half : Nat := 1
  sfu : Nat := 0
deriving DecidableEq, Repr

/-- R29: a free half of the wave's scheduler, taken for some cc; `none` while both are busy. -/
def takeHalf (x : Sched) (cc n : Nat) : Option Sched :=
  if x.half0 ≤ cc then some { x with half0 := cc + n }
  else if x.half1 ≤ cc then some { x with half1 := cc + n }
  else none

/-- The scheduler of a wave. -/
def Dev.sched (d : Dev) (v : Wave) : Sched :=
  (d.core (d.coreOf v)).scheds.getD v.sched { half0 := 0, half1 := 0, sfu := 0, sfuAt := 0 }

/-- R429: whether an armed breakpoint names a stop site. -/
def armed (c : Ctx) (k o : Nat) : Bool :=
  c.brk.any (fun b => b.getLsbD 63 && bits b 32 16 == k && bits b 0 32 == o)

/-- R434: the trace record of a wave at a stop site. -/
def traceRecord (w : Work) (v : Wave) (c : Ctx) (o : Nat) : Work :=
  if c.trCtl.getLsbD 63 && v.counters.safePoints % 2 ^ bits c.trCtl 58 5 == 0 then
    (ringWrite w (.core (w.d.coreOf v)) c v.n (BitVec.ofNat 64 (bits c.trCtl 0 57)) c.trSize c.trCount
      [BitVec.ofNat 64 (v.launchId % 2 ^ 32 * 2 ^ 32 + v.n), BitVec.ofNat 64 o, BitVec.ofNat 64 v.counters.safePoints,
       BitVec.ofNat 64 w.d.hb.count]).upd (fun d => d.updCtx c.id (fun c => { c with trCount := (c.trCount + 1) % 2 ^ 32 }))
  else w

/-- R429, R403: where a split goes on after the instruction it has issued: its PC; of one that has arrived at a `rejoin`, the
instruction after that. -/
def Split.stopPoint (p : Split) : VAddr :=
  if p.arrived then p.rejoinAt + BitVec.ofNat 57 (if p.rejoinLayout.isSome then 16 else 8) else p.pc

/-- R79, R271, R429, R434: what the issue of an instruction with ST = 1 brings after it: an early boundary, a trace
record, a breakpoint. The wave and split are as the instruction left them. -/
def safePoint (w : Work) (v : Wave) (p : Split) (pc : VAddr) (act : LaneMask) : Work :=
  let w := highWater w (w.d.coreOf v)
  match w.d.ctx v.ctx with
  | none => w
  | some c => match siteAt w.d v pc with
    | none => w
    | some s =>
      let w := traceRecord w v c s.ordinal
      if armed c s.kernel s.ordinal && !p.trapped then
        w.upd (fun d => raise d { splitTrap v p tBreak p.stopPoint act (2 ^ 31 + s.ordinal % 8192) 0 with site := some s })
      else w

/-- R227: a split that issues is no longer awaited by the yielding splits of its scheduler. -/
def unyield (d : Dev) (v : Wave) (n : Nat) : Dev :=
  let core := d.coreOf v
  { d with
      waves := updWhere (fun u => u.sched == v.sched && d.coreOf u == core) (fun u =>
      { u with
          splits := u.splits.map (fun q => { q with
          yield := q.yield.map (fun y =>
          { y with peers := y.peers.filter (fun e => !(e.1 == v.uid && e.2 == n)) }) }) }) d.waves }

/-- The split and wave after an issue that completes: PC, next issue, ageing, counters (R53, R229, R395, R399). -/
def Iss.retired (s : Iss) (pc : VAddr) (delay : Nat) (occ : Occupancy) : Iss :=
  { s with
    p := { s.p with
                    pc, readyAt := s.cc + delay, inIssueUntil := s.cc + max occ.half occ.sfu, ageing := 0,
                    stage := .idle, wait := none }
    v := { s.v with
      counters := { s.v.counters with
      issued := s.v.counters.issued + 1
      safePoints := s.v.counters.safePoints + (if s.f.st then 1 else 0) } } }

/-- The device after an issue: the half and unit taken, and the issue seen by counters, yields and the quad. -/
def markIssued (d : Dev) (v : Wave) (n : Nat) (occ : Occupancy) : Dev :=
  let core := d.coreOf v
  let d := d.updCore core (fun c => { c with
    scheds := updAt c.scheds v.sched (fun x =>
    let x := (takeHalf x d.cc occ.half).getD x
    if occ.sfu = 0 then x else { x with sfu := d.cc + occ.sfu, sfuAt := d.cc }) })
  let d := d.updQuad (core / 4) (fun q => { q with issuedInCc := true })
  let d := { count d core v.ctx 2 with issued := { wave := v.uid, split := n, core, sched := v.sched } :: d.issued }
  unyield d v n

/-- The instruction completes: the split goes on at `pc`, and may issue again after `delay` cc. -/
def Iss.goto (s : Iss) (pc : VAddr) (delay : Nat) (occ : Occupancy) : Work :=
  let at_ := s.p.pc
  let s := s.retired pc delay occ
  let w := s.put.upd (fun d => markIssued d s.v s.p.num occ)
  if s.f.st then safePoint w s.v s.p at_ s.lanes else w

/-- The instruction completes and the split goes on at the next one. -/
def Iss.done (s : Iss) : Work := s.goto s.next 1 {}

/-- The same, with an occupancy. -/
def Iss.doneOcc (s : Iss) (occ : Occupancy) : Work := s.goto s.next 1 occ

/-! ## Lane instructions -/

/-- An instruction that computes, in each executing lane, results that may be read `lat` cc after issue. -/
def Iss.laneOp (s : Iss) (accs : List (List Ty)) (lat : Nat) (tags : List Ty)
    (compute : Iss → Nat → List (Word × Ty) → List (Word × Ty)) : Work :=
  s.gated s.active accs (fun s =>
    (s.pop.deliver s.active tags (fun l => (compute s l (s.vals l)).map (s.entry lat))).done)

/-- An instruction that writes a predicate in each executing lane (R69). -/
def Iss.predOp (s : Iss) (accs : List (List Ty)) (lat : Nat) (compute : Iss → Nat → List (Word × Ty) → Bool) : Work :=
  s.gated s.active accs (fun s => (s.pop.setPred s.active s.f.pd lat (fun l => compute s l (s.vals l))).done)

/-! ## The start of an issue -/

/-- R43: whether a role may issue a form. -/
def roleOk (r : Role) (i : Instr) (g : FormSpec) : Bool :=
  match i with
  | .copy _ => r != .m
  | _ => g.major != 0xC0 || r == .m

/-- R441: issue pacing leaves one slot of a scheduler empty in every 2^m cc. -/
def paced (d : Dev) (v : Wave) : Bool :=
  d.gov.pacing != 0 && d.cc % 2 ^ d.gov.pacing == 0 && d.issued.any (fun i => i.sched == v.sched && i.core == d.coreOf v)

/-- What a form finds of the units it needs. -/
inductive Units where
  | free
  /-- R51, R54: an earlier issue of this cc has taken one, or a half is taken: the split is ready, and not chosen. -/
  | taken
  /-- R51: the special-function unit was busy before: the split is not ready. -/
  | busy
deriving DecidableEq, Repr

/-- R29, R441: the units a form needs: its half, and the special-function unit for major 0x60. -/
def unitFree (d : Dev) (v : Wave) (g : FormSpec) : Units :=
  let x := d.sched v
  if (d.cc < x.half0 ∧ d.cc < x.half1) ∨ paced d v then .taken
  else if g.major = 0x60 ∧ d.cc < x.sfu then (if x.sfuAt = d.cc then .taken else .busy)
  else .free

/-- R192: whether a split awaits the leave of an operation it has issued. -/
def awaitsLeave (v : Wave) (p : Split) : Bool := v.slots.any (fun o => o.split == p.num && !o.granted)

/-- R354: a request of a split waits to be injected into the mesh. -/
def awaitsInjection (v : Wave) (p : Split) : Bool := v.recs.any (fun r => r.split == p.num && !r.injected && !r.frozen && (match r.state with
  | .sent | .fill | .timed _ => true
  | _ => false))

/-- R271: a store of a split waits for room in its core's versions. -/
def awaitsRoom (v : Wave) (p : Split) : Bool := v.recs.any (fun r => r.split == p.num && r.state == .room)

/-- R51: whether a split may try to issue: it is loaded, not stopped, and waits on no time and for no request. -/
def mayTry (d : Dev) (v : Wave) (p : Split) : Bool :=
  !v.halted && !v.stopped && !v.replaying && !v.exited && !v.awaitsEntry && !awaitsInjection v p && !awaitsRoom v p && p.loaded && !p.trapped && !p.arrived && decide (p.readyAt ≤ d.cc) &&
    !p.asleep && p.yield.isNone && p.fetchWait.isNone && !awaitsLeave v p

/-- R83: what an issuing split does: the decode checks (R82), a home-side watch before a safe point (R431), the role (R43), and then
what the instruction does. -/
def Iss.act (s : Iss) (k : Iss → Work) : Work :=
  if !formOk s.g s.i s.f then s.trap tIllegal 0
  else match (if s.f.st && s.p.stage == .idle then s.v.homeWatch else none) with
    | some (writer, a) =>
      { s with v := { s.v with homeWatch := none } }.trapAt tWatch s.p.pc 0 (2 ^ 31 + writer % 65536) a
    | none => if !roleOk s.v.role s.i s.g then s.trap tRole 0 else k s

/-- R51: whether what a split did took an issue slot: it issued, or raised a trap. -/
def tookSlot (a b : Work) : Bool := a.d.issued.length != b.d.issued.length || a.d.traps.length != b.d.traps.length

/-- R51, R83: an encoded instruction issued by the issuing split. Where a unit it needs is taken, a split that would have
issued stays, and one that waits on a condition of R51 waits on it all the same. -/
def State.issue (st : State) (i : Instr) (k : Iss → Work) : Host.Outcome State Fault Refusal :=
  st.run (fun w =>
    match w.d.issuer with
    | none => .error .noIssuer
    | some (u, n) =>
      match w.d.wave u with
      | none => .error .noIssuer
      | some v =>
        match v.split n, formSpec i, formOf i with
        | some p, some g, some f =>
          let s : Iss := { w, v, p, i, g, f, lanes := maskOf (activeLanes v p f) }
          match unitFree w.d v g with
          | .free => .ok (s.act k)
          | u => if tookSlot w (s.act k) then .ok (if u == .busy then s.wait 0 else s.stay) else .ok (s.act k)
        | _, _, _ => .error .noIssuer)

/-! ## Fetching (R83 step 1, R84) -/

/-- What the fetch of an instruction meets. -/
inductive Fetch where
  | words (ws : List Word)
  | untranslated (va : VAddr)
  | denied (va : VAddr)
  /-- R261, R363: the word, or an entry of its walk, is uncorrectable or out of reach. -/
  | lost (key : Nat)
deriving DecidableEq, Repr

/-- R84: one word fetched through the context's translation, which must be executable. -/
def fetchWord (w : Work) (c : Ctx) (va : VAddr) : Fetch :=
  match walk w c va with
  | .absent => .untranslated va
  | .malformed => .denied va
  | .lost k => .lost k
  | .leaf e _ _ n =>
    let k := (xlatOf va e n).key va
    if !pteX e then .denied va else if lost w.d k then .lost k else .words [w.word k]

/-- R61, R84: the words of the instruction at an address. -/
def fetchAll (w : Work) (c : Ctx) (va : VAddr) : Fetch :=
  match fetchWord w c va with
  | .words [b] =>
    match Decode.length b with
    | 1 => .words [b]
    | 2 => match fetchWord w c (va + 8) with
      | .words [x] => .words [b, x]
      | r => r
    | _ => match fetchWord w c (va + 8), fetchWord w c (va + 16) with
      | .words [x], .words [y] => .words [b, x, y]
      | .words [_], r => r
      | r, _ => r
  | r => r

end Sys2Proof.Machine
end

