-- ==== Sys2Proof/Machine/Flags.lean ====
section
/-! DEFINITION. The flags: the FP sticky flags and trap enables (R107), the trap FPE (R155), and the integer sticky flag
(R114). -/

namespace Sys2Proof.Machine

/-- R107: the flags, NV highest. -/
abbrev Fl := BitVec 5

def flNone : Fl := 0
def flNV : Fl := 16
def flDZ : Fl := 8
def flOF : Fl := 4
def flUF : Fl := 2
def flNX : Fl := 1

/-- R154: the flags several lanes or elements raise together. -/
def orFlags (fs : List Fl) : Fl := fs.foldl (· ||| ·) 0

/-- R108: the flags raised in a cc. -/
def raisedIn (v : Wave) (cc : Nat) : Fl × Bool := if v.raisedAt.1 = cc then v.raisedAt.2 else (flNone, false)

/-- R107: flags raised: they stay set. -/
def Iss.flag (s : Iss) (x : Fl) : Iss :=
  let (fp, i) := raisedIn s.v s.cc
  { s with
      v := { s.v with
      fpFlags := s.v.fpFlags ||| x, raisedAt := (s.cc, fp ||| x, i) } }

/-- R107, R114: the integer sticky flag set where some lane divided by zero. -/
def Iss.intFlag (s : Iss) (b : Bool) : Iss :=
  let (fp, i) := raisedIn s.v s.cc
  { s with
      v := { s.v with
      intFlag := s.v.intFlag || b, raisedAt := (s.cc, fp, i || b) } }

/-- R155: what the flags raised by the lanes bring: FPE with no other effect where one is enabled, else the flags and
then the instruction's effect. `raised` gives each executing lane's flags. -/
def Iss.raiseFlags (s : Iss) (raised : List (Nat × Fl)) (k : Iss → Work) : Work :=
  let all := orFlags (raised.map Prod.snd)
  let s' := s.flag all
  if s.v.fpTrapEn = 0 then k s'
  else if all &&& s.v.fpTrapEn = 0 then k s'
  else s'.trapAt tFpe s.p.pc (maskOf ((raised.filter (fun r => decide (r.2 &&& s.v.fpTrapEn ≠ 0))).map Prod.fst)) all.toNat 0

/-- A float instruction that computes results and flags in each executing lane (R154, R155). -/
def Iss.floatOp (s : Iss) (accs : List (List Ty)) (lat : Nat) (occ : Occupancy) (tags : List Ty)
    (compute : Iss → Nat → List (Word × Ty) → List (Word × Ty) × Fl) : Work :=
  s.gated s.active accs (fun s =>
    let outs := s.active.map (fun l => (l, compute s l (s.vals l)))
    s.raiseFlags (outs.map (fun o => (o.1, o.2.2))) (fun t =>
      (t.pop.deliver s.active tags (fun l => match outs.find? (fun o => o.1 == l) with
        | some o => o.2.1.map (s.entry lat)
        | none => [])).doneOcc occ))

/-- A float comparison (R164). -/
def Iss.floatPred (s : Iss) (accs : List (List Ty)) (lat : Nat) (occ : Occupancy)
    (compute : Iss → Nat → List (Word × Ty) → Bool × Fl) : Work :=
  s.gated s.active accs (fun s =>
    let outs := s.active.map (fun l => (l, compute s l (s.vals l)))
    s.raiseFlags (outs.map (fun o => (o.1, o.2.2))) (fun t =>
      (t.pop.setPred s.active s.f.pd lat (fun l => match outs.find? (fun o => o.1 == l) with
        | some o => o.2.1
        | none => false)).doneOcc occ))

end Sys2Proof.Machine
end

