-- ==== Sys2Proof/Machine/Integer.lean ====
section
/-! DEFINITION. Majors 0x01 to 0x05: `nop`, integer arithmetic, shifts, logic and bit fields (spec/05 R109 to R121), with
the modifier steps of R77 for integers. -/

namespace Sys2Proof.Machine

/-! ## Values -/

/-- R109: a value of w bits read by TY, signed under I32 and I64. -/
def intVal (t : Ty) (x : Word) : Int :=
  if tyWidth t = 32 then
    (if tySigned t then (x.setWidth 32).toInt else Int.ofNat (x.setWidth 32).toNat)
  else if tySigned t then x.toInt else Int.ofNat x.toNat

/-- R77: a number wrapped to the width of TY. -/
def intWrap (t : Ty) (v : Int) : Word :=
  if tyWidth t = 32 then (BitVec.ofInt 32 v).setWidth 64 else BitVec.ofInt 64 v

/-- R77: the range of TY. -/
def intMin (t : Ty) : Int := if tySigned t then - 2 ^ (tyWidth t - 1) else 0
def intMax (t : Ty) : Int := if tySigned t then 2 ^ (tyWidth t - 1) - 1 else 2 ^ tyWidth t - 1

/-- A number held between two bounds. -/
def between (lo hi v : Int) : Int := min (max v lo) hi

/-- R77: a source under its absolute-value and negate bits, two's complement, wrapping. -/
def intSource (t : Ty) (ab ng : Bool) (x : Word) : Int :=
  let v := intVal t x
  let v := if ab then intVal t (intWrap t (Int.ofNat v.natAbs)) else v
  if ng then intVal t (intWrap t (-v)) else v

/-- R77: the bounds of a clamp for an integer result: signed, or zero-extended for an unsigned one. -/
def intClamp (t : Ty) (c : Clamp) (v : Int) : Int :=
  match c with
  | .none => v
  | .unit => between 0 1 v
  | .sym => between (-1) 1 v
  | .bounds hi lo =>
    if tySigned t then between lo.toInt hi.toInt v else between (Int.ofNat lo.toNat) (Int.ofNat hi.toNat) v

/-- R77: the integer steps after the exact value: clamp, then saturate or wrap. -/
def intFinish (t : Ty) (m : Option Modifier) (v : Int) : Word :=
  match m with
  | none => intWrap t v
  | some m =>
    let v := intClamp t m.clamp v
    if m.sat then intWrap t (between (intMin t) (intMax t) v) else intWrap t v

/-- R77: the modified integer sources of a lane. -/
def intSources (f : Form) (xs : List (Word × Ty)) : List Int :=
  (enum xs).map (fun ix => match f.modw with
    | none => intVal f.ty ix.2.1
    | some m => match ix.1 with
      | 0 => intSource f.ty m.aa m.na ix.2.1
      | 1 => intSource f.ty m.ab m.nb ix.2.1
      | _ => intSource f.ty m.ac m.nc ix.2.1)

/-- R109: the tags a source accepts under an integer, mask or raw TY. -/
def intTags (t : Ty) : List Ty :=
  match t with
  | .i32 | .n32 => [.i32, .n32]
  | .i64 | .n64 => [.i64, .n64, .ptr]
  | .ptr => [.ptr, .i64, .n64]
  | .mask => [.mask, .i32, .n32]
  | _ => []

/-- R110: latencies of class A, and of classes M and D by width. -/
def latA : Nat := 4
def latM (t : Ty) : Nat := if tyWidth t = 32 then 6 else 10
def latD (t : Ty) : Nat := if tyWidth t = 32 then 26 else 50

/-- The operands of a lane, missing ones zero. -/
def arg (xs : List Int) (i : Nat) : Int := xs.getD i 0

/-- R113: an integer form: an exact value under the modifier steps. -/
def intOp (lat : Ty → Nat) (exact : Int → Int → Int → Int) (s : Iss) : Work :=
  let t := s.f.ty
  s.laneOp (List.replicate 3 (intTags t)) (lat t) [t] (fun s _ xs =>
    let a := intSources s.f xs
    [(intFinish t s.f.modw (exact (arg a 0) (arg a 1) (arg a 2)), t)])

/-- R114: truncated division; a zero divisor gives all ones and sets the integer flag. -/
def divOp (rem : Bool) (s : Iss) : Work :=
  let t := s.f.ty
  s.gated s.active (List.replicate 2 (intTags t)) (fun s =>
    let zeroDiv := s.active.any (fun l => arg (intSources s.f (s.vals l)) 1 == 0)
    (((s.pop.intFlag zeroDiv).deliver s.active [t] (fun l =>
      let a := intSources s.f (s.vals l)
      let x := arg a 0
      let y := arg a 1
      [s.entry (latD t) (if y = 0 then intWrap t (-1)
        else intFinish t s.f.modw (if rem then x - y * x.tdiv y else x.tdiv y), t)])).done))

/-! ## nop and integer arithmetic -/

/-- R112: nothing, in any lane and under any guard; a safe point when ST is set. -/
def nopOp (s : Iss) : Work := s.done

def execNop (f : Form) (st : State) : Host.Outcome State Fault Refusal := st.issue (.nop f) nopOp

/-- R113: a + b. -/
def execIadd (f : Form) (st : State) : Host.Outcome State Fault Refusal :=
  st.issue (.iadd f) (intOp (fun _ => latA) (fun a b _ => a + b))

/-- R113: a − b. -/
def execIsub (f : Form) (st : State) : Host.Outcome State Fault Refusal :=
  st.issue (.isub f) (intOp (fun _ => latA) (fun a b _ => a - b))

/-- R113: a × b. -/
def execImul (f : Form) (st : State) : Host.Outcome State Fault Refusal :=
  st.issue (.imul f) (intOp latM (fun a b _ => a * b))

/-- R113: bits [2w−1:w] of the product. -/
def execImulh (f : Form) (st : State) : Host.Outcome State Fault Refusal :=
  st.issue (.imulh f) (intOp latM (fun a b _ => (a * b).fdiv (2 ^ tyWidth f.ty)))

/-- R113: a × b + c. -/
def execImad (f : Form) (st : State) : Host.Outcome State Fault Refusal :=
  st.issue (.imad f) (intOp latM (fun a b c => a * b + c))

/-- R114: the quotient. -/
def execIdiv (f : Form) (st : State) : Host.Outcome State Fault Refusal := st.issue (.idiv f) (divOp false)

/-- R114: the remainder. -/
def execIrem (f : Form) (st : State) : Host.Outcome State Fault Refusal := st.issue (.irem f) (divOp true)

/-- R113: |a − b|. -/
def execIabsd (f : Form) (st : State) : Host.Outcome State Fault Refusal :=
  st.issue (.iabsd f) (intOp (fun _ => latA) (fun a b _ => Int.ofNat (a - b).natAbs))

/-- R113: the smaller of a and b. -/
def execImin (f : Form) (st : State) : Host.Outcome State Fault Refusal :=
  st.issue (.imin f) (intOp (fun _ => latA) (fun a b _ => min a b))

/-- R113: the larger of a and b. -/
def execImax (f : Form) (st : State) : Host.Outcome State Fault Refusal :=
  st.issue (.imax f) (intOp (fun _ => latA) (fun a b _ => max a b))

/-- A value of w bits, w the width of TY, as a natural number. -/
def natVal (t : Ty) (x : Word) : Nat := if tyWidth t = 32 then (x.setWidth 32).toNat else x.toNat

/-- The operand of a lane. -/
def opnd (xs : List (Word × Ty)) (i : Nat) : Word := (xs.getD i (0, .empty)).1
def opndTag (xs : List (Word × Ty)) (i : Nat) : Ty := (xs.getD i (0, .empty)).2

/-- R115: the w-bit sum a + b + c[0] and then the unsigned carry. -/
def addcOp (s : Iss) : Work :=
  let t := s.f.ty
  s.laneOp (List.replicate 3 (intTags t)) latA [t, t] (fun _ _ xs =>
    let v := natVal t (opnd xs 0) + natVal t (opnd xs 1) + natVal t (opnd xs 2) % 2
    [(BitVec.ofNat 64 (v % 2 ^ tyWidth t), t), (BitVec.ofNat 64 (v / 2 ^ tyWidth t), t)])

def execIaddc (f : Form) (st : State) : Host.Outcome State Fault Refusal := st.issue (.iaddc f) addcOp

/-- R73: the format a source with its own tag list is read in: its tag where the list has it, else the list's first. -/
def fmtOf (acc : List Ty) (t : Ty) : Ty := if acc.contains t then t else acc.headD .i32

/-- R116: the tags of SB of `lea` and of a shift count. -/
def countTags : List Ty := [.i32, .n32, .i64, .n64]

/-- R116: (a + (b' << s)) modulo 2^57, with b' extended by its tag and negated by NB. -/
def leaOp (s : Iss) : Work :=
  s.laneOp [intTags .ptr, countTags] latA [.ptr] (fun s _ xs =>
    let b := intVal (fmtOf countTags (opndTag xs 1)) (opnd xs 1)
    let b := match s.f.modw with
      | some m => if m.nb then -b else b
      | none => b
    [((BitVec.ofInt 57 (Int.ofNat (opnd xs 0).toNat + b * 2 ^ bits s.f.x13 0 3)).setWidth 64, .ptr)])

def execLea (f : Form) (st : State) : Host.Outcome State Fault Refusal := st.issue (.lea f) leaOp

/-! ## Shifts and logic -/

/-- R117: the count: a literal is read under TY, an entry under its own tag. -/
def countOf (s : Iss) (xs : List (Word × Ty)) : Nat :=
  if isLiteral s.f.sb then natVal s.f.ty (opnd xs 1)
  else natVal (fmtOf countTags (opndTag xs 1)) (opnd xs 1)

/-- R117: the four shifts of a w-bit value. -/
def shlBits (w a n : Nat) : Nat := if n < w then a * 2 ^ n % 2 ^ w else 0
def shrBits (w a n : Nat) : Nat := if n < w then a / 2 ^ n else 0
def sarBits (w a n : Nat) : Nat :=
  let k := min n (w - 1)
  if a < 2 ^ (w - 1) then a / 2 ^ k else a / 2 ^ k + (2 ^ w - 2 ^ (w - k))
def rotlBits (w a n : Nat) : Nat := (a * 2 ^ (n % w) % 2 ^ w) + a / 2 ^ (w - n % w)

/-- R117: a shift form; a literal count is exempt from the tag check. -/
def shiftOp (sh : Nat → Nat → Nat → Nat) (s : Iss) : Work :=
  let t := s.f.ty
  s.laneOp [intTags t, if isLiteral s.f.sb then [] else countTags] latA [t] (fun s _ xs =>
    [(BitVec.ofNat 64 (sh (tyWidth t) (natVal t (opnd xs 0)) (countOf s xs)), t)])

def execShl (f : Form) (st : State) : Host.Outcome State Fault Refusal := st.issue (.shl f) (shiftOp shlBits)
def execShr (f : Form) (st : State) : Host.Outcome State Fault Refusal := st.issue (.shr f) (shiftOp shrBits)
def execSar (f : Form) (st : State) : Host.Outcome State Fault Refusal := st.issue (.sar f) (shiftOp sarBits)
def execRotl (f : Form) (st : State) : Host.Outcome State Fault Refusal := st.issue (.rotl f) (shiftOp rotlBits)

/-- R118, R119: a form that acts on the bits of w-bit values and delivers a result under a tag. -/
def bitOp (tag : Ty → Ty) (op : Nat → Word → Word → Word → Word) (s : Iss) : Work :=
  let t := s.f.ty
  s.laneOp (List.replicate 3 (intTags t)) latA [tag t] (fun _ _ xs =>
    [(fit t (op (tyWidth t) (fit t (opnd xs 0)) (fit t (opnd xs 1)) (opnd xs 2)), tag t)])

def execAnd (f : Form) (st : State) : Host.Outcome State Fault Refusal := st.issue (.and f) (bitOp id (fun _ a b _ => a &&& b))
def execOr (f : Form) (st : State) : Host.Outcome State Fault Refusal := st.issue (.or f) (bitOp id (fun _ a b _ => a ||| b))
def execXor (f : Form) (st : State) : Host.Outcome State Fault Refusal := st.issue (.xor f) (bitOp id (fun _ a b _ => a ^^^ b))
def execAndn (f : Form) (st : State) : Host.Outcome State Fault Refusal := st.issue (.andn f) (bitOp id (fun _ a b _ => a &&& ~~~b))
def execNot (f : Form) (st : State) : Host.Outcome State Fault Refusal := st.issue (.not f) (bitOp id (fun _ a _ _ => ~~~a))

/-! ## Bit fields -/

/-- R119: the number of set bits. -/
def popBits (a : Word) : Nat := ((List.range 64).filter (fun i => a.getLsbD i)).length
/-- R119: the zero bits above the highest set bit of w bits. -/
def clzBits (w : Nat) (a : Word) : Nat := ((List.range w).takeWhile (fun i => !a.getLsbD (w - 1 - i))).length
/-- R119: the zero bits below the lowest set bit. -/
def ctzBits (w : Nat) (a : Word) : Nat := ((List.range w).takeWhile (fun i => !a.getLsbD i)).length
/-- R119: the w bits reversed. -/
def revBits (w : Nat) (a : Word) : Nat :=
  (List.range w).foldl (fun n i => if a.getLsbD i then n + 2 ^ (w - 1 - i) else n) 0

def execPopc (f : Form) (st : State) : Host.Outcome State Fault Refusal :=
  st.issue (.popc f) (bitOp (fun _ => .n32) (fun _ a _ _ => BitVec.ofNat 64 (popBits a)))
def execClz (f : Form) (st : State) : Host.Outcome State Fault Refusal :=
  st.issue (.clz f) (bitOp (fun _ => .n32) (fun w a _ _ => BitVec.ofNat 64 (clzBits w a)))
def execCtz (f : Form) (st : State) : Host.Outcome State Fault Refusal :=
  st.issue (.ctz f) (bitOp (fun _ => .n32) (fun w a _ _ => BitVec.ofNat 64 (ctzBits w a)))
def execBrev (f : Form) (st : State) : Host.Outcome State Fault Refusal :=
  st.issue (.brev f) (bitOp id (fun w a _ _ => BitVec.ofNat 64 (revBits w a)))

/-- R119, R120: the field at pos of len bits, extended by TY. -/
def fieldOf (t : Ty) (pos len : Nat) (a : Word) : Word :=
  let v := a.toNat / 2 ^ pos % 2 ^ len
  if tySigned t && decide (0 < len) && decide (2 ^ (len - 1) ≤ v) then intWrap t (Int.ofNat v - 2 ^ len)
  else BitVec.ofNat 64 v

def execBfx (f : Form) (st : State) : Host.Outcome State Fault Refusal :=
  st.issue (.bfx f) (bitOp id (fun _ a _ _ => fieldOf f.ty (bits f.x13 0 6) (bits f.x13 6 7) a))

/-- R119, R120: a with the field at pos replaced by the low len bits of b. -/
def insertField (pos len : Nat) (a b : Word) : Word :=
  let m : Word := BitVec.ofNat 64 ((2 ^ len - 1) * 2 ^ pos)
  (a &&& ~~~m) ||| (BitVec.ofNat 64 (b.toNat % 2 ^ len * 2 ^ pos))

def execBfi (f : Form) (st : State) : Host.Outcome State Fault Refusal :=
  st.issue (.bfi f) (bitOp id (fun _ a b _ => insertField (bits f.x13 0 6) (bits f.x13 6 7) a b))

/-- R121: byte j of the result, selected by a nibble from the bytes of a and b. -/
def permBytes (w : Nat) (a b c : Word) : Nat :=
  let n := w / 8
  (List.range n).foldl (fun r j =>
    let k := bits c (4 * j) 4
    let byte := if k < n then bits a (8 * k) 8 else if k < 2 * n then bits b (8 * (k - n)) 8 else 0
    r + byte * 2 ^ (8 * j)) 0

/-- R121: `perm`, whose selector SC carries I32 or N32. -/
def permOp (s : Iss) : Work :=
  let t := s.f.ty
  s.laneOp [intTags t, intTags t, [.i32, .n32]] latA [t] (fun _ _ xs =>
    [(BitVec.ofNat 64 (permBytes (tyWidth t) (fit t (opnd xs 0)) (fit t (opnd xs 1)) (fit .n32 (opnd xs 2))), t)])

def execPerm (f : Form) (st : State) : Host.Outcome State Fault Refusal := st.issue (.perm f) permOp

end Sys2Proof.Machine
end

