-- ==== Sys2Proof/Machine/Compare.lean ====
section
/-! DEFINITION. Majors 0x30 to 0x32: integer comparison, `sel` and the predicate forms (spec/05 R122 to R125). -/

namespace Sys2Proof.Machine

/-- R122: the integer conditions. -/
def condHolds (c : Cond) (a b : Int) : Bool :=
  match c with
  | .eq => a == b | .ne => a != b | .lt => decide (a < b) | .le => decide (a ≤ b) | .gt => decide (b < a) | .ge => decide (b ≤ a)

/-- R122: a comparison of the modified sources. -/
def icmpOp (c : Cond) (s : Iss) : Work :=
  s.predOp (List.replicate 2 (intTags s.f.ty)) latA (fun s _ xs =>
    let a := intSources s.f xs
    condHolds c (arg a 0) (arg a 1))

def execIcmp (c : Cond) (f : Form) (st : State) : Host.Outcome State Fault Refusal := st.issue (.icmp c f) (icmpOp c)

/-- R123: the sign bits a source modifier of `sel` acts on under a float TY. -/
def selSigns : Ty → Word
  | .f64 => 0x8000000000000000
  | .f32 => 0x80000000
  | _ => 0x80008000

/-- R123: a source of `sel` under its absolute-value and negate bits. -/
def selSource (t : Ty) (ab ng : Bool) (x : Word) : Word :=
  if tyFloat t then
    let x := if ab then x &&& ~~~selSigns t else x
    if ng then x ^^^ selSigns t else x
  else if ab || ng then intWrap t (intSource t ab ng x)
  else x

/-- The modified sources of `sel`. -/
def selSources (f : Form) (xs : List (Word × Ty)) : Word × Word :=
  match f.modw with
  | none => (opnd xs 0, opnd xs 1)
  | some m => (selSource f.ty m.aa m.na (opnd xs 0), selSource f.ty m.ab m.nb (opnd xs 1))

/-- A predicate as X13 names it: number and inversion. -/
def namedPred (l : Lane) (k : Nat) (inv : Bool) : Bool := predVal l k != inv

/-- R83, R110: an instruction that reads these predicates waits while one is pending in a lane it executes in. -/
def Iss.predGate (s : Iss) (ks : List Nat) (k : Iss → Work) : Work :=
  if s.active.any (fun l => ks.any (predPending s.cc (s.v.lane l))) then s.wait 1 else k s

/-- R123: a where pN holds and b elsewhere; under RAW the result keeps the chosen entry's tag. -/
def selOp (s : Iss) : Work :=
  let t := s.f.ty
  let k := bits s.f.x13 0 3
  s.predGate [k] (fun s =>
    s.laneOp (if t = .raw then [] else [[t], [t]]) latA [t] (fun s l xs =>
      let x := selSources s.f xs
      let first := namedPred (s.v.lane l) k (s.f.x13.getLsbD 3)
      [(if first then x.1 else x.2, if t = .raw then opndTag xs (if first then 0 else 1) else t)]))

def execSel (f : Form) (st : State) : Host.Outcome State Fault Refusal := st.issue (.sel f) selOp

/-- R124: a predicate form over the predicates X13 names. -/
def predLogic (op : Bool → Bool → Bool) (s : Iss) : Work :=
  let a := bits s.f.x13 0 3
  let b := bits s.f.x13 4 3
  s.predGate [a, b] (fun s =>
    s.predOp [] latA (fun s l _ =>
      op (namedPred (s.v.lane l) a (s.f.x13.getLsbD 3)) (namedPred (s.v.lane l) b (s.f.x13.getLsbD 7))))

/-- R124: a predicate form over one predicate. -/
def predUnary (op : Bool → Bool) (s : Iss) : Work :=
  let a := bits s.f.x13 0 3
  s.predGate [a] (fun s => s.predOp [] latA (fun s l _ => op (namedPred (s.v.lane l) a (s.f.x13.getLsbD 3))))

def execPand (f : Form) (st : State) : Host.Outcome State Fault Refusal := st.issue (.pand f) (predLogic (fun a b => a && b))
def execPor (f : Form) (st : State) : Host.Outcome State Fault Refusal := st.issue (.por f) (predLogic (fun a b => a || b))
def execPxor (f : Form) (st : State) : Host.Outcome State Fault Refusal := st.issue (.pxor f) (predLogic (fun a b => a != b))
def execPnot (f : Form) (st : State) : Host.Outcome State Fault Refusal := st.issue (.pnot f) (predUnary (fun a => !a))
def execPmov (f : Form) (st : State) : Host.Outcome State Fault Refusal := st.issue (.pmov f) (predUnary id)

/-- R125: bit l of a, in lane l. -/
def ptestOp (s : Iss) : Work :=
  s.predOp [intTags s.f.ty] latA (fun _ l xs => (opnd xs 0).getLsbD l)

def execPtest (f : Form) (st : State) : Host.Outcome State Fault Refusal := st.issue (.ptest f) ptestOp

end Sys2Proof.Machine
end

