-- ==== Sys2Proof/Machine/QueueFrame.lean ====
section
/-! DEFINITION. Major 0x20: the queue and frame forms (spec/05 R126 to R135). -/

namespace Sys2Proof.Machine

/-- R71: an instruction that reads nothing but its guard. -/
def Iss.guardGate (s : Iss) (k : Iss → Work) : Work :=
  if guardPending s.cc s.v s.p s.f then s.wait 1 else k s

/-- The lanes of a set changed. -/
def Iss.mapLanes (s : Iss) (p : Nat → Bool) (g : Nat → Lane → Lane) : Iss :=
  { s with
      v := { s.v with lanes := (enum s.v.lanes).map (fun il => if p il.1 then g il.1 il.2 else il.2) } }

/-- R128: `mov`: under RAW any tag but EMPTY, which the result keeps; the zero push of a lane that reads none has tag RAW, as have
those of the RAW forms of `sel`, `shfl` and `bcast` (log 66, DESIGN CHOICE). -/
def movOp (s : Iss) : Work :=
  let t := s.f.ty
  s.laneOp (if t = .raw then [] else [[t]]) latA [t] (fun _ _ xs => [(opnd xs 0, if t = .raw then opndTag xs 0 else t)])

def execMov (f : Form) (st : State) : Host.Outcome State Fault Refusal := st.issue (.mov f) movOp

/-- An age named by a source field, from 0. -/
def ageOf : Src → Nat
  | .age a => a.val
  | _ => 0

/-- R131: n entries removed from age a; the oldest ages become EMPTY. -/
def dropEntries (a n : Nat) (q : List Entry) : List Entry :=
  q.take a ++ q.drop (a + n) ++ List.replicate n Entry.empty

/-- R131: `drop`, in every lane of the home set. -/
def dropOp (s : Iss) : Work :=
  let a := ageOf s.f.sa
  let n := s.f.n
  let s := s.mapLanes (inMask s.p.home) (fun _ l => { l with q := dropEntries a n l.q })
  ({ s with p := addCount s.p (-(n : Int)) } : Iss).done

def execDrop (f : Form) (st : State) : Host.Outcome State Fault Refusal := st.issue (.drop f) dropOp

/-- An entry of a lane written where a source field names it. -/
def setEntry (l : Lane) (x : Src) (e : Entry) : Lane :=
  match x with
  | .age a => { l with q := l.q.set a.val e }
  | .frame k => { l with f := l.f.set k.val e }
  | _ => l

/-- R129: the two entries exchanged with their bindings. -/
def swapEntries (a b : Src) (l : Lane) : Lane :=
  setEntry (setEntry l a (entryAt l b)) b (entryAt l a)

def swapOp (s : Iss) : Work :=
  s.guardGate (fun s => (s.mapLanes (fun l => s.active.contains l) (fun _ l => swapEntries s.f.sa s.f.sb l)).done)

def execSwap (f : Form) (st : State) : Host.Outcome State Fault Refusal := st.issue (.swap f) swapOp

/-- R130: qn moved to q1. -/
def rotEntries (n : Nat) (q : List Entry) : List Entry := q.getD (n - 1) Entry.empty :: (q.take (n - 1) ++ q.drop n)

def rotOp (s : Iss) : Work :=
  s.guardGate (fun s =>
    (s.mapLanes (fun l => s.active.contains l) (fun _ l => { l with q := rotEntries s.f.n l.q })).done)

def execRot (f : Form) (st : State) : Host.Outcome State Fault Refusal := st.issue (.rot f) rotOp

/-- R132: n entries of tag EMPTY pushed in each lane. -/
def padOp (s : Iss) : Work :=
  s.guardGate (fun s =>
    (s.deliver s.active (List.replicate s.f.n .empty) (fun _ => List.replicate s.f.n Entry.empty)).done)

def execPad (f : Form) (st : State) : Host.Outcome State Fault Refusal := st.issue (.pad f) padOp

/-- An instruction that reads no value and delivers one N32 result per lane. -/
def readOp (s : Iss) (value : Iss → Lane → Nat) : Work :=
  s.guardGate (fun s =>
    (s.deliver s.active [.n32] (fun l => [s.entry latA (BitVec.ofNat 64 (value s (s.v.lane l)), .n32)])).done)

/-- R133: the entries whose tag is not EMPTY. -/
def qdepthOp (s : Iss) : Work := readOp s (fun _ l => (l.q.filter (fun e => e.tag != .empty)).length)

def execQdepth (f : Form) (st : State) : Host.Outcome State Fault Refusal := st.issue (.qdepth f) qdepthOp

/-- R134: the tag and pending bit of an entry. -/
def qtagOp (s : Iss) : Work :=
  readOp s (fun s l =>
    let e := entryAt l s.f.sa
    (tyCode (e.shownTag s.cc)).toNat + if e.pending s.cc then 16 else 0)

def execQtag (f : Form) (st : State) : Host.Outcome State Fault Refusal := st.issue (.qtag f) qtagOp

/-- R135: the 64-bit value with tag TY. -/
def retagOp (s : Iss) : Work := s.laneOp [] latA [s.f.ty] (fun s _ xs => [(opnd xs 0, s.f.ty)])

def execRetag (f : Form) (st : State) : Host.Outcome State Fault Refusal := st.issue (.retag f) retagOp

end Sys2Proof.Machine
end

