-- ==== Sys2Proof/Machine/FloatFmt.lean ====
section
/-! DEFINITION. The binary floating-point formats and their arithmetic (spec/06 R145 to R154, R160): a value is read exactly,
combined exactly, and rounded once. -/

namespace Sys2Proof.Machine

/-- R145: the binary floating-point formats. -/
inductive FFmt where
  | f64 | f32 | f16 | bf16 | e4m3 | e5m2
deriving DecidableEq, Repr

/-- R145: the exponent and fraction widths. -/
def FFmt.ew : FFmt → Nat
  | .f64 => 11 | .f32 => 8 | .f16 => 5 | .bf16 => 8 | .e4m3 => 4 | .e5m2 => 5
def FFmt.mw : FFmt → Nat
  | .f64 => 52 | .f32 => 23 | .f16 => 10 | .bf16 => 7 | .e4m3 => 3 | .e5m2 => 2
def FFmt.width (f : FFmt) : Nat := 1 + f.ew + f.mw
/-- R145: the bias. -/
def FFmt.bias (f : FFmt) : Int := 2 ^ (f.ew - 1) - 1
/-- The exponent of the smallest normal. -/
def FFmt.emin (f : FFmt) : Int := 1 - f.bias
/-- R145: the largest finite: its exponent, and its significand as an integer of mw + 1 bits. -/
def FFmt.emax (f : FFmt) : Int := match f with
  | .e4m3 => 8
  | _ => f.bias
def FFmt.mmax (f : FFmt) : Nat := match f with
  | .e4m3 => 14
  | _ => 2 ^ (f.mw + 1) - 1

/-- R146: the canonical NaN. -/
def FFmt.nan (f : FFmt) : Nat := match f with
  | .e4m3 => 0x7F
  | _ => (2 ^ f.ew - 1) * 2 ^ f.mw + 2 ^ (f.mw - 1)
def signBit (f : FFmt) (s : Bool) : Nat := if s then 2 ^ (f.width - 1) else 0
/-- R146, R152: ±∞; E4M3 has none, and gives its NaN. -/
def FFmt.inf (f : FFmt) (s : Bool) : Nat := match f with
  | .e4m3 => f.nan
  | _ => signBit f s + (2 ^ f.ew - 1) * 2 ^ f.mw
/-- R145: ±largest finite. -/
def FFmt.large (f : FFmt) (s : Bool) : Nat := match f with
  | .e4m3 => signBit f s + 0x7E
  | _ => signBit f s + (2 ^ f.ew - 1) * 2 ^ f.mw - 1

/-- A value read from its bits: a NaN, an infinity, or (−1)^s × m × 2^e. -/
inductive FV where
  | nan (signalling : Bool)
  | inf (s : Bool)
  | fin (s : Bool) (m : Nat) (e : Int)
deriving DecidableEq, Repr

def signOf (f : FFmt) (x : Nat) : Bool := x / 2 ^ (f.width - 1) % 2 == 1
def magOf (f : FFmt) (x : Nat) : Nat := x % 2 ^ (f.width - 1)

/-- R145, R146: the value of a bit pattern. -/
def fval (f : FFmt) (x : Nat) : FV :=
  let s := signOf f x
  let e := x / 2 ^ f.mw % 2 ^ f.ew
  let m := x % 2 ^ f.mw
  if e = 2 ^ f.ew - 1 ∧ f = .e4m3 ∧ m = 7 then .nan false
  else if e = 2 ^ f.ew - 1 ∧ f ≠ .e4m3 then
    (if m = 0 then .inf s else .nan (f ≠ .e5m2 && decide (m < 2 ^ (f.mw - 1))))
  else if e = 0 then .fin s m (f.emin - f.mw)
  else .fin s (2 ^ f.mw + m) (Int.ofNat e - f.bias - f.mw)

def FV.isNan : FV → Bool
  | .nan _ => true
  | _ => false
def FV.isSnan : FV → Bool
  | .nan s => s
  | _ => false
def FV.isInf : FV → Bool
  | .inf _ => true
  | _ => false
def FV.isZero : FV → Bool
  | .fin _ m _ => m == 0
  | _ => false

/-- R77: a source under its absolute-value and negate bits: the sign bit, NaN included. -/
def floatSource (f : FFmt) (ab ng : Bool) (x : Nat) : Nat :=
  let x := if ab then magOf f x else x
  if ng then (if signOf f x then magOf f x else x + 2 ^ (f.width - 1)) else x

/-! ## Rounding (R151 to R153) -/

/-- R151: the modes. -/
inductive RMode where
  | rne | rtz | rup | rdn | rna
deriving DecidableEq, Repr

/-- R151: the mode of an instruction: RND, or the form's default. -/
def modeOf (m : Option Modifier) (dflt : RMode) : RMode :=
  match m with
  | none => dflt
  | some m => match m.rnd with
    | .dflt => dflt | .rne => .rne | .rtz => .rtz | .rup => .rup | .rdn => .rdn | .rna => .rna

/-- R151: whether a magnitude with integer part k goes up, from the part below: its comparison with one half, and whether
it is zero. -/
def goesUp (mode : RMode) (s : Bool) (k : Nat) (half : Ordering) (inexact : Bool) : Bool :=
  match mode with
  | .rne => half == .gt || (half == .eq && k % 2 == 1)
  | .rna => half != .lt
  | .rtz => false
  | .rup => inexact && !s
  | .rdn => inexact && s

/-- A magnitude m × 2^e, a little more where `sticky`, as an integer in units of 2^q: rounded, and whether inexact. -/
def roundAt (mode : RMode) (s : Bool) (m : Nat) (e q : Int) (sticky : Bool) : Nat × Bool :=
  if q ≤ e then
    let k := m * 2 ^ (e - q).toNat
    (if goesUp mode s k .lt sticky then k + 1 else k, sticky)
  else
    let d := (q - e).toNat
    let k := m / 2 ^ d
    let r := m % 2 ^ d
    let inexact := sticky || r != 0
    let half := if 2 * r < 2 ^ d then Ordering.lt else if 2 * r = 2 ^ d ∧ !sticky then .eq else .gt
    (if goesUp mode s k half inexact then k + 1 else k, inexact)

/-- The exact result of an operation before rounding. A number is (−1)^s × m × 2^e, its magnitude a little more where
`sticky`; a sticky number's m has at least 60 bits. -/
inductive Exact where
  | nan
  | inf (s : Bool)
  | num (s : Bool) (m : Nat) (e : Int) (sticky : Bool)
deriving DecidableEq, Repr

/-- R152: the result of an overflow. -/
def overflowTo (f : FFmt) (mode : RMode) (sat s : Bool) : Nat :=
  let large := sat || (match mode with
    | .rtz => true | .rup => s | .rdn => !s | _ => false)
  if large then f.large s else f.inf s

/-- R153: a magnitude rounded with unbounded exponent: the significand and the exponent of its leading bit. -/
def roundFree (f : FFmt) (mode : RMode) (s : Bool) (m : Nat) (e : Int) (sticky : Bool) : Nat × Int :=
  let top : Int := (Nat.log2 m : Int) + e
  let (k, _) := roundAt mode s m e (top - f.mw) sticky
  if k = 2 ^ (f.mw + 1) then (2 ^ f.mw, top + 1) else (k, top)

/-- R153: whether a result is tiny, after rounding. -/
def isTiny (f : FFmt) (mode : RMode) (s : Bool) (m : Nat) (e : Int) (sticky : Bool) : Bool :=
  m != 0 && decide ((roundFree f mode s m e sticky).2 < f.emin)

/-- R152: whether a result overflows. -/
def overflows (f : FFmt) (mode : RMode) (s : Bool) (m : Nat) (e : Int) (sticky : Bool) : Bool :=
  let (k, top) := roundFree f mode s m e sticky
  m != 0 && (decide (f.emax < top) || (decide (f.emax = top) && decide (f.mmax < k)))

/-- R151 to R153: a number rounded to a format, with its flags. -/
def roundTo (f : FFmt) (mode : RMode) (sat s : Bool) (m : Nat) (e : Int) (sticky : Bool) : Nat × Fl :=
  if m = 0 then (signBit f s, flNone)
  else if overflows f mode s m e sticky then (overflowTo f mode sat s, flOF ||| flNX)
  else
    let top : Int := (Nat.log2 m : Int) + e
    let q := max top f.emin - f.mw
    let (k, inexact) := roundAt mode s m e q sticky
    (signBit f s + (q + f.mw + f.bias - 1).toNat * 2 ^ f.mw + k,
      (if inexact then flNX else flNone) ||| (if inexact && isTiny f mode s m e sticky then flUF else flNone))

/-- R77: a number delivered after SCALE by 2^k. -/
def roundExact (f : FFmt) (mode : RMode) (sat : Bool) (k : Int) : Exact → Nat × Fl
  | .nan => (f.nan, flNone)
  | .inf s => (f.inf s, flNone)
  | .num s m e sticky => roundTo f mode sat s m (e + k) sticky

/-! ## Order and clamp -/

/-- R161: the order of the non-NaN patterns, −0 below +0. -/
def orderKey (f : FFmt) (x : Nat) : Int := if signOf f x then - Int.ofNat (magOf f x) - 1 else Int.ofNat (magOf f x)
/-- R164: the order in which −0 equals +0. -/
def valueKey (f : FFmt) (x : Nat) : Int := if signOf f x then - Int.ofNat (magOf f x) else Int.ofNat (magOf f x)

/-- A value in one format brought to another, rounded to nearest even. -/
def toFmt (src dst : FFmt) (x : Nat) : Nat :=
  match fval src x with
  | .nan _ => dst.nan
  | .inf s => dst.inf s
  | .fin s m e => (roundTo dst .rne false s m e false).1

/-- R77: the bounds of a clamp in a format. -/
def clampBounds (f : FFmt) : Clamp → Option (Nat × Nat)
  | .none => none
  | .unit => some (0, (roundTo f .rne false false 1 0 false).1)
  | .sym => some ((roundTo f .rne false true 1 0 false).1, (roundTo f .rne false false 1 0 false).1)
  | .bounds hi lo => some (toFmt .bf16 f lo.toNat, toFmt .bf16 f hi.toNat)

/-- R77: a rounded result held between the bounds, in the order of R161; NaN passes, and a bound that the conversion to
E4M3 makes a NaN holds nothing back (log 30). -/
def floatClamp (f : FFmt) (c : Clamp) (x : Nat) : Nat :=
  match clampBounds f c with
  | none => x
  | some (lo, hi) =>
    if (fval f x).isNan then x
    else
      let y := if !(fval f lo).isNan && decide (orderKey f x < orderKey f lo) then lo else x
      if !(fval f hi).isNan && decide (orderKey f hi < orderKey f y) then hi else y

/-- R77, R153: the delivered bits of a number and its flags; a value the clamp changed differs from the exact value and
raises NX (log 30). -/
def finishFloat (f : FFmt) (m : Option Modifier) (dflt : RMode) (v : Exact) : Nat × Fl :=
  match m with
  | none => roundExact f dflt false 0 v
  | some w =>
    let (x, fl) := roundExact f (modeOf m dflt) w.sat w.scale.toInt v
    let y := floatClamp f w.clamp x
    (y, if !(fval f x).isNan && valueKey f x != valueKey f y then fl ||| flNX else fl)

/-! ## Exact arithmetic (R154, R159, R160) -/

/-- R154: NV where some source is a signalling NaN. -/
def snanFlag (xs : List FV) : Fl := if xs.any FV.isSnan then flNV else flNone

/-- The exact product of two values. -/
def fmulExact (a b : FV) : Exact × Fl :=
  match a, b with
  | .nan _, _ | _, .nan _ => (.nan, flNone)
  | .inf s, .inf t => (.inf (s != t), flNone)
  | .inf s, .fin t m _ | .fin t m _, .inf s => if m = 0 then (.nan, flNV) else (.inf (s != t), flNone)
  | .fin s m e, .fin t n k => (.num (s != t) (m * n) (e + k) false, flNone)

/-- A value as an exact number. -/
def FV.exact : FV → Exact
  | .nan _ => .nan
  | .inf s => .inf s
  | .fin s m e => .num s m e false

/-- A number as a signed integer in units of 2^q. -/
def inUnits (q : Int) : Exact → Int
  | .num s m e _ => let v := Int.ofNat (m * 2 ^ (e - q).toNat); if s then -v else v
  | _ => 0

def Exact.isNan : Exact → Bool
  | .nan => true
  | _ => false
def Exact.isInf (sign : Bool) : Exact → Bool
  | .inf s => s == sign
  | _ => false
def Exact.sign : Exact → Bool
  | .num s _ _ _ => s
  | .inf s => s
  | .nan => false
def Exact.zero : Exact → Bool
  | .num _ m _ _ => m == 0
  | _ => false

/-- R154, R160: the exact sum of terms: ∞ − ∞ is invalid whatever the others are, and an exact zero has the terms' common
sign where they are all zeros of one sign, else that of the mode. -/
def sumExact (mode : RMode) (ts : List Exact) : Exact × Fl :=
  let pos := ts.any (Exact.isInf false)
  let neg := ts.any (Exact.isInf true)
  if pos && neg then (.nan, flNV)
  else if ts.any Exact.isNan then (.nan, flNone)
  else if pos || neg then (.inf neg, flNone)
  else
    let q := ts.foldl (fun (q : Option Int) t => match t with
      | .num _ m e _ => if m = 0 then q else (match q with
        | some p => some (min p e)
        | none => some e)
      | _ => q) none
    match q with
    | none =>
      let s := (ts.headD .nan).sign
      (.num (if ts.all (fun t => t.sign == s) then s else mode == .rdn) 0 0 false, flNone)
    | some q =>
      let v := ts.foldl (fun a t => a + (if t.zero then 0 else inUnits q t)) 0
      if v = 0 then (.num (mode == .rdn) 0 0 false, flNone)
      else (.num (decide (v < 0)) v.natAbs q false, flNone)

/-- R154: the exact quotient. -/
def fdivExact (a b : FV) : Exact × Fl :=
  match a, b with
  | .nan _, _ | _, .nan _ => (.nan, flNone)
  | .inf _, .inf _ => (.nan, flNV)
  | .inf s, .fin t _ _ => (.inf (s != t), flNone)
  | .fin s _ _, .inf t => (.num (s != t) 0 0 false, flNone)
  | .fin s m e, .fin t n k =>
    if n = 0 then (if m = 0 then (.nan, flNV) else (.inf (s != t), flDZ))
    else (.num (s != t) (m * 2 ^ 120 / n) (e - k - 120) (m * 2 ^ 120 % n != 0), flNone)

/-- The integer square root of a number below 2^256. -/
def isqrt (n : Nat) : Nat :=
  (List.range 128).foldl (fun r i => if (r + 2 ^ (127 - i)) * (r + 2 ^ (127 - i)) ≤ n then r + 2 ^ (127 - i) else r) 0

/-- The square root of m × 2^e, m not zero: significand, exponent and whether inexact. -/
def rootOf (m : Nat) (e : Int) : Nat × Int × Bool :=
  let k : Nat := if e % 2 = 0 then 130 else 131
  let n := m * 2 ^ k
  let r := isqrt n
  (r, (e - k) / 2, r * r != n)

/-- R154, R159: the exact square root; √−0 is −0. -/
def fsqrtExact (a : FV) : Exact × Fl :=
  match a with
  | .nan _ => (.nan, flNone)
  | .inf s => if s then (.nan, flNV) else (.inf false, flNone)
  | .fin s m e =>
    if m = 0 then (.num s 0 0 false, flNone)
    else if s then (.nan, flNV)
    else
      let (r, k, inexact) := rootOf m e
      (.num false r k inexact, flNone)

/-! ## Formats of TY and elements of an entry -/

/-- R145: the format of an element under a TY. -/
def fmtOfTy : Ty → FFmt
  | .f64 => .f64 | .f16x2 => .f16 | .bf16x2 => .bf16 | .f8x4 => .e4m3 | .f8x4e5 => .e5m2 | _ => .f32

/-- R72: element i of an entry under a TY. -/
def elemAt (t : Ty) (x : Word) (i : Nat) : Nat := bits x (i * (fmtOfTy t).width) (fmtOfTy t).width

/-- R72, R74, R156: the entry of elements, low first. -/
def joinElems (t : Ty) (es : List Nat) : Word :=
  BitVec.ofNat 64 (((enum es).map (fun ie => ie.2 * 2 ^ (ie.1 * (fmtOfTy t).width))).sum)

/-- R74, R156: the elements a form operates on: both halves when packed, else the low one. -/
def elemsOf (f : Form) : List Nat := if tyHalf f.ty && f.packed then [0, 1] else [0]

/-! ## Minimum and maximum (R161) -/

/-- R161: whether the first source is selected over the second. -/
def firstWins (mx : Bool) (f : FFmt) (a b : Nat) : Bool :=
  if mx then decide (orderKey f b ≤ orderKey f a) else decide (orderKey f a ≤ orderKey f b)

/-- R161: minimum or maximum; with `num` the number variants. -/
def fminmax (mx num : Bool) (f : FFmt) (a b : Nat) : Nat :=
  match (fval f a).isNan, (fval f b).isNan with
  | true, true => f.nan
  | true, false => if num then b else f.nan
  | false, true => if num then a else f.nan
  | false, false => if firstWins mx f a b then a else b

end Sys2Proof.Machine
end

