-- ==== Sys2Proof/Machine/Lane.lean ====
section
/-! DEFINITION. Majors 0x28 to 0x2A: the lane instructions (spec/05 R136 to R143). -/

namespace Sys2Proof.Machine

/-- R110: latencies of class L. -/
def latShfl : Nat := 6
def latRed (t : Ty) : Nat := if tyFloat t then 16 else 10
def latScan (t : Ty) : Nat := if tyFloat t then 20 else 12

/-- R137: the tags of the moved value and of the lane operand. -/
def moveTags (t : Ty) : List Ty := if t = .raw then [] else [t]
def laneTags : List Ty := [.i32, .n32]

/-- The lane operand b, unsigned. -/
def laneIndex (xs : List (Word × Ty)) : Nat := bits (opnd xs 1) 0 32

/-- R137: the moved value and the tag it keeps. -/
def moved (t : Ty) (xs : List (Word × Ty)) : Word × Ty := (opnd xs 0, if t = .raw then opndTag xs 0 else t)

/-- R137: each active lane takes the value of the lane `from_` names, where it is active, else its own. -/
def shflOp (from_ : Nat → Nat → Option Nat) (s : Iss) : Work :=
  let t := s.f.ty
  s.laneOp [moveTags t, laneTags] latShfl [t] (fun s l xs =>
    [moved t (match from_ l (laneIndex xs) with
      | some k => if s.active.contains k then s.vals k else xs
      | none => xs)])

def execShflIdx (f : Form) (st : State) : Host.Outcome State Fault Refusal :=
  st.issue (.shflIdx f) (shflOp (fun _ b => some (b % 32)))
def execShflUp (f : Form) (st : State) : Host.Outcome State Fault Refusal :=
  st.issue (.shflUp f) (shflOp (fun l b => if b ≤ l then some (l - b) else none))
def execShflDown (f : Form) (st : State) : Host.Outcome State Fault Refusal :=
  st.issue (.shflDown f) (shflOp (fun l b => some (l + b)))
def execShflXor (f : Form) (st : State) : Host.Outcome State Fault Refusal :=
  st.issue (.shflXor f) (shflOp (fun l b => some (l ^^^ (b % 32))))

/-- R138: the value of the lane that the lowest active lane's b names. -/
def bcastOp (s : Iss) : Work :=
  let t := s.f.ty
  s.laneOp [moveTags t, laneTags] latShfl [t] (fun s _ _ =>
    let low := s.active.headD 0
    let k := laneIndex (s.vals low) % 32
    [moved t (s.vals (if s.active.contains k then k else low))])

def execBcast (f : Form) (st : State) : Host.Outcome State Fault Refusal := st.issue (.bcast f) bcastOp

/-- R139: the active lanes in which the predicate X13 names holds. -/
def votes (s : Iss) : List Nat :=
  s.active.filter (fun l => namedPred (s.v.lane l) (bits s.f.x13 0 3) (s.f.x13.getLsbD 3))

/-- R139: a vote that writes a predicate. -/
def voteOp (verdict : Iss → Bool) (s : Iss) : Work :=
  s.predGate [bits s.f.x13 0 3] (fun s => s.predOp [] latA (fun s _ _ => verdict s))

def execVoteAll (f : Form) (st : State) : Host.Outcome State Fault Refusal :=
  st.issue (.voteAll f) (voteOp (fun s => (votes s).length == s.active.length))
def execVoteAny (f : Form) (st : State) : Host.Outcome State Fault Refusal :=
  st.issue (.voteAny f) (voteOp (fun s => !(votes s).isEmpty))

/-- R139: the mask of the active lanes in which the predicate holds. -/
def ballotOp (s : Iss) : Work :=
  s.predGate [bits s.f.x13 0 3] (fun s =>
    s.laneOp [] latShfl [.mask] (fun s _ _ => [((maskOf (votes s)).setWidth 64, .mask)]))

def execVoteBallot (f : Form) (st : State) : Host.Outcome State Fault Refusal := st.issue (.voteBallot f) ballotOp

/-- R140: the active lanes whose entry equals this lane's in value and tag. -/
def matchOp (s : Iss) : Work :=
  s.laneOp [moveTags s.f.ty] latShfl [.mask] (fun s _ xs =>
    [((maskOf (s.active.filter (fun j => s.vals j == xs))).setWidth 64, .mask)])

def execMatchLanes (f : Form) (st : State) : Host.Outcome State Fault Refusal := st.issue (.matchLanes f) matchOp

/-! ## Reductions and scans -/

/-- R141: one combination of two float elements, with its flags. -/
def combFloat (o : RedOp) (f : FFmt) (a b : Nat) : Nat × Fl :=
  let (x, y) := (fval f a, fval f b)
  match o with
  | .min => (fminmax false true f a b, snanFlag [x, y])
  | .max => (fminmax true true f a b, snanFlag [x, y])
  | _ =>
    let (v, fl) := sumExact .rne [x.exact, y.exact]
    let (r, gl) := roundExact f .rne false 0 v
    (r, fl ||| gl ||| snanFlag [x, y])

/-- R141: one combination of two integers. -/
def combInt (o : RedOp) (t : Ty) (a b : Word) : Word :=
  match o with
  | .add => intWrap t (intVal t a + intVal t b)
  | .min => if intVal t a ≤ intVal t b then a else b
  | .max => if intVal t b ≤ intVal t a then a else b
  | .and => a &&& b
  | .or => a ||| b
  | .xor => a ^^^ b

/-- R141: the halves a float TY combines separately. -/
def redElems (t : Ty) : List Nat := if tyHalf t then [0, 1] else [0]

/-- A value on its way through a reduction, with the flags of the combinations that made it. -/
abbrev RedVal := Option (Word × Fl)

/-- R142: the combination; none where a lane has no value. -/
def comb (o : RedOp) (t : Ty) (x y : RedVal) : RedVal :=
  match x, y with
  | none, v | v, none => v
  | some (a, fa), some (b, fb) =>
    if tyFloat t then
      let rs := (redElems t).map (fun i => combFloat o (fmtOfTy t) (elemAt t a i) (elemAt t b i))
      some (joinElems t (rs.map Prod.fst), fa ||| fb ||| orFlags (rs.map Prod.snd))
    else some (combInt o t a b, fa ||| fb)

/-- R142: one level of the tree. -/
def pairUp (o : RedOp) (t : Ty) : List RedVal → List RedVal
  | x :: y :: r => comb o t x y :: pairUp o t r
  | r => r

/-- R142: the value of the tree over 32 lanes. -/
def treeOf (o : RedOp) (t : Ty) (vs : List RedVal) : RedVal :=
  (pairUp o t (pairUp o t (pairUp o t (pairUp o t (pairUp o t vs))))).headD none

/-- R143: one step of the scan, at distance d. -/
def scanStep (o : RedOp) (t : Ty) (d : Nat) (vs : List RedVal) : List RedVal :=
  (enum vs).map (fun iv => if d ≤ iv.1 then comb o t (vs.getD (iv.1 - d) none) iv.2 else iv.2)

/-- R143: the values after the last step. -/
def scanOf (o : RedOp) (t : Ty) (vs : List RedVal) : List RedVal := [1, 2, 4, 8, 16].foldl (fun vs d => scanStep o t d vs) vs

/-- R141: the identity of an exclusive scan. -/
def redIdentity (o : RedOp) (t : Ty) : Word :=
  let f := fmtOfTy t
  let both (x : Nat) : Word := joinElems t ((redElems t).map (fun _ => x))
  match o with
  | .min => if tyFloat t then both (f.inf false) else intWrap t (intMax t)
  | .max => if tyFloat t then both (f.inf true) else intWrap t (intMin t)
  | .and => fit t (BitVec.allOnes 64)
  | _ => 0

/-- R147: a delivered NaN is the canonical one, in every element. -/
def canonical (t : Ty) (x : Word) : Word :=
  if tyFloat t then
    joinElems t ((redElems t).map (fun i =>
      let e := elemAt t x i
      if (fval (fmtOfTy t) e).isNan then (fmtOfTy t).nan else e))
  else x

/-- The value a lane puts in, with NV where it is a signalling NaN (R154). -/
def redLeaf (t : Ty) (x : Word) : Word × Fl :=
  (fit t x, if tyFloat t then snanFlag ((redElems t).map (fun i => fval (fmtOfTy t) (elemAt t x i))) else flNone)

/-- R136: the 32 lanes' values, none where a lane is not active. -/
def redLeaves (s : Iss) : List RedVal :=
  (List.range 32).map (fun l => if s.active.contains l then some (redLeaf s.f.ty (opnd (s.vals l) 0)) else none)

/-- R109, R156: the tags a reduction accepts. -/
def redTags (t : Ty) : List Ty := if tyFloat t then [t] else intTags t

/-- R142, R143, R154: each executing lane's result and the flags of the combinations that made it (log 31). -/
def redResult (o : RedOp) (pick : List RedVal → Nat → RedVal) (s : Iss) (l : Nat) (xs : List (Word × Ty)) :
    List (Word × Ty) × Fl :=
  let t := s.f.ty
  let own := (redLeaf t (opnd xs 0)).2
  match pick (redLeaves s) l with
  | some (v, fl) => ([(canonical t v, t)], own ||| fl)
  | none => ([(redIdentity o t, t)], own)

/-- R142: `wred`. -/
def wredOp (o : RedOp) (s : Iss) : Work :=
  let t := s.f.ty
  s.floatOp [redTags t] (latRed t) {} [t] (redResult o (fun vs _ => treeOf o t vs))

def execWred (o : RedOp) (f : Form) (st : State) : Host.Outcome State Fault Refusal := st.issue (.wred o f) (wredOp o)

/-- R143: `wscan`, inclusive or exclusive. -/
def wscanOp (o : RedOp) (excl : Bool) (s : Iss) : Work :=
  let t := s.f.ty
  s.floatOp [redTags t] (latScan t) {} [t] (redResult o (fun vs l =>
    let ws := scanOf o t vs
    if excl then (if l = 0 then none else ws.getD (l - 1) none) else ws.getD l none))

def execWscan (o : RedOp) (x : Bool) (f : Form) (st : State) : Host.Outcome State Fault Refusal :=
  st.issue (.wscan o x f) (wscanOp o x)

end Sys2Proof.Machine
end

