-- ==== Sys2Proof/Machine/Float.lean ====
section
/-! DEFINITION. Majors 0x40, 0x41, 0x42 and 0x44: floating-point arithmetic, minimum and maximum, parts of a number and
comparison (spec/06 R156 to R164). -/

namespace Sys2Proof.Machine

/-- R157: latencies by TY, and the occupancy of a half by an FP64 form. -/
def latFA (t : Ty) : Nat := if t = .f64 then 8 else 4
def latFD (t : Ty) : Nat := if t = .f64 then 36 else 20
def fpOcc (t : Ty) : Occupancy := { half := if t = .f64 then 2 else 1 }

/-- R75: the absolute-value and negate bits of source i. -/
def srcMods (m : Option Modifier) (i : Nat) : Bool × Bool :=
  match m with
  | none => (false, false)
  | some m => match i with
    | 0 => (m.aa, m.na) | 1 => (m.ab, m.nb) | _ => (m.ac, m.nc)

/-- R77: element k of source i, modified. -/
def modElem (f : Form) (t : Ty) (xs : List (Word × Ty)) (i k : Nat) : Nat :=
  let (ab, ng) := srcMods f.modw i
  floatSource (fmtOfTy t) ab ng (elemAt t (opnd xs i) k)

/-- A form that computes one result per element from n modified sources (R74). -/
def elementwise (n : Nat) (compute : FFmt → List Nat → Nat × Fl) (s : Iss) (xs : List (Word × Ty)) : Word × Fl :=
  let t := s.f.ty
  let rs := (elemsOf s.f).map (fun k => compute (fmtOfTy t) ((List.range n).map (fun i => modElem s.f t xs i k)))
  (joinElems t (rs.map Prod.fst), orFlags (rs.map Prod.snd))

/-- A float form with one result of tag TY per lane. -/
def floatForm1 (lat : Ty → Nat) (n : Nat) (compute : Iss → FFmt → List Nat → Nat × Fl) (s : Iss) : Work :=
  let t := s.f.ty
  s.floatOp (List.replicate n [t]) (lat t) (fpOcc t) [t] (fun s _ xs =>
    let (x, fl) := elementwise n (compute s) s xs
    ([(x, t)], fl))

/-- The values of a list of patterns. -/
def vals3 (f : FFmt) (xs : List Nat) : FV × FV × FV := (fval f (xs.getD 0 0), fval f (xs.getD 1 0), fval f (xs.getD 2 0))

/-- R159: an exact operation on values, delivered under the modifier steps of R77. -/
def arithForm (lat : Ty → Nat) (n : Nat) (op : RMode → FV → FV → FV → Exact × Fl) (s : Iss) : Work :=
  floatForm1 lat n (fun s f xs =>
    let (a, b, c) := vals3 f xs
    let (v, fl) := op (modeOf s.f.modw .rne) a b c
    let (r, gl) := finishFloat f s.f.modw .rne v
    (r, fl ||| gl ||| snanFlag ((xs.map (fval f)).take n))) s

/-! ## Arithmetic -/

/-- A value with its sign inverted. -/
def Exact.neg : Exact → Exact
  | .nan => .nan
  | .inf s => .inf (!s)
  | .num s m e k => .num (!s) m e k

/-- R159: a + b. -/
def execFadd (f : Form) (st : State) : Host.Outcome State Fault Refusal :=
  st.issue (.fadd f) (arithForm latFA 2 (fun md a b _ => sumExact md [a.exact, b.exact]))
/-- R159: a − b. -/
def execFsub (f : Form) (st : State) : Host.Outcome State Fault Refusal :=
  st.issue (.fsub f) (arithForm latFA 2 (fun md a b _ => sumExact md [a.exact, b.exact.neg]))
/-- R159: a × b. -/
def execFmul (f : Form) (st : State) : Host.Outcome State Fault Refusal :=
  st.issue (.fmul f) (arithForm latFA 2 (fun _ a b _ => fmulExact a b))

/-- R159: a × b + c with one rounding. -/
def ffmaExact (md : RMode) (a b c : FV) : Exact × Fl :=
  let (p, fl) := fmulExact a b
  let (v, gl) := sumExact md [p, c.exact]
  (v, fl ||| gl)

def execFfma (f : Form) (st : State) : Host.Outcome State Fault Refusal := st.issue (.ffma f) (arithForm latFA 3 ffmaExact)
/-- R159: a ÷ b. -/
def execFdiv (f : Form) (st : State) : Host.Outcome State Fault Refusal :=
  st.issue (.fdiv f) (arithForm latFD 2 (fun _ a b _ => fdivExact a b))
/-- R159: √a. -/
def execFsqrt (f : Form) (st : State) : Host.Outcome State Fault Refusal :=
  st.issue (.fsqrt f) (arithForm latFD 1 (fun _ a _ _ => fsqrtExact a))

/-- R73, R159: the half format `fdot2` reads SA and SB in, chosen by SA. -/
def halfTags : List Ty := [.f16x2, .bf16x2]

/-- R159: a.lo × b.lo + a.hi × b.hi + c with one rounding to F32. -/
def fdot2Lane (s : Iss) (xs : List (Word × Ty)) : Word × Fl :=
  let h := fmtOf halfTags (opndTag xs 0)
  let fh := fmtOfTy h
  let v (i k : Nat) : FV := fval fh (modElem s.f h xs i k)
  let c := fval .f32 (modElem s.f .f32 xs 2 0)
  let (p, fp) := fmulExact (v 0 0) (v 1 0)
  let (q, fq) := fmulExact (v 0 1) (v 1 1)
  let (r, fr) := sumExact (modeOf s.f.modw .rne) [p, q, c.exact]
  let (x, fx) := finishFloat .f32 s.f.modw .rne r
  (BitVec.ofNat 64 x, fp ||| fq ||| fr ||| fx ||| snanFlag [v 0 0, v 0 1, v 1 0, v 1 1, c])

/-- R159: mixed half tags raise TAG, where RAW does not suspend the check. -/
def mixedHalves (s : Iss) (ls : List Nat) : List Nat :=
  ls.filter (fun l => opndTag (s.vals l) 0 != opndTag (s.vals l) 1)

/-- R73, R407: the source checks of a form whose first two sources share a half format: the lanes in which they differ
are among those that raise TAG. -/
def Iss.halves (s : Iss) (accs : List (List Ty)) (k : Work) : Work :=
  let mixed := if s.raw then [] else mixedHalves s s.active
  match s.gate s.active accs with
  | .wait c => s.wait c
  | .trap c m => s.trap c (if c = tTag then m ||| maskOf mixed else m)
  | .ready => if mixed.isEmpty then k else s.trap tTag (maskOf mixed)

def fdot2Op (s : Iss) : Work :=
  s.halves [halfTags, halfTags, [.f32]] (s.floatOp [halfTags, halfTags, [.f32]] 6 {} [.f32] (fun s _ xs =>
    let (x, fl) := fdot2Lane s xs
    ([(x, .f32)], fl)))

def execFdot2 (f : Form) (st : State) : Host.Outcome State Fault Refusal := st.issue (.fdot2 f) fdot2Op

/-! ## Minimum and maximum -/

/-- R161: a selection, then the clamp; NV is the only flag. -/
def minmaxForm (mx num : Bool) (s : Iss) : Work :=
  floatForm1 latFA 2 (fun s f xs =>
    let a := xs.getD 0 0
    let b := xs.getD 1 0
    let r := fminmax mx num f a b
    (match s.f.modw with
     | some m => floatClamp f m.clamp r
     | none => r, snanFlag [fval f a, fval f b])) s

def execFminNum (f : Form) (st : State) : Host.Outcome State Fault Refusal := st.issue (.fminNum f) (minmaxForm false true)
def execFmin (f : Form) (st : State) : Host.Outcome State Fault Refusal := st.issue (.fmin f) (minmaxForm false false)
def execFmaxNum (f : Form) (st : State) : Host.Outcome State Fault Refusal := st.issue (.fmaxNum f) (minmaxForm true true)
def execFmax (f : Form) (st : State) : Host.Outcome State Fault Refusal := st.issue (.fmax f) (minmaxForm true false)

/-! ## Parts of a number -/

/-- R162: a value rounded to an integral one; NX is never raised. -/
def frndElem (mode : RMode) (f : FFmt) (x : Nat) : Nat × Fl :=
  match fval f x with
  | .nan sg => (f.nan, if sg then flNV else flNone)
  | .inf s => (f.inf s, flNone)
  | .fin s m e => ((roundTo f .rne false s (roundAt mode s m e 0 false).1 0 false).1, flNone)

def execFrnd (f : Form) (st : State) : Host.Outcome State Fault Refusal :=
  st.issue (.frnd f) (floatForm1 latFA 1 (fun s f xs => frndElem (modeOf s.f.modw .rne) f (xs.getD 0 0)))

/-- R162: a − floor(a) rounded down; +0 for an integral value. -/
def ffractElem (f : FFmt) (x : Nat) : Nat × Fl :=
  match fval f x with
  | .nan sg => (f.nan, if sg then flNV else flNone)
  | .inf _ => (f.nan, flNV)
  | .fin s m e =>
    if 0 ≤ e then (0, flNone)
    else
      let d := (-e).toNat
      let r := m % 2 ^ d
      if r = 0 then (0, flNone)
      else roundTo f .rdn false false (if s then 2 ^ d - r else r) e false

def execFfract (f : Form) (st : State) : Host.Outcome State Fault Refusal :=
  st.issue (.ffract f) (floatForm1 latFA 1 (fun _ f xs => ffractElem f (xs.getD 0 0)))

/-- R162: a × 2^b. An exponent beyond ±5,000 overflows or vanishes in every format exactly as ±5,000 does. -/
def fldexpElem (m : Option Modifier) (f : FFmt) (x : Nat) (b : Int) : Nat × Fl :=
  let v := fval f x
  let (r, fl) := finishFloat f m .rne (match v with
    | .nan _ => .nan
    | .inf s => .inf s
    | .fin s m e => .num s m (e + between (-5000) 5000 b) false)
  (r, fl ||| snanFlag [v])

def fldexpOp (s : Iss) : Work :=
  let t := s.f.ty
  s.floatOp [[t], [.i32]] (latFA t) (fpOcc t) [t] (fun s _ xs =>
    let (x, fl) := fldexpElem s.f.modw (fmtOfTy t) (modElem s.f t xs 0 0) (intVal .i32 (opnd xs 1))
    ([(BitVec.ofNat 64 x, t)], fl))

def execFldexp (f : Form) (st : State) : Host.Outcome State Fault Refusal := st.issue (.fldexp f) fldexpOp

/-- R162: the mantissa and the exponent. -/
def ffrexpElem (f : FFmt) (x : Nat) : Nat × Int × Fl :=
  match fval f x with
  | .nan sg => (f.nan, 0, if sg then flNV else flNone)
  | .inf s => (f.inf s, 0, flNone)
  | .fin s m e =>
    if m = 0 then (signBit f s, 0, flNone)
    else
      let top : Int := Nat.log2 m
      ((roundTo f .rne false s m (-(top + 1)) false).1, e + top + 1, flNone)

def ffrexpOp (s : Iss) : Work :=
  let t := s.f.ty
  s.floatOp [[t]] (latFA t) (fpOcc t) [t, .i32] (fun s _ xs =>
    let (m, e, fl) := ffrexpElem (fmtOfTy t) (modElem s.f t xs 0 0)
    ([(BitVec.ofNat 64 m, t), (intWrap .i32 e, .i32)], fl))

def execFfrexp (f : Form) (st : State) : Host.Outcome State Fault Refusal := st.issue (.ffrexp f) ffrexpOp

/-- R162: the bits of a with the sign of b; no number is read, so no flag is raised. -/
def execFcopysign (f : Form) (st : State) : Host.Outcome State Fault Refusal :=
  st.issue (.fcopysign f) (floatForm1 latFA 2 (fun _ f xs =>
    (magOf f (xs.getD 0 0) + signBit f (signOf f (xs.getD 1 0)), flNone)))

/-- R163: the class bit of a pattern. -/
def classBit (f : FFmt) (x : Nat) : Nat :=
  match fval f x with
  | .nan true => 0
  | .nan false => 1
  | .inf s => if s then 2 else 9
  | .fin s m _ =>
    if m = 0 then (if s then 5 else 6)
    else if m < 2 ^ f.mw then (if s then 4 else 7)
    else if s then 3 else 8

/-- R163: the class mask, the high element's at bit 16. -/
def fclassOp (s : Iss) : Work :=
  let t := s.f.ty
  s.floatOp [[t]] (latFA t) (fpOcc t) [.n32] (fun s _ xs =>
    ([(BitVec.ofNat 64 ((elemsOf s.f).map (fun k =>
      2 ^ (16 * k + classBit (fmtOfTy t) (elemAt t (opnd xs 0) k)))).sum, .n32)], flNone))

def execFclass (f : Form) (st : State) : Host.Outcome State Fault Refusal := st.issue (.fclass f) fclassOp

/-! ## Comparison -/

/-- R164: a condition on two patterns: its truth, and whether it signals NV. -/
def fcmpElem (c : FCond) (f : FFmt) (a b : Nat) : Bool × Fl :=
  let (x, y) := (fval f a, fval f b)
  let unordered := x.isNan || y.isNan
  let (k, l) := (valueKey f a, valueKey f b)
  let sig := snanFlag [x, y]
  let signals := if unordered then flNV else flNone
  match c with
  | .eq => (!unordered && k == l, sig)
  | .ne => (unordered || k != l, sig)
  | .lt => (!unordered && decide (k < l), signals)
  | .le => (!unordered && decide (k ≤ l), signals)
  | .gt => (!unordered && decide (l < k), signals)
  | .ge => (!unordered && decide (l ≤ k), signals)
  | .ord => (!unordered, sig)
  | .uno => (unordered, sig)

def fcmpOp (c : FCond) (s : Iss) : Work :=
  let t := s.f.ty
  s.floatPred [[t], [t]] (latFA t) (fpOcc t) (fun s _ xs => fcmpElem c (fmtOfTy t) (modElem s.f t xs 0 0) (modElem s.f t xs 1 0))

def execFcmp (c : FCond) (f : Form) (st : State) : Host.Outcome State Fault Refusal := st.issue (.fcmp c f) (fcmpOp c)

end Sys2Proof.Machine
end

