-- ==== Sys2Proof/Machine/Convert.lean ====
section
/-! DEFINITION. Majors 0x58 and 0x59: conversions and codebooks (spec/06 R148, R149, R165 to R167). -/

namespace Sys2Proof.Machine

/-- R165: the source lists of the conversions. -/
def floatTags : List Ty := [.f64, .f32, .f16x2, .bf16x2]
def numTags : List Ty := [.i32, .n32, .i64, .n64, .fx64]
def f8Tags : List Ty := [.f8x4, .f8x4e5]

/-- R157: whether a conversion is an FP64 form: TY is F64, or some executing lane's source is (log 70, DESIGN CHOICE). -/
def wideConv (s : Iss) : Bool := s.f.ty == .f64 || s.active.any (fun l => opndTag (s.vals l) 0 == .f64)

/-- R157: a conversion's latency and occupancy. -/
def convLat (wide : Bool) : Nat := if wide then 8 else 4
def convOcc (wide : Bool) : Occupancy := { half := if wide then 2 else 1 }

/-- A conversion of one source under its own tag list. -/
def convOp (acc : List Ty) (compute : Iss → List (Word × Ty) → List (Word × Ty) × Fl) (tags : List Ty) (s : Iss) : Work :=
  s.floatOp [acc] (convLat (wideConv s)) (convOcc (wideConv s)) tags (fun s _ xs => compute s xs)

/-- R165: a rounded to TY. -/
def cvtLane (s : Iss) (xs : List (Word × Ty)) : List (Word × Ty) × Fl :=
  let st := fmtOf floatTags (opndTag xs 0)
  let v := fval (fmtOfTy st) (modElem s.f st xs 0 0)
  let (r, fl) := finishFloat (fmtOfTy s.f.ty) s.f.modw .rne v.exact
  ([(BitVec.ofNat 64 r, s.f.ty)], fl ||| snanFlag [v])

def execCvt (f : Form) (st : State) : Host.Outcome State Fault Refusal := st.issue (.cvt f) (convOp floatTags cvtLane [f.ty])

/-- R165: a × 2^k rounded to an integer of TY, held to its range; the range is judged on the rounded value (log 32). -/
def cvtiValue (t : Ty) (mode : RMode) (k : Int) (v : FV) : Int × Fl :=
  match v with
  | .nan _ => (0, flNV)
  | .inf s => (if s then intMin t else intMax t, flNV)
  | .fin s m e =>
    let (n, inexact) := roundAt mode s m (e + k) 0 false
    let x : Int := if s then -(n : Int) else n
    if x < intMin t then (intMin t, flNV)
    else if intMax t < x then (intMax t, flNV)
    else (x, if inexact then flNX else flNone)

def scaleOf (m : Option Modifier) : Int := match m with
  | some m => m.scale.toInt
  | none => 0

def cvtiLane (s : Iss) (xs : List (Word × Ty)) : List (Word × Ty) × Fl :=
  let st := fmtOf floatTags (opndTag xs 0)
  let v := fval (fmtOfTy st) (modElem s.f st xs 0 0)
  let (x, fl) := cvtiValue s.f.ty (modeOf s.f.modw .rtz) (scaleOf s.f.modw) v
  let y := intFinish s.f.ty s.f.modw x
  ([(y, s.f.ty)], if fl &&& flNV == flNone && intVal s.f.ty y != x then fl ||| flNX else fl)

def execCvti (f : Form) (st : State) : Host.Outcome State Fault Refusal := st.issue (.cvti f) (convOp floatTags cvtiLane [f.ty])

/-- R165: an integer × 2^k rounded to TY. -/
def cvtfLane (s : Iss) (xs : List (Word × Ty)) : List (Word × Ty) × Fl :=
  let st := fmtOf numTags (opndTag xs 0)
  let (ab, ng) := srcMods s.f.modw 0
  let a := intSource st ab ng (opnd xs 0)
  let (r, fl) := finishFloat (fmtOfTy s.f.ty) s.f.modw .rne (.num (decide (a < 0)) a.natAbs 0 false)
  ([(BitVec.ofNat 64 r, s.f.ty)], fl)

def execCvtf (f : Form) (st : State) : Host.Outcome State Fault Refusal := st.issue (.cvtf f) (convOp numTags cvtfLane [f.ty])

/-- R165: low = a rounded, high = b rounded. -/
def pack2Lane (s : Iss) (xs : List (Word × Ty)) : List (Word × Ty) × Fl :=
  let one (i : Nat) : Nat × Fl :=
    let v := fval .f32 (modElem s.f .f32 xs i 0)
    let (r, fl) := finishFloat (fmtOfTy s.f.ty) s.f.modw .rne v.exact
    (r, fl ||| snanFlag [v])
  ([(joinElems s.f.ty [(one 0).1, (one 1).1], s.f.ty)], (one 0).2 ||| (one 1).2)

def pack2Op (s : Iss) : Work :=
  s.floatOp [[.f32], [.f32]] 4 {} [s.f.ty] (fun s _ xs => pack2Lane s xs)

def execPack2 (f : Form) (st : State) : Host.Outcome State Fault Refusal := st.issue (.pack2 f) pack2Op

/-- R165: one element brought exactly to a wider format; no flag. -/
def widen (s : Iss) (src dst : Ty) (xs : List (Word × Ty)) (k : Nat) : Nat :=
  toFmt (fmtOfTy src) (fmtOfTy dst) (modElem s.f src xs 0 k)

/-- R165: the low half exact, then the high half. -/
def unpk2Lane (s : Iss) (xs : List (Word × Ty)) : List (Word × Ty) × Fl :=
  let h := fmtOf halfTags (opndTag xs 0)
  ([(BitVec.ofNat 64 (widen s h .f32 xs 0), .f32), (BitVec.ofNat 64 (widen s h .f32 xs 1), .f32)], flNone)

def execUnpk2 (f : Form) (st : State) : Host.Outcome State Fault Refusal :=
  st.issue (.unpk2 f) (convOp halfTags unpk2Lane [.f32, .f32])

/-- R148: a subnormal result flushed to a zero of its sign. -/
def flushed (f : FFmt) (x : Nat) : Bool := magOf f x != 0 && decide (magOf f x < 2 ^ f.mw)

/-- R165, R148: one element of `f8pack`: rounding, saturation, flush, clamp, in this order (log 69, DESIGN CHOICE: R148 does not
order the flush and the clamp). -/
def f8packElem (m : Option Modifier) (flush : Bool) (dst : FFmt) (v : FV) : Nat × Fl :=
  let sat := match m with
    | some w => w.sat
    | none => false
  let clampOf (x : Nat) : Nat := match m with
    | some w => floatClamp dst w.clamp x
    | none => x
  let changed (x y : Nat) : Fl := if !(fval dst x).isNan && valueKey dst x != valueKey dst y then flNX else flNone
  match v with
  | .nan sg => (dst.nan, if sg then flNV else flNone)
  | .inf s =>
    let (x, fl) : Nat × Fl := if sat then (dst.large s, flNX) else if dst = .e4m3 then (dst.nan, flNV) else (dst.inf s, flNone)
    (clampOf x, fl ||| changed x (clampOf x))
  | .fin s n e =>
    let (x, fl) := roundExact dst (modeOf m .rne) sat (scaleOf m) (.num s n e false)
    let (x, fl) : Nat × Fl := if flush && flushed dst x then (signBit dst s, fl ||| flUF ||| flNX) else (x, fl)
    (clampOf x, fl ||| changed x (clampOf x))

def f8packLane (s : Iss) (xs : List (Word × Ty)) : List (Word × Ty) × Fl :=
  let h := fmtOf halfTags (opndTag xs 0)
  let t := s.f.ty
  let rs := [(0, 0), (0, 1), (1, 0), (1, 1)].map (fun ik =>
    f8packElem s.f.modw (s.f.x13.getLsbD 0) (fmtOfTy t) (fval (fmtOfTy h) (modElem s.f h xs ik.1 ik.2)))
  ([(joinElems t (rs.map Prod.fst), t)], orFlags (rs.map Prod.snd))

def f8packOp (s : Iss) : Work :=
  s.halves [halfTags, halfTags] (s.floatOp [halfTags, halfTags] 4 {} [s.f.ty] (fun s _ xs => f8packLane s xs))

def execF8pack (f : Form) (st : State) : Host.Outcome State Fault Refusal := st.issue (.f8pack f) f8packOp

/-- R165: elements 0 and 1, then elements 2 and 3. -/
def f8unpkLane (s : Iss) (xs : List (Word × Ty)) : List (Word × Ty) × Fl :=
  let q := fmtOf f8Tags (opndTag xs 0)
  let t := s.f.ty
  ([(joinElems t [widen s q t xs 0, widen s q t xs 1], t), (joinElems t [widen s q t xs 2, widen s q t xs 3], t)], flNone)

def execF8unpk (f : Form) (st : State) : Host.Outcome State Fault Refusal :=
  st.issue (.f8unpk f) (convOp f8Tags f8unpkLane [f.ty, f.ty])

/-! ## Codebooks -/

/-- R166: the sixteen entries lanes 0 to 7 supply; a lane not active supplies two zeros. -/
def bookOf (s : Iss) : BitVec 256 :=
  BitVec.ofNat 256 (((List.range 8).map (fun j =>
    if s.active.contains j then bits (opnd (s.vals j) 0) 0 32 * 2 ^ (32 * j) else 0)).sum)

/-- R166: `cbkld`. -/
def cbkldOp (s : Iss) : Work :=
  s.gated s.active [[.bf16x2]] (fun s =>
    let b := bookOf s
    let s := s.pop
    ({ s with
        v := { s.v with
        books := s.v.books.set (bits s.f.x13 0 2) b
        oldBooks := some (match s.v.oldBooks with
          | some (c, bs) => if c = s.cc then (c, bs) else (s.cc, s.v.books)
          | none => (s.cc, s.v.books)) } } : Iss).done)

def execCbkld (f : Form) (st : State) : Host.Outcome State Fault Refusal := st.issue (.cbkld f) cbkldOp

/-- R149, R104: entry c of a codebook. -/
def bookEntry (b : BitVec 256) (c : Nat) : Nat := bits b (16 * c) 16

/-- R167: the four codes of a group decoded; the bits are copied. -/
def cbkdecLane (s : Iss) (xs : List (Word × Ty)) : List (Word × Ty) × Fl :=
  let b := s.v.book s.cc (bits s.f.x13 0 2)
  let g := bits s.f.x13 2 2
  let e (i : Nat) : Nat := bookEntry b (bits (opnd xs 0) (4 * (4 * g + i)) 4)
  ([(joinElems .bf16x2 [e 0, e 1], .bf16x2), (joinElems .bf16x2 [e 2, e 3], .bf16x2)], flNone)

def cbkdecOp (s : Iss) : Work :=
  s.floatOp [[.cb4x16]] 4 {} [.bf16x2, .bf16x2] (fun s _ xs => cbkdecLane s xs)

def execCbkdec (f : Form) (st : State) : Host.Outcome State Fault Refusal := st.issue (.cbkdec f) cbkdecOp

end Sys2Proof.Machine
end

