-- ==== Sys2Proof/Machine/Special.lean ====
section
/-! DEFINITION. Major 0x60: the special functions (spec/06 R168, R169). The manual gives each function a bound and not its
bits: the delivered bits are a free value (`Config.specialResult`) held to the bound, and where that value does not lie
within it, the exact result rounded to nearest even. Exact values are enclosed in fixed point with 256 fraction bits. -/

namespace Sys2Proof.Machine

/-- The unit of the fixed-point values. -/
def one256 : Nat := 2 ^ 256
/-- π and ln 2 in that unit, rounded down. -/
def pi256 : Nat := 363771576891766324280234942777729862653393377328392429958772151117938894466185
def ln2256 : Nat := 80260960185991308862233904206310070533990667611589946606122867505419956976171

/-- e^x for a fixed-point x from 0 to 1. -/
def expFix (x : Nat) : Nat :=
  ((List.range 60).foldl (fun (a : Nat × Nat) i =>
    let t := a.1 * x / one256 / (i + 1)
    (t, a.2 + t)) (one256, one256)).2

/-- 2^y for a fixed-point y: the fixed-point fraction from 1 to 2, and the exponent. -/
def exp2Fix (y : Int) : Nat × Int :=
  let n := y.fdiv one256
  (expFix ((y - n * one256).toNat * ln2256 / one256), n)

/-- atanh t for a fixed-point t of magnitude at most 0.2. -/
def atanhFix (t : Int) : Int :=
  ((List.range 56).foldl (fun (a : Int × Int) i =>
    let p := a.1 * t / one256 * t / one256
    (p, a.2 + p / (2 * (i : Int) + 3))) (t, t)).2

/-- log2 of m × 2^e, m not zero and below 2^200, in fixed point. -/
def log2Fix (m : Nat) (e : Int) : Int :=
  let top := Nat.log2 m
  let f := m * 2 ^ (256 - top)
  let (f, n) : Nat × Int := if 3 * one256 ≤ 2 * f then (f / 2, e + top + 1) else (f, e + top)
  let t := ((f : Int) - one256) * one256 / ((f : Int) + one256)
  n * one256 + 2 * atanhFix t * one256 / ln2256

/-- sin z ÷ z for z² in fixed point, z at most π/2. -/
def sincFix (z2 : Nat) : Nat :=
  ((List.range 32).foldl (fun (a : Int × Int) i =>
    let t := -(a.1 * z2 / one256) / ((2 * (i : Int) + 2) * (2 * i + 3))
    (t, a.2 + t)) ((one256 : Int), (one256 : Int))).2.toNat

/-- A magnitude m × 2^e, a little more where `sticky`. -/
structure Mag where
  m : Nat
  e : Int
  sticky : Bool
deriving DecidableEq, Repr

/-- sin(π × m × 2^e) for an argument strictly between 0 and 1/2. -/
def sinMag (m : Nat) (e : Int) : Mag :=
  let z := m * pi256
  let z2 := if e ≤ -600 then 0 else (z * z) * 2 ^ (e + 600).toNat * 2 ^ (e + 600).toNat / 2 ^ 1200 / one256
  { m := z * sincFix z2, e := e - 512, sticky := true }

/-- 1 ÷ (m × 2^e). -/
def rcpMag (m : Nat) (e : Int) : Mag := { m := 2 ^ 160 / m, e := -160 - e, sticky := 2 ^ 160 % m != 0 }

/-- 1 ÷ √(m × 2^e). -/
def rsqMag (m : Nat) (e : Int) : Mag :=
  if m = 2 ^ Nat.log2 m ∧ ((Nat.log2 m : Int) + e) % 2 = 0 then { m := 1, e := -(((Nat.log2 m : Int) + e) / 2), sticky := false }
  else
    let (n, k) := if e % 2 = 0 then (m, e) else (2 * m, e - 1)
    { m := isqrt (2 ^ 240 / n), e := -120 - k / 2, sticky := true }

/-- √(m × 2^e). -/
def sqrtMag (m : Nat) (e : Int) : Mag :=
  let (r, k, x) := rootOf m e
  { m := r, e := k, sticky := x }

/-- tanh(m × 2^e) for an argument from 2^−12 to 9. -/
def tanhMag (m : Nat) (e : Int) : Mag :=
  let x := 2 * (m * 2 ^ (e + 256).toNat)
  let k := x / ln2256
  let y := expFix (x % ln2256) * 2 ^ k
  { m := (y - one256) * one256 / (y + one256), e := -256, sticky := true }

/-- R168: the bound of a result: so many units in the last place, an absolute one, or, of `exp2`, units in the last place and
an absolute one where the result is subnormal. -/
inductive Bound where
  | ulps (n : Nat)
  | ulpsOr (n : Nat) (e : Int)
  | absolute (m : Nat) (e : Int)
deriving DecidableEq, Repr

/-- What a special function gives for a source: a result that holds exactly, with the flags the manual names, or a value
to be delivered within a bound, under the key by which equal inputs give equal bits. -/
inductive SpecialOut where
  | exact (v : Exact) (fl : Fl)
  | approx (s : Bool) (v : Mag) (b : Bound) (key : Nat)
deriving DecidableEq, Repr

/-- The special functions, by FN. -/
inductive SpecialFn where
  | rcp | rsq | sqrta | exp2 | log2 | sin | tanh
deriving DecidableEq, Repr

def SpecialFn.code : SpecialFn → Nat
  | .rcp => 0 | .rsq => 1 | .sqrta => 2 | .exp2 => 3 | .log2 => 4 | .sin => 5 | .tanh => 8

/-- R168: the bound of a function in a format: a narrow format's is 1 ulp. -/
def boundOf (f : FFmt) (b : Bound) : Bound := if f = .f32 then b else .ulps 1

/-- Whether m × 2^e is at least n × 2^k. -/
def magLe (n : Nat) (k : Int) (m : Nat) (e : Int) : Bool :=
  let q := min k e
  decide (n * 2 ^ (k - q).toNat ≤ m * 2 ^ (e - q).toNat)

def zeroOut (s : Bool) : SpecialOut := .exact (.num s 0 0 false) flNone

/-- R168: `rcp`, `rsq`, `sqrta`, `exp2`, `log2` and `tanh`. `sqrta` of +∞, which R168 puts in no domain and gives no result, is
+∞ without a flag (log 71, DESIGN CHOICE); outside its domain `exp2` has its special result whatever SCALE is (log 67, DESIGN
CHOICE). -/
def specialOf (fn : SpecialFn) (f : FFmt) (x : Nat) : SpecialOut :=
  match fval f x with
  | .nan sg => .exact .nan (if sg then flNV else flNone)
  | .inf s => match fn with
    | .rcp => zeroOut s
    | .rsq => if s then .exact .nan flNV else zeroOut false
    | .sqrta | .log2 => if s then .exact .nan flNV else .exact (.inf false) flNone
    | .exp2 => if s then zeroOut false else .exact (.inf false) flNone
    | .tanh => .exact (.num s 1 0 false) flNone
    | .sin => .exact .nan flNV
  | .fin s m e => match fn with
    | .rcp => if m = 0 then .exact (.inf s) flDZ else .approx s (rcpMag m e) (boundOf f (.ulps 1)) x
    | .rsq => if m = 0 then .exact (.inf s) flDZ else if s then .exact .nan flNV
      else .approx false (rsqMag m e) (boundOf f (.ulps 2)) x
    | .sqrta => if m = 0 then zeroOut s else if s then .exact .nan flNV
      else .approx false (sqrtMag m e) (boundOf f (.ulps 2)) x
    | .exp2 =>
      if m = 0 then .exact (.num false 1 0 false) flNone
      else if !s && magLe 128 0 m e then .exact (.num false 1 5000 false) flNone
      else if s && !magLe m e 150 0 then .exact (.num false 0 0 false) (flUF ||| flNX)
      else
        let a := Int.ofNat (m * 2 ^ (e + 200).toNat)
        let v := (if s then -a else a) * 2 ^ 56
        let (y, n) := exp2Fix v
        if v % one256 = 0 then .approx false { m := 1, e := n, sticky := false } (boundOf f (.ulpsOr 2 (-149))) x
        else .approx false { m := y, e := n - 256, sticky := true } (boundOf f (.ulpsOr 2 (-149))) x
    | .log2 =>
      if m = 0 then .exact (.inf true) flDZ else if s then .exact .nan flNV
      else
        let top : Int := (Nat.log2 m : Int) + e
        if m = 2 ^ Nat.log2 m then
          (if top = 0 then zeroOut false
           else .approx (decide (top < 0)) { m := top.natAbs, e := 0, sticky := false } (boundOf f (.ulps 2)) x)
        else
          let y := log2Fix m e
          .approx (decide (y < 0)) { m := y.natAbs, e := -256, sticky := true }
            (boundOf f (if magLe 3 (-2) m e && magLe m e 3 (-1) then .absolute 1 (-23) else .ulps 2)) x
    | .tanh =>
      if m = 0 then zeroOut s
      else if magLe 9 0 m e then .exact (.num s 1 0 false) flNX
      else if !magLe 1 (-12) m e then .exact (.num s m e false) flNX
      else .approx s (tanhMag m e) (boundOf f (.ulps 2)) (magOf f x)
    | .sin => .exact .nan flNone

/-- R168, R169: sin(π u) for an exact u of sign s: u is brought to the interval from 0 to 1/2, and equal places of it give
equal bits. -/
def sinOut (f : FFmt) (s : Bool) (m : Nat) (e : Int) : SpecialOut :=
  if m = 0 ∨ 0 ≤ e then .exact (.num s 0 0 false) flNone
  else
    let d := (-e).toNat
    let r := m % 2 ^ (d + 1)
    let (t, r) : Bool × Nat := if 2 ^ d ≤ r then (!s, r - 2 ^ d) else (s, r)
    let r := if 2 ^ d < 2 * r then 2 ^ d - r else r
    if r = 0 then .exact (.num s 0 0 false) flNone
    else if 2 * r = 2 ^ d then .exact (.num t 1 0 false) flNone
    else .approx t (sinMag r e) (boundOf f (.absolute 3 (-25))) (r * 2 ^ (400 - d))

/-- R168: `sinpi`. -/
def sinpiOf (f : FFmt) (x : Nat) : SpecialOut :=
  match fval f x with
  | .nan sg => .exact .nan (if sg then flNV else flNone)
  | .inf _ => .exact .nan flNV
  | .fin s m e => sinOut f s m e

/-- R168, R169: `cospi`, as the sine of 1/2 − |a|; n + 0.5 gives +0. -/
def cospiOf (f : FFmt) (x : Nat) : SpecialOut :=
  match fval f x with
  | .nan sg => .exact .nan (if sg then flNV else flNone)
  | .inf _ => .exact .nan flNV
  | .fin _ m e =>
    let q := min e (-1)
    let u := (2 : Int) ^ (-1 - q).toNat - Int.ofNat (m * 2 ^ (e - q).toNat)
    match sinOut f (decide (u < 0)) u.natAbs q with
    | .exact (.num _ 0 _ _) fl => .exact (.num false 0 0 false) fl
    | o => o

/-- The magnitude |a − b| of two dyadic numbers, in units of 2^q. -/
def gapUnits (q : Int) (s : Bool) (m : Nat) (e : Int) (t : Bool) (n : Nat) (k : Int) : Nat :=
  let a := Int.ofNat (m * 2 ^ (e - q).toNat)
  let b := Int.ofNat (n * 2 ^ (k - q).toNat)
  ((if s then -a else a) - (if t then -b else b)).natAbs

/-- R168: whether delivered bits lie within a bound of the exact value : where that value is known by an enclosure alone,
by 2^−40 of the bound inside it (log 7). -/
def within (f : FFmt) (x : Nat) (s : Bool) (v : Mag) (b : Bound) (k : Int) : Bool :=
  match fval f x with
  | .fin t n j =>
    let ulp : Int := max ((Nat.log2 v.m : Int) + v.e) f.emin - f.mw
    let (bm, be) := match b with
      | .ulps c => (c, ulp)
      | .absolute c i => (c, i + k)
      | .ulpsOr c i => if magOf f x < 2 ^ f.mw then (1, i) else (c, ulp)
    let q := min (min v.e j) be
    decide (gapUnits q s v.m v.e t n j * 2 ^ 40 ≤ bm * (2 ^ 40 - (if v.sticky then 1 else 0)) * 2 ^ (be - q).toNat)
  | _ => false

/-- Whether delivered bits are the exact value. -/
def isExactly (f : FFmt) (x : Nat) (s : Bool) (v : Mag) : Bool :=
  !v.sticky && (match fval f x with
    | .fin t n j => gapUnits (min v.e j) s v.m v.e t n j == 0
    | _ => false)

/-- R168: a result delivered within its bound after SCALE, with its flags. -/
def deliverApprox (fn : SpecialFn) (f : FFmt) (sat : Bool) (k : Int) (s : Bool) (v : Mag) (b : Bound) (key : Nat) : Nat × Fl :=
  let w : Mag := { v with e := v.e + k }
  if overflows f .rne s w.m w.e w.sticky then (overflowTo f .rne sat s, flOF ||| flNX)
  else
    let c := Config.specialResult fn.code f.mw (key * 64 + (k + 32).toNat) % 2 ^ f.width
    let c := if s then (c + 2 ^ (f.width - 1)) % 2 ^ f.width else c
    let r := if within f c s w b k then c else (roundTo f .rne sat s w.m w.e w.sticky).1
    let inexact := !isExactly f r s w
    (r, (if inexact then flNX else flNone) ||| (if inexact && isTiny f .rne s w.m w.e w.sticky then flUF else flNone))

/-- R153, R168: an inexact special result (`tanh` of a small value, held exactly at its source) raises UF where it is
tiny, since its flags follow R152 to R154 in every case (log 7). -/
def tinySpecial (f : FFmt) (m : Option Modifier) (v : Exact) (fl : Fl) : Fl :=
  match v with
  | .num s n e x => if fl &&& flNX != flNone && isTiny f .rne s n (e + scaleOf m) x then flUF else flNone
  | _ => flNone

/-- R168: a special function's delivered bits under the modifier steps of R77. -/
def finishSpecial (fn : SpecialFn) (f : FFmt) (m : Option Modifier) (o : SpecialOut) : Nat × Fl :=
  match o with
  | .exact v fl =>
    let (x, gl) := finishFloat f m .rne v
    (x, fl ||| gl ||| tinySpecial f m v fl)
  | .approx s v b key =>
    let sat := match m with
      | some w => w.sat
      | none => false
    let (x, fl) := deliverApprox fn f sat (scaleOf m) s v b key
    let y := match m with
      | some w => floatClamp f w.clamp x
      | none => x
    (y, if !(fval f x).isNan && valueKey f x != valueKey f y then fl ||| flNX else fl)

/-- R157: latency and unit occupancy of a special function. -/
def latSF (f : Form) : Nat := if f.packed then 20 else 18
def sfOcc (wide : Bool) : Occupancy := { sfu := if wide then 4 else 2 }

/-- R168: a special function with one result. -/
def specialOp (fn : SpecialFn) (of_ : FFmt → Nat → SpecialOut) (s : Iss) : Work :=
  let t := s.f.ty
  s.floatOp [[t]] (latSF s.f) (sfOcc s.f.packed) [t] (fun s _ xs =>
    let (x, fl) := elementwise 1 (fun f es => finishSpecial fn f s.f.modw (of_ f (es.getD 0 0))) s xs
    ([(x, t)], fl))

def execRcp (f : Form) (st : State) : Host.Outcome State Fault Refusal := st.issue (.rcp f) (specialOp .rcp (specialOf .rcp))
def execRsq (f : Form) (st : State) : Host.Outcome State Fault Refusal := st.issue (.rsq f) (specialOp .rsq (specialOf .rsq))
def execSqrta (f : Form) (st : State) : Host.Outcome State Fault Refusal :=
  st.issue (.sqrta f) (specialOp .sqrta (specialOf .sqrta))
def execExp2 (f : Form) (st : State) : Host.Outcome State Fault Refusal :=
  st.issue (.exp2 f) (specialOp .exp2 (specialOf .exp2))
def execLog2 (f : Form) (st : State) : Host.Outcome State Fault Refusal :=
  st.issue (.log2 f) (specialOp .log2 (specialOf .log2))
def execSinpi (f : Form) (st : State) : Host.Outcome State Fault Refusal := st.issue (.sinpi f) (specialOp .sin sinpiOf)
def execCospi (f : Form) (st : State) : Host.Outcome State Fault Refusal := st.issue (.cospi f) (specialOp .sin cospiOf)
def execTanh (f : Form) (st : State) : Host.Outcome State Fault Refusal :=
  st.issue (.tanh f) (specialOp .tanh (specialOf .tanh))

/-- R169: sinpi(a), then cospi(a), as the separate forms deliver them. -/
def sincospiOp (s : Iss) : Work :=
  let t := s.f.ty
  s.floatOp [[t]] 20 (sfOcc true) [t, t] (fun s _ xs =>
    let one (of_ : FFmt → Nat → SpecialOut) : Word × Fl :=
      elementwise 1 (fun f es => finishSpecial .sin f s.f.modw (of_ f (es.getD 0 0))) s xs
    ([((one sinpiOf).1, t), ((one cospiOf).1, t)], (one sinpiOf).2 ||| (one cospiOf).2))

def execSincospi (f : Form) (st : State) : Host.Outcome State Fault Refusal := st.issue (.sincospi f) sincospiOp

end Sys2Proof.Machine
end

