-- ==== Sys2Proof/Machine/Lifetime.lean ====
section
/-! DEFINITION. The lives of splits, waves and tasks: the split table and the spilled splits (spec/02 R33 to R35, R375), the
exit of a wave (R224), and the end of a task (R37). -/

namespace Sys2Proof.Machine

/-! ## The split table -/

/-- The loaded splits of a wave. -/
def Wave.loaded (v : Wave) : Nat := (v.splits.filter Split.loaded).length

/-- The resident waves of a scheduler of a core. -/
def schedWaves (d : Dev) (core sched : Nat) : List Wave :=
  d.waves.filter (fun v => v.sched == sched && d.coreOf v == core && !v.freed)

/-- R33: the shared entries a wave's splits use: all loaded ones but one. -/
def Wave.shared (v : Wave) : Nat := v.loaded - 1

/-- R33: the shared entries in use. -/
def sharedUsed (d : Dev) (core sched : Nat) : Nat := ((schedWaves d core sched).map Wave.shared).sum

/-- R34, R60: the shared entries that a change of a wave's splits in a cc freed, for a `brs` of the wave in that cc. -/
def Wave.noteFreed (v : Wave) (old : Wave) (cc : Nat) : Wave :=
  if old.shared ≤ v.shared then v
  else { v with freedAt := (cc, (if v.freedAt.1 == cc then v.freedAt.2 else 0) + (old.shared - v.shared)) }

/-- R33: whether a wave may hold one more loaded split. -/
def entryFree (d : Dev) (v : Wave) : Bool := v.loaded == 0 || decide (sharedUsed d (d.coreOf v) v.sched < 18)

/-- R376: the record after one, in the ring of records 1 to 31. -/
def nextRecord (i : Nat) : Nat := i % 31 + 1

/-- R34: the earliest-spilled split of a wave loaded. -/
def Wave.loadNext (v : Wave) (cc : Nat) : Wave :=
  match v.spilled with
  | [] => v
  | n :: t => { v.updSplit n (fun p => { p with loaded := true, loadedAt := cc, ageing := 0 }) with
    spilled := t, spillHead := nextRecord v.spillHead, spillCount := if t.isEmpty then 0 else v.spillCount, swapDue := v.swapDue && !t.isEmpty }

/-- R55: the age order of waves: by when they became resident, then by logical wave number, also where two waves became
resident in one cc by two placements (log 57, DESIGN CHOICE). -/
def Wave.ageKey (v : Wave) : Nat := v.residentAt * 65536 + v.n

/-- R34, R35: splits of a wave gone from its spilled stack; where it empties, the count of its swap period ends. -/
def Wave.unspill (v : Wave) (gone : List Nat) : Wave :=
  let left := v.spilled.filter (fun m => !gone.contains m)
  { v with spilled := left, spillCount := if left.isEmpty then 0 else v.spillCount, swapDue := v.swapDue && !left.isEmpty }

/-- R60: where an entry of a wave frees in the cc in which a `brs` of the same wave spilled its new split, that split is loaded
after all. -/
def Wave.loadNew (v : Wave) (d : Dev) : Wave :=
  match v.splits.find? (fun p => !p.loaded && p.loadedAt == d.cc && v.spilled.contains p.num) with
  | some p => if entryFree { d with waves := updWhere (fun u => u.uid == v.uid) (fun _ => v) d.waves } v then
      { (v.updSplit p.num (fun p => { p with loaded := true })).unspill [p.num] with freedAt := (v.freedAt.1, v.freedAt.2 - 1) } else v
  | none => v

/-- R34: free entries go to the oldest waves with spilled splits. `fuel` bounds the loads by the number of splits. -/
def fillTable : Nat → Dev → Nat → Nat → Dev
  | 0, d, _, _ => d
  | fuel + 1, d, core, sched =>
    match sortBy Wave.ageKey ((schedWaves d core sched).filter (fun v => !v.spilled.isEmpty && entryFree d v)) with
    | [] => d
    | v :: _ => fillTable fuel (d.updWave v.uid (fun v => v.loadNext d.cc)) core sched

/-- R34, R60: the entries that freed in a cc go to spilled splits once every `brs` of the cc has taken its own. -/
def fillTables (d : Dev) : Dev :=
  (distinct ((d.waves.filter (fun v => !v.spilled.isEmpty && !v.freed)).map (fun v => d.coreOf v * 8 + v.sched))).foldl
    (fun d i => fillTable 32 d (i / 8) (i % 8)) d

/-- R375: the lowest free split number. -/
def Wave.freeNumber (v : Wave) : Nat :=
  ((List.range 32).find? (fun n => v.splits.all (fun p => p.num != n))).getD 32

/-- R34, R60: whether a new split of a wave finds an entry: its reserved one, or a free shared one. Of those that freed in this cc,
the ones its own splits freed are its own, and of the others as many as there are spilled records on the scheduler go to these. -/
def roomForNew (d : Dev) (v : Wave) : Bool :=
  let core := d.coreOf v
  let free := 18 - sharedUsed d core v.sched
  let own := if v.freedAt.1 = d.cc then v.freedAt.2 else 0
  let claimed := ((schedWaves d core v.sched).map (fun u => u.spilled.length)).sum
  v.loaded == 0 || decide (min (free - own) claimed < free)

/-- R33, R34, R207: a split created by another: loaded where an entry is free for it, else spilled. -/
def Wave.addSplit (v : Wave) (d : Dev) (from_ : Split) (pc : VAddr) (mask : LaneMask) : Wave :=
  let n := v.freeNumber
  let room := roomForNew { d with waves := updWhere (fun u => u.uid == v.uid) (fun _ => v) d.waves } v
  let p : Split := { Split.first pc mask with
    num := n, created := v.created, marks := from_.marks, depth := from_.depth, loaded := room, loadedAt := d.cc,
    readyAt := from_.readyAt }
  { v with
    created := v.created + 1
    freedAt := (v.freedAt.1, v.freedAt.2 - (if room then 1 else 0))
    splits := v.splits ++ [p]
    spilled := if room then v.spilled else v.spilled ++ [n]
    spillHead := if room then v.spillHead else max 1 v.spillHead }

/-! ## Marks (R208) -/

/-- R208: whether an identifier is live on a wave. -/
def Wave.markLive (v : Wave) (id : Nat) : Bool := v.splits.any (fun p => p.marks.any (fun m => m.id == id))

/-- R208: the first identifier from `id` on that is not live. -/
def freeMark (v : Wave) (id : Nat) : Nat :=
  (((List.range 256).map (fun i => (id + i) % 256)).find? (fun i => !v.markLive i)).getD id

/-- R208: a mark pushed on a split of a wave; the counter goes on to the next identifier that is not live. -/
def pushMark (v : Wave) (p : Split) : Wave × Split :=
  let id := v.markCounter
  let p := { p with marks := { id, depth := p.depth, count := 0 } :: p.marks }
  ({ v with markCounter := freeMark (v.updSplit p.num (fun _ => p)) ((id + 1) % 256) }, p)

/-! ## The end of a task (R37) -/

/-- The linear cores of a task's rectangle. -/
def taskCores (d : Dev) (t : Task) : List Nat :=
  match d.launch t.ctx t.launchId with
  | none => []
  | some l => (List.range l.h).flatMap (fun y => (List.range l.w).flatMap (fun x =>
      (List.range 4).map (fun c => t.pos x y * 4 + c)))

/-- R37: a task whose waves have all exited and completed, and for which no message waits, ends: its cores commit, and what
it held is free. -/
def tryEndTask (w : Work) (task : Nat) : Work :=
  match w.d.task task with
  | none => w
  | some t =>
    let live := (t.state == .resident || t.state == .saving || t.state == .restoring) && !t.trapped
    let all := w.d.waves.all (fun v => v.task != task || v.freed)
    let quiet := w.d.cores.all (fun c => c.messages.all (fun m => m.task != task)) &&
      w.d.msgReqs.all (fun r => r.msg.task != task)
    if live && all && quiet then
      let (w, cs) := (taskCores w.d t).foldl (fun (a : Work × List (Nat × Nat)) core =>
        let (w, n) := endCommit a.1 core
        (w, a.2 ++ [(core, n)])) (w, [])
      w.upd (fun d => (releaseTask d t).updTask task (fun t => { t with state := .ended, committing := cs, image := none }))
    else w

/-! ## The exit of a wave (R224) -/

/-- Whether every operation of a wave is complete. -/
def waveQuiet (d : Dev) (v : Wave) : Bool :=
  v.recs.isEmpty && v.slots.isEmpty &&
  d.quads.all (fun q => q.engines.all (fun e => e.chains.all (fun c => c.wave != v.uid)))

/-- R224, R342, R397: an exited wave whose operations are complete is freed: its stall record is written, a handler wave
leaves its handler slot, and its task may end. -/
def tryFree (w : Work) (u : Nat) : Work :=
  match w.d.wave u with
  | none => w
  | some v =>
    if v.exited && !v.freed && waveQuiet w.d v then
      let w := stallRecord w v false
      let core := w.d.coreOf v
      let w := w.upd (fun d => match v.handler with
        | some h => { d.updCore core (fun c => { c with
            handlerSeq := (v.ctx, h.slot, v.recSeq) :: c.handlerSeq.filter (fun e => !(e.1 == v.ctx && e.2.1 == h.slot)) }) with
            waves := d.waves.filter (fun x => x.uid != u) }
        | none => d.updWave u (fun v => { v with freed := true, tiles := [] }))
      tryEndTask w v.task
    else w

/-- R30: the index of a wave among the matrix waves of its core, which come first. -/
def Wave.mIndex (v : Wave) : Nat := v.j

/-- The place of a core in `Task.cores`. -/
def Dev.taskCoreIndex (d : Dev) (v : Wave) : Nat := d.quadIndex v v.x v.y * 4 + v.core

/-- What a task holds on the core of a wave. -/
def Dev.taskCore (d : Dev) (v : Wave) : TaskCore :=
  match d.task v.task with
  | some t => t.cores.getD (d.taskCoreIndex v) { gang := 0, latch := [], nbr := [] }
  | none => { gang := 0, latch := [], nbr := [] }

/-- The same changed. -/
def Dev.updTaskCore (d : Dev) (v : Wave) (f : TaskCore → TaskCore) : Dev :=
  d.updTask v.task (fun t => { t with cores := updAt t.cores (d.taskCoreIndex v) f })

/-- A trap of an operation slot of a wave. -/
def slotTrap (v : Wave) (o : OpSlot) (code addr : Nat) : Trap := lateTrap v o.split code o.pc 0 addr 0 0

/-- R195: the members waiting in the latch whose gang names an exited wave raise PROT. -/
def gangExit (d : Dev) (v : Wave) : Dev :=
  (d.taskCore v).latch.foldl (fun d a =>
    if a.wave != v.uid && a.set.testBit v.mIndex then
      match d.wave a.wave with
      | some u => match u.slots.find? (fun o => o.order == a.order) with
        | some o => raise d (slotTrap u o tProt 0)
        | none => d
      | none => d
    else d) d

/-- Whether a record entry is a load, whose data an exiting wave no longer wants. -/
def Rec.isLoad (r : Rec) : Bool := match r.op with
  | .load _ _ _ => true
  | _ => false

/-- R224, R373, R431: the last lane of a wave has left; the groups it is a member of are broken, and a home-side match it has not
taken is posted. -/
def waveExits (w : Work) (u : Nat) : Work :=
  match w.d.wave u with
  | none => w
  | some v =>
    let w := match v.homeWatch with
      | some (writer, a) => watchMissed w v.ctx v.launchId v.taskIndex writer a
      | none => w
    let w := w.upd (fun d => d.updWave u (fun v => { v with
      homeWatch := none, exited := true, splits := [], spilled := [], spillCount := 0, swapDue := false,
      recs := v.recs.filter (fun r => !r.isLoad) }))
    let w := w.upd (fun d => if v.role == .m then gangExit d v else d)
    let w := w.upd (fun d => if v.handler.isNone then breakGroups d v.ctx v.launchId [v.n] else d)
    tryFree w u

end Sys2Proof.Machine
end

