-- ==== Sys2Proof/Machine/Control.lean ====
section
/-! DEFINITION. Majors 0x80 and 0x81: control flow (spec/08 R207 to R229), with the queue changes of calls and returns
(spec/04 R97 to R99). -/

namespace Sys2Proof.Machine

/-! ## Targets and branches -/

/-- R210: a target: the base word's address and a signed offset in words, modulo 2^57. -/
def targetOf (pc : VAddr) (f : Form) : VAddr :=
  pc + BitVec.ofInt 57 (8 * (match f.imm with
    | some w => sbits w 0 32
    | none => sbits f.x13 0 13))

/-- R211: whether a guard is the unguarded encoding. -/
def unguarded (f : Form) : Bool := f.guard == { inv := false, p := 7 }

/-- R211: `bra`. -/
def braOp (s : Iss) : Work :=
  s.guardGate (fun s =>
    if unguarded s.f || !s.active.isEmpty then s.goto (targetOf s.p.pc s.f) 4 {} else s.done)

def execBra (f : Form) (st : State) : Host.Outcome State Fault Refusal := st.issue (.bra f) braOp

/-- R208: an instruction that pushes a mark: a ninth mark raises REJOIN. -/
def Iss.marked (s : Iss) (k : Iss → Work) : Work :=
  if 8 ≤ s.p.marks.length then s.trap tRejoin 0
  else
    let (v, p) := pushMark s.v s.p
    k { s with v, p }

/-- R212: `brs`: where some lanes are taken and some not, the taken ones become a new split at the target. -/
def brsOp (s : Iss) : Work :=
  s.guardGate (fun s => s.marked (fun s =>
    let taken := maskOf s.active
    let rest := s.p.emask &&& ~~~taken
    let target := targetOf s.p.pc s.f
    if taken = 0 then s.done
    else if rest = 0 then s.goto target 4 {}
    else
      let v := s.v.addSplit s.w.d { s.p with readyAt := s.cc + 4 } target taken
      ({ s with v, p := { s.p with emask := rest, home := s.p.home &&& ~~~taken } } : Iss).done))

def execBrs (f : Form) (st : State) : Host.Outcome State Fault Refusal := st.issue (.brs f) brsOp

/-- R213: fN − 1 in 32 bits. -/
def decrement (x : Word) : Word := (x.setWidth 32 - 1).setWidth 64

/-- R213: `loop`. -/
def loopOp (s : Iss) : Work :=
  s.gated s.active [[.i32, .n32]] (fun s =>
    let act := s.active
    let again := act.any (fun l => decrement (opnd (s.vals l) 0) != 0)
    let s := s.deliver act [] (fun l =>
      [{ val := decrement (opnd (s.vals l) 0), tag := opndTag (s.vals l) 0, pend := .clear }])
    if again then s.goto (targetOf s.p.pc s.f) 4 {} else s.done)

def execLoop (f : Form) (st : State) : Host.Outcome State Fault Refusal := st.issue (.loop f) loopOp

/-! ## Rejoin (R214 to R217) -/

/-- R214: the layout entry a count names. -/
def layoutFor (w : Option Word) (c : Int) : Option Layout :=
  match w with
  | some w => (layouts w).find? (fun l => (l.key : Int) == c)
  | none => none

/-- R216: a lane's queue permuted at a rejoin: n selected entries, then those older than the mark. -/
def permuteQueue (n c : Nat) (sel : List Nat) (q : List Entry) : List Entry :=
  let picked := (List.range n).map (fun k => match sel.getD k 0 with
    | 0 => { val := 0, tag := .i32, pend := .clear }
    | a => q.getD (a - 1) Entry.empty)
  let old := (q.drop c).take (16 - n)
  picked ++ old ++ List.replicate (16 - n - old.length) Entry.empty

/-- R214: the splits of a wave that hold a mark anywhere. -/
def holders (v : Wave) (id : Nat) : List Split := v.splits.filter (fun p => p.marks.any (fun m => m.id == id))

/-- The identifier of a split's top mark. -/
def topMark (p : Split) : Option Nat := p.marks.head?.map Mark.id

/-- The push count of a split's top mark. -/
def topCount (p : Split) : Int := (p.marks.head?.map Mark.count).getD 0

/-- R215: whether every split with a mark has arrived at a rejoin of it. -/
def allArrived (v : Wave) (id : Nat) : Bool := (holders v id).all (fun p => p.arrived && topMark p == some id)

/-- R216: whether a permuted split still waits for an age its layout names. -/
def permuteWaits (cc : Nat) (v : Wave) (p : Split) : Bool :=
  topCount p != p.rejoinN && (match layoutFor p.rejoinLayout (topCount p) with
    | some e => (lanesOf p.home).any (fun l => e.sel.any (fun a =>
        a != 0 && ((v.lane l).q.getD (a - 1) Entry.empty).pending cc))
    | none => false)

/-- R216: a split permuted, where its count differs from n. -/
def permuteSplit (v : Wave) (p : Split) : Wave :=
  if topCount p = p.rejoinN then v
  else match layoutFor p.rejoinLayout (topCount p) with
    | some e => { v with
        lanes := (enum v.lanes).map (fun il => if inMask p.home il.1 then
          { il.2 with q := permuteQueue p.rejoinN e.key e.sel il.2.q } else il.2) }
    | none => v

/-- The oldest of some splits. -/
def oldest (ps : List Split) : Option Split := (sortBy Split.created ps).head?

/-- R215: the arrived splits with a mark fused. -/
def fuse (v : Wave) (cc id : Nat) : Wave :=
  let ps := holders v id
  match oldest ps with
  | none => v
  | some o =>
    let moved := ps.filter (fun p => topCount p != p.rejoinN)
    let v := ps.foldl permuteSplit v
    let n := o.rejoinN
    let words : Nat := if o.rejoinLayout.isSome then 2 else 1
    let p := addCount { o with
      emask := ps.foldl (fun m p => m ||| p.emask) 0
      home := ps.foldl (fun m p => m ||| p.home) 0
      marks := o.marks.drop 1
      arrived := false, rejoinAt := 0, rejoinN := 0, rejoinLayout := none
      pc := o.rejoinAt + BitVec.ofNat 57 (8 * words)
      ageing := 0, wait := none, readyAt := cc + 3 + 2 * moved.length } n
    let gone := (ps.filter (fun q => q.num != o.num)).map Split.num
    Wave.unspill { v with
      splits := (updWhere (fun q => q.num == o.num) (fun _ => p) v.splits).filter (fun q => !gone.contains q.num) } gone

/-- R214, R215: the rejoins of a wave that can complete do. `fuel` bounds the fusions by the number of marks. -/
def tryFuse : Nat → Wave → Nat → Wave
  | 0, v, _ => v
  | fuel + 1, v, cc =>
    let ready := v.splits.find? (fun p => p.arrived && (match topMark p with
      | some id => allArrived v id && !(holders v id).any (permuteWaits cc v)
      | none => false))
    match ready.bind topMark with
    | some id => tryFuse fuel (fuse v cc id) cc
    | none => v

/-- The fusions of a wave, and the entries they free (R60). -/
def fuseWave (d : Dev) (u : Nat) : Dev :=
  match d.wave u with
  | none => d
  | some v =>
    let v' := tryFuse 9 v d.cc
    d.updWave u (fun _ => if v'.splits.length < v.splits.length then (v'.noteFreed v d.cc).loadNew d else v')

/-- R214: whether a sibling waits at a rejoin of the same mark at another address. -/
def rejoinElsewhere (s : Iss) (id : Nat) : Bool :=
  s.v.splits.any (fun q => q.num != s.p.num && q.arrived && topMark q == some id && q.rejoinAt != s.p.pc)

/-- R214: `rejoin`. -/
def rejoinOp (s : Iss) : Work :=
  match s.p.marks with
  | [] => s.trap tRejoin 0
  | m :: _ =>
    let ok := m.depth == s.p.depth && (m.count == (s.f.n : Int) || (layoutFor s.f.imm m.count).isSome)
    if !ok || rejoinElsewhere s m.id then s.trap tRejoin 0
    else
      let s := { s with p := { s.p with arrived := true, rejoinAt := s.p.pc, rejoinN := s.f.n, rejoinLayout := s.f.imm } }
      let w := s.goto s.p.pc 1 {}
      w.upd (fun d => fuseWave (d.updWave s.v.uid (fun v => v.updSplit s.p.num (fun p =>
        if p.trapped then p else { p with wait := some 5 }))) s.v.uid)

def execRejoin (f : Form) (st : State) : Host.Outcome State Fault Refusal := st.issue (.rejoin f) rejoinOp

/-! ## Groups of lanes by target (R218) -/

/-- R218: the lanes grouped by value, in order of their lowest lanes. -/
def groupLanes (xs : List (Nat × Word)) : List (Word × LaneMask) :=
  xs.foldl (fun gs x =>
    if gs.any (fun g => g.1 == x.2) then
      gs.map (fun g => if g.1 == x.2 then (g.1, g.2 ||| maskOf [x.1]) else g)
    else gs ++ [(x.2, maskOf [x.1])]) []

/-- The target of every active lane. -/
def Iss.targets (s : Iss) : List (Nat × Word) := s.active.map (fun l => (l, opnd (s.vals l) 0))

/-- R84: the active lanes whose target is no multiple of 8. -/
def crooked (xs : List (Nat × Word)) : List Nat := (xs.filter (fun x => bits x.2 0 3 != 0)).map Prod.fst

/-- An address of a pointer's value. -/
def addrOf (x : Word) : VAddr := x.setWidth 57

/-- R218: `jmpi`. ALIGN comes before the REJOIN of a ninth mark (log 27, DEDUCED). -/
def jmpiOp (s : Iss) : Work :=
  s.gated s.active [[.ptr]] (fun s =>
    let ts := s.targets
    let bad := crooked ts
    if !bad.isEmpty then s.trap tAlign (maskOf bad)
    else s.marked (fun s =>
      let s := s.pop
      match groupLanes ts with
      | [] => s.done
      | g :: gs =>
        let v := (enum gs).foldl (fun v ig =>
          v.addSplit s.w.d { s.p with readyAt := s.cc + 7 + ig.1 } (addrOf ig.2.1) ig.2.2) s.v
        let others := gs.foldl (fun m h => m ||| h.2) 0
        ({ s with v, p := { s.p with emask := g.2, home := s.p.home &&& ~~~others } } : Iss).goto (addrOf g.1) 6 {}))

def execJmpi (f : Form) (st : State) : Host.Outcome State Fault Refusal := st.issue (.jmpi f) jmpiOp

/-! ## Calls and returns (R97, R99, R219 to R221) -/

/-- R97, R99: whether one of the n youngest entries of a lane is pending. -/
def argPending (cc n : Nat) (v : Wave) (home : LaneMask) : Bool :=
  (lanesOf home).any (fun l => ((v.lane l).q.take n).any (fun e => e.pending cc))

/-- R97: the call waits for the level that leaves the shadow. -/
def shadowPending (cc : Nat) (v : Wave) : Bool :=
  match v.levels.drop 1 with
  | l :: _ => l.queues.any (fun q => q.any (fun e => e.pending cc))
  | [] => false

/-- R97: the queues of some lanes, to be kept as a caller level. -/
def savedQueues (v : Wave) (home : LaneMask) : List (List Entry) :=
  (List.range 32).map (fun l => if inMask home l then (v.lane l).q else [])

/-- R97: the queue a callee opens with. -/
def calleeQueue (n : Nat) (q : List Entry) : List Entry := q.take n ++ List.replicate (16 - (q.take n).length) Entry.empty

/-- R97: the lanes of a home set take a callee queue. -/
def openQueues (v : Wave) (home : LaneMask) (n : Nat) : Wave :=
  { v with
    lanes := (enum v.lanes).map (fun il => if inMask home il.1 then { il.2 with q := calleeQueue n il.2.q } else il.2) }

/-- R97: a level pushed and the callee's queue opened. -/
def enterLevel (v : Wave) (l : CallLevel) (home : LaneMask) (n : Nat) : Wave :=
  { openQueues v home n with levels := l :: v.levels, depth := v.depth + 1 }

/-- R229: the delay of a call or return, with 64 cc where a shadow level moves. -/
def callDelay (moves : Bool) : Nat := if moves then 70 else 6

/-- R97, R221: the conditions of a call: the split at the wave's depth, its arguments there, a level to spare. -/
def Iss.callGate (s : Iss) (n : Nat) (k : Iss → Work) : Work :=
  if s.p.depth != s.v.depth then s.wait 5
  else if argPending s.cc n s.v s.p.home then s.wait 1
  else if s.v.depth = 64 then s.trap tCalldepth 0
  else if shadowPending s.cc s.v then s.wait 1
  else k s

/-- R220: `call`. -/
def callOp (s : Iss) : Work :=
  s.callGate s.f.n (fun s =>
    let n := s.f.n
    let l : CallLevel := {
      queues := savedQueues s.v s.p.home, retPc := s.next, emask := s.p.emask, home := s.p.home,
      marks := s.p.marks.length, n, m := none, rem := 0, targets := [], done := 0 }
    let moves := decide (2 ≤ s.v.depth)
    ({ s with v := enterLevel s.v l s.p.home n, p := { s.p with depth := s.p.depth + 1 } } : Iss).goto
      (targetOf s.p.pc s.f) (callDelay moves) {})

def execCall (f : Form) (st : State) : Host.Outcome State Fault Refusal := st.issue (.call f) callOp

/-- R219: the next group of a remainder: the lanes that share the target of its lowest lane. -/
def nextGroup (l : CallLevel) : LaneMask × VAddr :=
  match lanesOf l.rem with
  | [] => (0, 0)
  | a :: t =>
    let x := l.targets.getD a 0
    (maskOf (a :: t.filter (fun b => l.targets.getD b 0 == x)), x)

/-- R219: the next group of a `calli` calls: its lanes alone make up the split. -/
def callGroup (v : Wave) (p : Split) (l : CallLevel) : Wave × Split :=
  let (g, x) := nextGroup l
  let l := { l with queues := savedQueues v g, rem := l.rem &&& ~~~g }
  let marks := match p.marks with
    | m :: ms => { m with count := 0 } :: ms
    | [] => []
  (enterLevel v l g l.n,
    { p with home := g, emask := g, marks, depth := p.depth + 1, calliRem := l.rem, pc := x })

/-- R219: the end of a `calli`, when no group remains: the lanes fuse as by `rejoin #m` on its mark. The remainder of
the split is then 0; that of a `calli` around it stays in its level (log 97, DESIGN CHOICE). -/
def endCalli (p : Split) (l : CallLevel) (home : LaneMask) : Split :=
  addCount { p with home, emask := l.emask &&& home, marks := p.marks.drop 1, calliRem := 0, pc := l.retPc } (l.m.getD 0)

/-- R219: `calli` with no active lane: m zero entries pushed in every lane of the home set. -/
def emptyCalli (v : Wave) (p : Split) (m : Nat) : Wave × Split :=
  let zeros := List.replicate m ({ val := 0, tag := .i32, pend := .clear } : Entry)
  ({ v with
      lanes := (enum v.lanes).map (fun il =>
      if inMask p.home il.1 then { il.2 with q := pushAll il.2.q zeros } else il.2) },
    addCount { p with marks := p.marks.drop 1 } m)

/-- R219: `calli`. ALIGN comes before CALLDEPTH and its waits, and these before the REJOIN of a ninth mark (log 27, DEDUCED). -/
def calliOp (s : Iss) : Work :=
  if s.p.depth != s.v.depth then s.wait 5
  else s.gated s.active [[.ptr]] (fun s =>
    let ts := s.targets
    let bad := crooked ts
    if !bad.isEmpty then s.trap tAlign (maskOf bad)
    else match groupLanes ts with
      | [] => s.marked (fun s =>
          let (v, p) := emptyCalli s.v s.p s.f.m
          ({ s with v, p } : Iss).done)
      | g :: gs => s.callGate s.f.n (fun s => s.marked (fun s =>
          let s := s.pop
          let rem := gs.foldl (fun m h => m ||| h.2) 0
          let home := s.p.home &&& ~~~rem
          let l : CallLevel := {
            queues := savedQueues s.v home, retPc := s.next, emask := s.p.emask, home := s.p.home,
            marks := s.p.marks.length, n := s.f.n, m := some s.f.m, rem,
            targets := (List.range 32).map (fun k => ((ts.find? (fun x => x.1 == k)).map (fun x => addrOf x.2)).getD 0),
            done := 0 }
          let moves := decide (2 ≤ s.v.depth)
          ({ s with
              v := enterLevel s.v l home s.f.n
              p := { s.p with depth := s.p.depth + 1, home, emask := g.2, calliRem := rem } } : Iss).goto
            (addrOf g.1) (callDelay moves) {})))

def execCalli (f : Form) (st : State) : Host.Outcome State Fault Refusal := st.issue (.calli f) calliOp

/-- R99: the caller queues restored in the lanes of a home set, with n callee results pushed. -/
def restoreQueues (v : Wave) (l : CallLevel) (home : LaneMask) (n : Nat) : Wave :=
  { v with
    lanes := (enum v.lanes).map (fun il => if inMask home il.1 then
      { il.2 with q := pushAll (l.queues.getD il.1 []) (il.2.q.take n).reverse } else il.2) }

/-- R99, R219, R220: what a `ret` leaves: in a `calli` with lanes remaining, the next group's call. -/
def returnTo (v : Wave) (p : Split) (l : CallLevel) (n : Nat) : Wave × Split :=
  let v := { restoreQueues v l p.home n with levels := v.levels.drop 1, depth := v.depth - 1 }
  let p := { p with depth := p.depth - 1 }
  match l.m with
  | none => (v, addCount { p with emask := l.emask &&& p.home, pc := l.retPc } n)
  | some _ =>
    let l := { l with done := l.done ||| p.home }
    if l.rem = 0 then (v, endCalli p l l.done) else callGroup v p l

/-- R219: a `ret` to a `calli` whose next group has an argument pending waits for it (log 20). -/
def nextArgsPending (cc : Nat) (v : Wave) (l : CallLevel) : Bool :=
  l.m.isSome && argPending cc l.n v (nextGroup l).1

/-- R99, R220: `ret`. -/
def retOp (s : Iss) : Work :=
  if s.p.depth != s.v.depth then s.wait 5
  else if s.p.marks.any (fun m => m.depth == s.p.depth) then s.trap tRejoin 0
  else match s.v.levels with
    | [] => s.trap tCalldepth 0
    | l :: _ =>
      if argPending s.cc s.f.n s.v s.p.home then s.wait 1
      else if l.m.isSome && l.m != some s.f.n then s.trap tRejoin 0
      else if l.retPc.toNat % 8 ≠ 0 then s.trap tAlign 0
      else if nextArgsPending s.cc s.v l then s.wait 1
      else
        let moves := decide (3 ≤ s.v.depth)
        let (v, p) := returnTo s.v s.p l s.f.n
        ({ s with v, p } : Iss).goto p.pc (callDelay moves) {}

def execRet (f : Form) (st : State) : Host.Outcome State Fault Refusal := st.issue (.ret f) retOp

/-! ## Exit (R224) -/

/-- R219: the innermost `calli` a split runs under that no other split shares: how many levels stand above it, and it. -/
def ownCalli (v : Wave) (p : Split) : Option (Nat × CallLevel) :=
  (enum v.levels).find? (fun il => il.2.m.isSome && decide (v.levels.length ≤ p.depth + il.1) &&
    (match (p.marks.drop (p.marks.length - il.2.marks)).head? with
     | some m => (holders v m.id).all (fun q => q.num == p.num)
     | none => false))

/-- R219, R224: the split of an exited group goes on with the remainder of its `calli`, or with the groups that have
returned (log 20). -/
def exitInCalli (v : Wave) (p : Split) (above : Nat) (l : CallLevel) : Wave × Split :=
  let v := { v with levels := v.levels.drop (above + 1), depth := v.levels.length - above - 1 }
  let p := { p with depth := v.depth, marks := p.marks.drop (p.marks.length - l.marks) }
  if l.rem = 0 then
    let q := endCalli p l l.done
    (v.updSplit p.num (fun _ => q), q)
  else
    let (v, q) := callGroup v p l
    (v.updSplit p.num (fun _ => q), q)

/-- R214, R224: a split freed; its entry goes to a spilled one, and its siblings no longer await it. The call depth and the saved
levels of the wave stay as they are (log 96, DESIGN CHOICE). -/
def freeSplit (w : Work) (u n : Nat) : Work :=
  let w := w.upd (fun d => d.updWave u (fun v =>
    ((Wave.unspill { v with splits := v.splits.filter (fun q => q.num != n) } [n]).noteFreed v d.cc).loadNew d))
  let w := w.upd (fun d => fuseWave d u)
  match w.d.wave u with
  | some v => if v.splits.isEmpty then waveExits w u else w
  | none => w

/-- R224: what follows when a split's home set is empty. -/
def splitExits (w : Work) (u n : Nat) : Work :=
  match w.d.wave u with
  | none => w
  | some v => match v.split n with
    | none => w
    | some p => match ownCalli v p with
      | some (above, l) =>
        if l.rem = 0 ∧ l.done = 0 then freeSplit w u n
        else w.upd (fun d => d.updWave u (fun v => (exitInCalli v p above l).1))
      | none => freeSplit w u n

/-- R224: `exit`. -/
def exitOp (s : Iss) : Work :=
  s.guardGate (fun s =>
    let gone := maskOf s.active
    let s := { s with p := { s.p with emask := s.p.emask &&& ~~~gone, home := s.p.home &&& ~~~gone } }
    let empty := s.p.home == 0
    let w := s.goto s.next 1 {}
    if empty then splitExits w s.v.uid s.p.num else w)

def execExit (f : Form) (st : State) : Host.Outcome State Fault Refusal := st.issue (.exit f) exitOp

/-! ## Masks and split information (R225, R226) -/

/-- R225: `maskrd`. -/
def maskrdOp (s : Iss) : Work :=
  s.guardGate (fun s => (s.deliver s.active [.mask] (fun _ => [s.entry latA (s.p.emask.setWidth 64, .mask)])).done)

def execMaskrd (f : Form) (st : State) : Host.Outcome State Fault Refusal := st.issue (.maskrd f) maskrdOp

/-- R225: `maskwr`, by the lowest lane of the home set. -/
def maskwrOp (s : Iss) : Work :=
  let low := (lanesOf s.p.home).take 1
  s.gated low [[.mask, .i32, .n32]] (fun s =>
    let a : LaneMask := (opnd (s.vals (low.headD 0)) 0).setWidth 32
    ({ s with
        v := popInboxes s.v s.srcs
        p := { s.p with emask := (a &&& s.p.home) ||| (s.p.emask &&& ~~~s.p.home) } } : Iss).done)

def execMaskwr (f : Form) (st : State) : Host.Outcome State Fault Refusal := st.issue (.maskwr f) maskwrOp

/-- R226: the value `splitrd` delivers. -/
def splitInfo (v : Wave) (p : Split) (k : Nat) : Word × Ty :=
  match k with
  | 0 => (p.home.setWidth 64, .mask)
  | 1 => (match p.marks with
    | [] => 0
    | m :: _ => BitVec.ofNat 64 (p.marks.length * 65536 + (m.count % 256).toNat * 256 + m.id), .n32)
  | _ => (BitVec.ofNat 64 (v.splits.length * 256 + v.ageIndex p), .n32)

/-- R226: `splitrd`. -/
def splitrdOp (s : Iss) : Work :=
  s.guardGate (fun s =>
    let x := splitInfo s.v s.p (bits s.f.x13 0 2)
    (s.deliver s.active [x.2] (fun _ => [s.entry latA x])).done)

def execSplitrd (f : Form) (st : State) : Host.Outcome State Fault Refusal := st.issue (.splitrd f) splitrdOp

/-! ## Yield, sleep and traps (R227, R228) -/

/-- R227: `yield`: the splits it waits for are those found ready in this cc, which are known at its end (Machine/Cycle.lean). -/
def yieldOp (s : Iss) : Work :=
  ({ s with p := { s.p with yield := some { until_ := s.cc + 64, fresh := true, peers := [] } } } : Iss).done

def execYield (f : Form) (st : State) : Host.Outcome State Fault Refusal := st.issue (.yield f) yieldOp

/-- R227: `sleep`: not ready for 16 × n cc; of 0, no effect. -/
def sleepOp (s : Iss) : Work :=
  let n := bits s.f.x13 0 13
  ({ s with p := { s.p with sleep := 16 * n, asleep := decide (n ≠ 0) } } : Iss).done

def execSleep (f : Form) (st : State) : Host.Outcome State Fault Refusal := st.issue (.sleep f) sleepOp

/-- R228, R403: the instruction completes and raises a program-visible trap whose stop point is the next instruction, which is
the PC its record holds (R403; log 58). Of a stop site, the wave halts at it (R427). -/
def Iss.softTrap (s : Iss) (code d2 addr : Nat) : Work :=
  let lanes := maskOf s.active
  let at_ := s.p.pc
  let s := s.retired s.next 1 {}
  let s := { s with p := { s.p with trapped := true } }
  let w := s.put.upd (fun d => raise (markIssued d s.v s.p.num {}) {
    splitTrap s.v s.p code s.p.pc lanes d2 addr with site := if s.f.st then siteAt d s.v at_ else none })
  if s.f.st then safePoint w s.v s.p at_ lanes else w

/-- R228: `trap` and `brk`: where the guard holds in some active lane. -/
def softTrapOp (code : Nat) (s : Iss) : Work :=
  s.guardGate (fun s => if s.active.isEmpty then s.done else s.softTrap code (bits s.f.x13 0 13) 0)

def execTrap (f : Form) (st : State) : Host.Outcome State Fault Refusal := st.issue (.trap f) (softTrapOp tSwtrap)
def execBrk (f : Form) (st : State) : Host.Outcome State Fault Refusal := st.issue (.brk f) (softTrapOp tBreak)

/-! ## Core-side watchpoints (R430) -/

/-- R256, R340: the split waits, before it issues, for the translation of a page. -/
def Iss.waitPage (s : Iss) (va : VAddr) : Work :=
  (postXlate (s.wait 12) (.core s.core) s.v.ctx s.v.n va).upd (fun d => d.updWave s.v.uid (fun v =>
    v.updSplit s.p.num (fun p => { p with fetchWait := some va })))

/-- What the bytes that an instruction stores meet at the core's watchpoints. -/
inductive Watched where
  | none
  /-- One matches, and this page does not translate: whether the instruction traps is not known yet. -/
  | wait (va : VAddr)
  /-- One matches, at this address. -/
  | hit (a : Nat)
deriving DecidableEq, Repr

/-- R430: the watchpoint that some runs of bytes stored by a wave match: its address. -/
def coreWatch (d : Dev) (v : Wave) (parts : List (VAddr × Nat)) : Option Nat :=
  let hit (e : Word × Word) : Bool :=
    let n := bits e.2 0 4
    let base := bits e.1 3 54 * 8
    decide (3 ≤ n) && decide (n ≤ 12) && bits e.2 48 16 == v.ctx % 65536 &&
    parts.any (fun p => decide (p.1.toNat < base + 2 ^ n) && decide (base < p.1.toNat + p.2))
  ((d.core (d.coreOf v)).watch.find? hit).map (fun e => bits e.1 3 54 * 8)

/-- R83, R430: what a store of some runs of bytes meets, through pages whose entries `ok` lets it write: no watch where it will
itself trap, and none yet where that is not known (log 91). -/
def watched (w : Work) (v : Wave) (parts : List (VAddr × Nat)) (ok : Word → Bool) : Watched :=
  match coreWatch w.d v parts, w.d.ctx v.ctx with
  | some a, some c =>
    let pages := parts.flatMap (fun p => (List.range ((p.2 + 4095) / 4096)).map (fun i => p.1 + BitVec.ofNat 57 (4096 * i)) ++
      [p.1 + BitVec.ofNat 57 (p.2 - 1)])
    let ways := pages.map (fun va => (va, walk w c va))
    if ways.any (fun x => match x.2 with
      | .malformed | .lost _ => true
      | .leaf e _ _ _ => !ok e
      | .absent => false) then .none
    else match ways.find? (fun x => x.2 == .absent) with
      | some x => .wait x.1
      | none => .hit a
  | _, _ => .none

end Sys2Proof.Machine
end

