-- ==== Sys2Proof/Machine/Matrix.lean ====
section
/-! DEFINITION. Major 0xC0: accumulator elements (spec/07 R171 to R175), the synchronous forms on tiles (R196 to R204), and
the issue of the asynchronous ones (R181 to R195, R202). What those do later is in MatrixEvents.lean. -/

namespace Sys2Proof.Machine

/-! ## Elements -/

/-- The zero element. -/
def Elem.zero : Elem := { s := 0, c := 0, g := 0, ovf := false }

/-- R171: the held value T, signed. -/
def Elem.held (e : Elem) : Int := (BitVec.ofNat 66 (e.g.toNat * 2 ^ 64 + e.s.toNat + e.c.toNat)).toInt

/-- R172: whether a number lies outside the signed 64-bit range. -/
def outside64 (x : Int) : Bool := decide (x < -2 ^ 63) || decide (2 ^ 63 ≤ x)

/-- R172: one carry-save step. -/
def Elem.add (e : Elem) (p : Int) : Elem :=
  if p = 0 then e
  else
    let q := BitVec.ofInt 66 p
    let lo : Word := q.setWidth 64
    let m := (e.s &&& e.c) ||| (e.s &&& lo) ||| (e.c &&& lo)
    let r : Elem := {
      s := e.s ^^^ e.c ^^^ lo, c := m <<< 1,
      g := e.g + q.extractLsb' 64 2 + (if m.msb then 1 else 0), ovf := e.ovf }
    { r with ovf := r.ovf || outside64 p || outside64 r.held }

/-- R175: the canonical integer. -/
def Elem.resolved (e : Elem) : Int := if e.ovf then (if 0 ≤ e.held then 2 ^ 63 - 1 else -2 ^ 63) else e.held

/-- R197: the canonical form of an integer of 64 bits. -/
def Elem.ofInt (v : Int) (ovf : Bool) : Elem := { s := BitVec.ofInt 64 v, c := 0, g := if v < 0 then 3 else 0, ovf }

/-- R9, R31: element i of undefined contents numbered n. -/
def undefElem (n i : Nat) : Elem :=
  let b := Config.freeElem n i
  { s := b.extractLsb' 0 64, c := b.extractLsb' 64 64, g := b.extractLsb' 128 2, ovf := b.getLsbD 130 }

/-- R171: the 1,024 elements of a tile. -/
def Tile.elems (t : Tile) : List Elem :=
  match t.data with
  | .undef n => (List.range 1024).map (undefElem n)
  | .vals es => es

/-- Element (row, lane). -/
def Tile.at_ (t : Tile) (row l : Nat) : Elem :=
  match t.data with
  | .undef n => undefElem n (32 * row + l)
  | .vals es => es.getD (32 * row + l) Elem.zero

/-- A tile of a wave. -/
def Wave.tile (v : Wave) (x : Nat) : Tile :=
  v.tiles.getD x { data := .vals [], anchor := 0, progress := 0, busyUntil := 0, open_ := false, stamp := 0 }

def Wave.setTile (v : Wave) (x : Nat) (t : Tile) : Wave := { v with tiles := v.tiles.set x t }

/-! ## The gate of a form on tiles (R176, R180, R182) -/

/-- R176, R180: a form that names a tile: one at or above t raises ILLEGAL; a busy one makes it wait. -/
def Iss.tileGate (s : Iss) (xs : List Nat) (k : Iss → Work) : Work :=
  if xs.any (fun x => decide (s.v.tiles.length ≤ x)) then s.trap tIllegal 0
  else if xs.any (fun x => decide (s.cc < (s.v.tile x).busyUntil)) then s.wait 9
  else k s

/-- R182: whether an operation on a tile has been issued that no `mwait` has covered. -/
def uncovered (v : Wave) (x : Nat) : Bool := (v.tile x).open_ || v.slots.any (fun o => o.tile == x)

/-- R9, R171: the undefined anchor of contents numbered n: any signed 16-bit value. -/
def undefAnchor (n : Nat) : Int := ((Config.freeElem n 1024).extractLsb' 0 16).toInt

/-- R9, R182: a tile whose elements, flags and anchor are undefined, numbered n. -/
def Tile.lose (t : Tile) (n : Nat) : Tile := { t with data := .undef n, anchor := undefAnchor n, stamp := n }

/-- The next number of undefined contents. -/
def Iss.fresh (s : Iss) : Nat × Iss :=
  (s.w.d.freeCtr, { s with w := s.w.upd (fun d => { d with freeCtr := d.freeCtr + 1 }) })

/-- R182: a tile written by a synchronous form while operations on it are uncovered: undefined once the form and each of them
have finished, so at once for one that is complete, and again as each of the others completes. -/
def Iss.spoil (s : Iss) (x : Nat) : Iss :=
  let (n, s) := s.fresh
  let v := { s.v with slots := updWhere (fun o => o.tile == x) (fun o => { o with spoiled := true }) s.v.slots }
  { s with v := v.setTile x (if (v.tile x).open_ then (v.tile x).lose n else { v.tile x with stamp := n }) }

/-- R180: a tile held busy. -/
def Iss.busy (s : Iss) (x n : Nat) : Iss :=
  { s with v := s.v.setTile x { s.v.tile x with busyUntil := s.cc + n } }

/-- R176: a form with a scalar read in the lowest active lane; with no active lane it only pushes its zeros. -/
def Iss.scalarOp (s : Iss) (accs : List (List Ty)) (k : Iss → List (Word × Ty) → Work) : Work :=
  if guardPending s.cc s.v s.p s.f then s.wait 1
  else match s.active with
    | [] => s.done
    | l :: _ => s.gated [l] accs (fun s => k s (s.vals l))

/-- R176: a form without a scalar; with no active lane it only pushes its zeros. -/
def Iss.tileOp (s : Iss) (tags : List Ty) (k : Iss → Work) : Work :=
  s.guardGate (fun s => if s.active.isEmpty then (s.deliver [] tags (fun _ => [])).done else k s)

/-! ## Synchronous forms -/

/-- R196: an anchor read from a scalar, where it is in range. -/
def anchorOf (x : Word × Ty) : Option Int :=
  let e := intVal (fmtOf [.i32, .n32] x.2) x.1
  if -32768 ≤ e ∧ e ≤ 32767 then some e else none

/-- R196: a form that sets an anchor. -/
def anchorForm (lat : Nat) (f : Tile → Int → Tile) (s : Iss) : Work :=
  s.scalarOp [[.i32, .n32]] (fun s xs =>
    match anchorOf (xs.getD 0 (0, .i32)) with
    | none => s.trap tIllegal 0
    | some e => s.tileGate [s.f.xd] (fun s =>
        let s := { s.pop with v := s.pop.v.setTile s.f.xd (f (s.v.tile s.f.xd) e) }
        ((s.busy s.f.xd lat).spoil s.f.xd).done))

/-- R196: `az`. -/
def azTile (t : Tile) (e : Int) : Tile :=
  { t with data := .vals (List.replicate 1024 Elem.zero), anchor := e, progress := 0 }

def execAz (f : Form) (st : State) : Host.Outcome State Fault Refusal := st.issue (.az f) (anchorForm 4 azTile)

/-- S × 2^(from − dst) as an integer, rounded to nearest even. -/
def rescale (v : Int) (from_ dst : Int) : Int :=
  let s := decide (v < 0)
  let k := Int.ofNat (roundAt .rne s v.natAbs from_ dst false).1
  if s then -k else k

/-- R196: an element re-anchored. -/
def anchElem (from_ dst : Int) (e : Elem) : Elem :=
  let v := rescale e.resolved from_ dst
  Elem.ofInt (between (-2 ^ 63) (2 ^ 63 - 1) v) (e.ovf || outside64 v)

/-- R196: `anch`. -/
def anchTile (t : Tile) (e : Int) : Tile := { t with data := .vals (t.elems.map (anchElem t.anchor e)), anchor := e }

def execAnch (f : Form) (st : State) : Host.Outcome State Fault Refusal := st.issue (.anch f) (anchorForm 26 anchTile)

/-- R197: `res`. -/
def resTile (t : Tile) : Tile := { t with data := .vals (t.elems.map (fun e => Elem.ofInt e.resolved e.ovf)) }

def resOp (s : Iss) : Work :=
  s.tileOp [] (fun s => s.tileGate [s.f.xd] (fun s =>
    let s := { s with v := s.v.setTile s.f.xd (resTile (s.v.tile s.f.xd)) }
    ((s.busy s.f.xd 24).spoil s.f.xd).done))

def execRes (f : Form) (st : State) : Host.Outcome State Fault Refusal := st.issue (.res f) resOp

/-- R9, R182: the values of a synchronous form that reads a tile: free where an operation on it is uncovered, and the same at
each reading by the same form of the same row until something changes the tile. -/
def Iss.tileReads (s : Iss) (x kind : Nat) (tags : List Ty) (value : Nat → List (Word × Ty)) : Nat → List (Word × Ty) :=
  if uncovered s.v x then fun l =>
    (enum tags).map (fun it => (Config.freeResult (s.v.tile x).stamp (((kind * 32 + s.f.row) * 4 + it.1) * 32 + l), it.2))
  else value

/-- A synchronous form that delivers results from a row; `kind` tells the forms of undefined results apart. -/
def rowForm (lat kind : Nat) (tags : List Ty) (value : Tile → Nat → List (Word × Ty)) (s : Iss) : Work :=
  s.tileOp tags (fun s => s.tileGate [s.f.xd] (fun s =>
    let val := s.tileReads s.f.xd kind tags (value (s.v.tile s.f.xd))
    ((s.busy s.f.xd lat).deliver s.active tags (fun l => (val l).map (s.entry lat))).done))

/-- R198: the rounding of `resv`. -/
def resvMode (f : Form) : RMode := match f.mode with
  | 0 => .rne | 1 => .rtz | 2 => .rup | _ => .rdn

/-- R198: an element delivered as a float or as FX64. -/
def resvElem (ty : Ty) (mode : RMode) (anchor : Int) (e : Elem) : Word :=
  let v := e.resolved
  if ty = .fx64 then BitVec.ofInt 64 v
  else if e.ovf then BitVec.ofNat 64 (fmtOfTy ty).nan
  else BitVec.ofNat 64 (roundTo (fmtOfTy ty) mode false (decide (v < 0)) v.natAbs anchor false).1

/-- R198: `resv`. -/
def resvOp (s : Iss) : Work :=
  rowForm 12 (4 + (tyCode s.f.ty).toNat * 4 + s.f.mode) [s.f.ty] (fun t l => [(resvElem s.f.ty (resvMode s.f) t.anchor (t.at_ s.f.row l), s.f.ty)]) s

def execResv (f : Form) (st : State) : Host.Outcome State Fault Refusal := st.issue (.resv f) resvOp

/-- R201: `avld`: s, c and the guard word. -/
def avldOp (s : Iss) : Work :=
  rowForm 6 0 [.raw, .raw, .n32] (fun t l =>
    let e := t.at_ s.f.row l
    [(e.s, .raw), (e.c, .raw),
     (BitVec.ofNat 64 ((t.anchor % 65536).toNat * 65536 + (if e.ovf then 4 else 0) + e.g.toNat), .n32)]) s

def execAvld (f : Form) (st : State) : Host.Outcome State Fault Refusal := st.issue (.avld f) avldOp

/-- R199: the conditions of `acmp`, by code, on an order; none where unordered. -/
def accHolds (cc : Nat) (o : Option Ordering) : Bool :=
  match cc, o with
  | 0, some .eq => true
  | 1, some .eq => false
  | 1, _ => true
  | 2, some .lt => true
  | 3, some .lt | 3, some .eq => true
  | 4, some .gt => true
  | 5, some .gt | 5, some .eq => true
  | _, _ => false

/-- R199: the order of S × 2^E and an F32 value. -/
def cmpF32 (v : Int) (anchor : Int) (t : Nat) : Option Ordering :=
  match fval .f32 t with
  | .nan _ => none
  | .inf s => some (if s then .gt else .lt)
  | .fin s m e =>
    let q := min anchor e
    let a := v * 2 ^ (anchor - q).toNat
    let b := Int.ofNat (m * 2 ^ (e - q).toNat)
    some (compare a (if s then -b else b))

/-- R199: `acmp`; the threshold is a tile-wide scalar, read in the lowest active lane (R176; log 59). -/
def acmpOp (s : Iss) : Work :=
  s.scalarOp [[s.f.ty]] (fun s xs =>
    s.tileGate [s.f.xd] (fun s =>
      let t := s.v.tile s.f.xd
      let undef := uncovered s.v s.f.xd
      let x := opnd xs 0
      ((s.pop.busy s.f.xd 24).setPred s.active s.f.pd 24 (fun l =>
        let v := (t.at_ s.f.row l).resolved
        if undef then Config.freePred t.stamp
          (2 * ((((x.toNat * 8 + s.f.xs) * 2 + (if s.f.ty = .fx64 then 1 else 0)) * 32 + s.f.row) * 32 + l))
        else accHolds s.f.xs (if s.f.ty = .fx64 then some (compare v x.toInt) else cmpF32 v t.anchor (bits x 0 32)))).done))

def execAcmp (f : Form) (st : State) : Host.Outcome State Fault Refusal := st.issue (.acmp f) acmpOp

/-- R200: the signed top of the held words. -/
def signTop (e : Elem) : Int :=
  (BitVec.ofNat 10 (e.g.toNat * 256 + bits e.s 56 8 + bits e.c 56 8)).toInt

/-- R200: `asgn`. -/
def asgnOp (s : Iss) : Work :=
  s.tileOp [] (fun s => s.tileGate [s.f.xd] (fun s =>
    let t := s.v.tile s.f.xd
    let undef := uncovered s.v s.f.xd
    let free (i l : Nat) : Bool := Config.freePred t.stamp (2 * ((s.f.row * 2 + i) * 32 + l) + 1)
    let top (l : Nat) : Int := signTop (t.at_ s.f.row l)
    let s := s.busy s.f.xd 2
    let act := s.active
    let s := s.setPred act s.f.pd 2 (fun l => if undef then free 0 l else decide (top l ≤ -2))
    (s.setPred act (s.f.pd + 1) 2 (fun l =>
      if undef then free 1 l else decide (1 ≤ top l))).done))

def execAsgn (f : Form) (st : State) : Host.Outcome State Fault Refusal := st.issue (.asgn f) asgnOp

/-- R203: the addend `aadd` takes from an element. -/
def aaddTerm (es ed : Int) (e : Elem) : Int :=
  if es < ed then rescale e.resolved es ed else e.held * 2 ^ (es - ed).toNat

/-- R203: an element added into another. -/
def aaddElem (es ed : Int) (d e : Elem) : Elem :=
  let r := d.add (aaddTerm es ed e)
  { r with ovf := r.ovf || e.ovf }

/-- R203: a tile added into another. -/
def aaddTile (d x : Tile) : Tile :=
  { d with data := .vals ((d.elems.zip x.elems).map (fun p => aaddElem x.anchor d.anchor p.1 p.2)) }

/-- R9, R182: a tile as a form reads it whole: with an uncovered operation, its undefined elements, the same at every read until
something changes it. -/
def asRead (v : Wave) (x : Nat) : Tile :=
  let t := v.tile x
  if uncovered v x then { t with data := .undef t.stamp } else t

/-- R203: `aadd`; a source with an uncovered operation supplies undefined values (R182). -/
def aaddOp (s : Iss) : Work :=
  s.tileOp [] (fun s => s.tileGate [s.f.xd, s.f.xs] (fun s =>
    let d := s.v.tile s.f.xd
    let x := s.v.tile s.f.xs
    let lat := if d.anchor = x.anchor then 8 else 32
    let s := { s with v := s.v.setTile s.f.xd (aaddTile d (asRead s.v s.f.xs)) }
    (((s.busy s.f.xd lat).busy s.f.xs lat).spoil s.f.xd).done))

def execAadd (f : Form) (st : State) : Host.Outcome State Fault Refusal := st.issue (.aadd f) aaddOp

/-- R193: `mrow`: the progress of the tile, of which no operation makes it undefined. -/
def mrowOp (s : Iss) : Work :=
  s.tileOp [.n32] (fun s => s.tileGate [s.f.xd] (fun s =>
    let n := (s.v.tile s.f.xd).progress
    ((s.busy s.f.xd 4).deliver s.active [.n32] (fun _ => [s.entry 4 (BitVec.ofNat 64 n, .n32)])).done))

def execMrow (f : Form) (st : State) : Host.Outcome State Fault Refusal := st.issue (.mrow f) mrowOp

/-- R194: `gang`. -/
def gangOp (s : Iss) : Work :=
  s.scalarOp [[.n32, .i32]] (fun s xs =>
    let g := bits (opnd xs 0) 0 32
    let nm := match s.w.d.launchOf s.v with
      | some l => l.nm
      | none => 0
    let n := popBits (BitVec.ofNat 64 g)
    if n < 2 ∨ 6 < n ∨ 2 ^ nm ≤ g ∨ 2 ^ 16 ≤ g ∨ !g.testBit s.v.mIndex then s.trap tIllegal 0
    else
      let s := s.pop
      ({ s with w := s.w.upd (fun d => d.updTaskCore s.v (fun c => { c with gang := g })) } : Iss).done)

def execGang (f : Form) (st : State) : Host.Outcome State Fault Refusal := st.issue (.gang f) gangOp

/-- R204: floor(log2 |x|) of an element; none of a zero, 32,767 of an infinity or NaN. -/
def expOf (f : FFmt) (x : Nat) : Option Int :=
  match fval f x with
  | .fin _ m e => if m = 0 then none else some ((Nat.log2 m : Int) + e)
  | _ => some 32767

/-- R204: the elements of an entry under a TY. -/
def allElems (t : Ty) : List Nat := match t with
  | .f16x2 | .bf16x2 => [0, 1] | .f8x4 | .f8x4e5 => [0, 1, 2, 3] | _ => [0]

/-- R204: `mxexp`. -/
def mxexpOp (s : Iss) : Work :=
  let t := s.f.ty
  s.laneOp [[t]] 10 [.i32] (fun s _ _ =>
    let es := s.active.flatMap (fun l => (allElems t).filterMap (fun i => expOf (fmtOfTy t) (elemAt t (opnd (s.vals l) 0) i)))
    [(intWrap .i32 (es.foldl max (-32768)), .i32)])

def execMxexp (f : Form) (st : State) : Host.Outcome State Fault Refusal := st.issue (.mxexp f) mxexpOp

/-! ## Waits (R183, R184) -/

/-- Whether a record entry is a store still under way. -/
def Rec.isStore (r : Rec) : Bool := match r.op with
  | .store _ => true
  | _ => false

/-- R184, R185: `mfence`: it waits for the wave's earlier stores, those of `astr` among them; every write so far is then seen
by its load pipes. -/
def mfenceOp (s : Iss) : Work :=
  s.tileOp [] (fun s =>
    if s.v.recs.any Rec.isStore || s.v.slots.any (fun o => o.kind == .astr) then s.wait 9
    else ({ s with v := { s.v with pipes := s.v.present s.w.d } } : Iss).done)

def execMfence (f : Form) (st : State) : Host.Outcome State Fault Refusal := st.issue (.mfence f) mfenceOp

/-- R180, R183: `mwait`: one that names a tile waits until the tile is free; the covered operations complete. `mwait all` names
no tile, whatever XD holds (log 60). -/
def mwaitOp (s : Iss) : Work :=
  s.tileOp [] (fun s =>
    let all := s.f.mode % 2 == 1
    s.tileGate (if all then [] else [s.f.xd]) (fun s =>
      if s.v.slots.any (fun o => all || o.tile == s.f.xd) then s.wait 9
      else ({ s with
          v := { s.v with
          tiles := (enum s.v.tiles).map (fun it => if all || it.1 == s.f.xd then { it.2 with open_ := false } else it.2) } } : Iss).done))

def execMwait (f : Form) (st : State) : Host.Outcome State Fault Refusal := st.issue (.mwait f) mwaitOp

/-! ## Asynchronous operations: issue (R181, R186 to R195, R202) -/

/-- R179: the tags of an operand address: a share offset, or a global address. -/
def addrTags (scratch : Bool) : List Ty := if scratch then [.n32, .n64] else [.ptr]

/-- R186: the fields of the operand word. -/
def opAstr (w : Word) : Nat := bits w 48 16
def opBstr (w : Word) : Nat := bits w 32 16
def opKs (w : Word) : Nat := bits w 20 12
def opAt (w : Word) : Nat := bits w 16 4
def opBt (w : Word) : Nat := bits w 12 4
def opAsp (w : Word) : Bool := w.getLsbD 11
def opBsp (w : Word) : Bool := w.getLsbD 10
def opGng (w : Word) : Bool := w.getLsbD 9
def opTb (w : Word) : Bool := w.getLsbD 8
def opCbk (w : Word) : Nat := bits w 6 2

/-- R177, R181: an operation slot is free. -/
def slotFree (v : Wave) : Bool := decide (v.slots.length < 4)

/-- A new operation in a slot of a tile, which it changes. -/
def Iss.newSlot (s : Iss) (o : OpSlot) : Iss :=
  let (n, s) := s.fresh
  let v := { s.v with slots := s.v.slots ++ [{ o with order := s.w.d.uid + 1, num := s.w.d.issueNum + 1, pc := s.p.pc, split := s.p.num }] }
  { s with
      v := v.setTile o.tile { v.tile o.tile with stamp := n }
      w := s.w.upd (fun d => { d with uid := d.uid + 1, issueNum := d.issueNum + 1 }) }

/-- R192: leave asked of the quad's governor for the operation of an order. -/
def askSlotLeave (d : Dev) (v : Wave) (order : Nat) : Dev :=
  d.updQuad (d.posOf v) (fun q => { q with leaveQueue := q.leaveQueue ++ [(false, v.uid, order)] })

/-- An operation slot of a kind on a tile, with nothing else set. -/
def OpSlot.make (kind : SlotKind) (tile : Nat) (a b bitmap operand : Word) : OpSlot :=
  { kind, tile, a, b, bitmap, operand, canonical := false, scratch := false, book := 0, gang := 0, pc := 0, split := 0,
    order := 0, num := 0, asked := none, granted := true, joined := true, joint := none, begun := false, begunAt := 0, passes := 0, bytes := 0,
    xlate := none, spoiled := false }

/-- R195: the wave with index j among the matrix waves of a wave's core and task. -/
def member (d : Dev) (v : Wave) (j : Nat) : Option Wave :=
  d.waves.find? (fun u => u.task == v.task && u.x == v.x && u.y == v.y && u.core == v.core && u.handler.isNone && u.j == j)

/-- R195: whether a listed member of a gang has exited. -/
def memberGone (d : Dev) (v : Wave) (set : Nat) : Bool :=
  (List.range 16).any (fun j => set.testBit j && (match member d v j with
    | some u => u.exited
    | none => true))

/-- R195: a gang-flagged operation enters the latch. -/
def Iss.enterLatch (s : Iss) (set : Nat) (b operand : Word) : Iss :=
  let a : LatchArrival := { wave := s.v.uid, order := s.w.d.uid, set, b, operand }
  { s with w := s.w.upd (fun d => d.updTaskCore s.v (fun c => { c with latch := c.latch ++ [a] })) }

/-- R177: whether the latch holds its six arrivals, none of which an arrival of this wave would join (log 61). -/
def latchFull (d : Dev) (v : Wave) (set : Nat) : Bool :=
  let latch := (d.taskCore v).latch
  decide (6 ≤ latch.length) && (List.range 16).any (fun j => set.testBit j && j != v.mIndex && (match member d v j with
    | some u => latch.all (fun a => a.wave != u.uid)
    | none => true))

/-- R181, R189, R190, R192: the issue of `mma` and `mmas`: the operation takes its slot, and asks for leave. ALIGN comes before the
gang's faults (log 27, DEDUCED), and the address of a bitmap may be any (log 94, DESIGN CHOICE). -/
def matrixOp (kind : SlotKind) (s : Iss) : Work :=
  let o := s.f.imm.getD 0
  s.scalarOp ([addrTags (opAsp o), addrTags (opBsp o)] ++ (if kind = .mmas then [addrTags (opAsp o)] else [])) (fun s xs =>
    let (a, b, m) := (opnd xs 0, opnd xs 1, if kind = .mmas then opnd xs 2 else 0)
    let set := (s.w.d.taskCore s.v).gang
    s.tileGate [s.f.xd] (fun s =>
      if bits a 0 4 ≠ 0 ∨ bits b 0 4 ≠ 0 ∨ opAstr o % 16 ≠ 0 ∨ opBstr o % 16 ≠ 0 then s.trap tAlign 0
      else if opGng o && (decide (popBits (BitVec.ofNat 64 set) < 2) || !set.testBit s.v.mIndex) then s.trap tIllegal 0
      else if opGng o && memberGone s.w.d s.v set then s.trap tProt 0
      else match s.v.hold s.p.num true with
      | some c => s.wait c
      | none =>
        if !slotFree s.v || (opGng o && latchFull s.w.d s.v set) then s.wait 10 else
        let s := s.pop.newSlot { OpSlot.make kind s.f.xd a b m o with
          book := s.v.book s.cc (opCbk o), gang := if opGng o then set else 0, joined := !opGng o, asked := some s.cc, granted := false }
        let s := { s with w := s.w.upd (fun d => askSlotLeave d s.v d.uid) }
        (if opGng o then s.enterLatch set b o else s).done))

def execMma (f : Form) (st : State) : Host.Outcome State Fault Refusal := st.issue (.mma f) (matrixOp .mma)
def execMmas (f : Form) (st : State) : Host.Outcome State Fault Refusal := st.issue (.mmas f) (matrixOp .mmas)

/-- R202: the bytes of an image. -/
def imageBytes (canonical : Bool) : Nat := if canonical then 8192 else 16640

/-- R185, R430: what the bytes that an `astr` will store meet at the core's watchpoints. -/
def OpSlot.watched (w : Work) (v : Wave) (o : OpSlot) : Watched :=
  if o.kind != .astr || o.scratch then .none
  else Machine.watched w v [(BitVec.ofNat 57 o.a.toNat, imageBytes o.canonical)] pteW

/-- R202: the issue of `astr` and `ald`. -/
def tileMove (kind : SlotKind) (s : Iss) : Work :=
  let scratch := decide (2 ≤ s.f.mode)
  s.scalarOp [addrTags scratch] (fun s xs =>
    let a := opnd xs 0
    s.tileGate [s.f.xd] (fun s =>
      if bits a 0 8 ≠ 0 then s.trap tAlign 0
      else match s.v.hold s.p.num true with
      | some c => s.wait c
      | none =>
        if !slotFree s.v then s.wait 10 else
        let o := { OpSlot.make kind s.f.xd a 0 0 0 with canonical := s.f.mode % 2 == 1, scratch }
        match o.watched s.w s.v with
        | .wait va => s.waitPage va
        | .hit x => (s.pop.newSlot o).softTrap tWatch (s.v.ctx % 65536) x
        | .none => (s.pop.newSlot o).done))

def execAstr (f : Form) (st : State) : Host.Outcome State Fault Refusal := st.issue (.astr f) (tileMove .astr)
def execAld (f : Form) (st : State) : Host.Outcome State Fault Refusal := st.issue (.ald f) (tileMove .ald)

/-! ## When an operation runs (R181, R189, R195) -/

/-- R181: whether an operation is the first of its wave on its tile. -/
def OpSlot.first (v : Wave) (o : OpSlot) : Bool := match v.slots.find? (fun p => p.tile == o.tile) with
  | some p => p.order == o.order
  | none => false

/-- R181, R192, R195: whether an operation itself may go on: it has its leave and its gang, its turn on its tile has come, it
waits on no page, its wave runs, and no fatal trap stops its task. -/
def slotReady (d : Dev) (v : Wave) (o : OpSlot) : Bool :=
  o.joined && o.granted && o.xlate.isNone && !v.stopped && o.first v && d.traps.all (fun t => t.task != v.task || !fatal t.code)

/-- R195: the operations that run as one with an operation, each with its wave, by ascending wave number: the members of its
joint operation, or itself alone. -/
def partners (d : Dev) (v : Wave) (o : OpSlot) : List (Wave × OpSlot) := match o.joint with
  | none => [(v, o)]
  | some j => (sortBy (fun p => p.1.n) ((d.waves.filter (fun u => u.task == v.task)).flatMap (fun u =>
      (u.slots.filter (fun q => q.joint == some j)).map (fun q => (u, q)))))

/-- R195: whether an operation runs, with every member of its gang. -/
def slotRuns (d : Dev) (v : Wave) (o : OpSlot) : Bool := (partners d v o).all (fun p => slotReady d p.1 p.2)

/-- R189, R193: an operation begins: the row progress of its tile is 0 from then on. -/
def beginSlot (d : Dev) (v : Wave) (o : OpSlot) : Wave :=
  let v := { v with slots := updWhere (fun p => p.order == o.order) (fun p => { p with begun := true, begunAt := d.cc }) v.slots }
  if o.kind == .astr || o.kind == .ald then v else v.setTile o.tile { v.tile o.tile with progress := 0 }

/-- R189, R202: the operations of the package that can run and have not begun begin (log 39). -/
def beginSlots (d : Dev) : Dev :=
  { d with waves := d.waves.map (fun v => (v.slots.filter (fun o => !o.begun && slotRuns d v o)).foldl (beginSlot d) v) }

end Sys2Proof.Machine
end

