-- ==== Sys2Proof/Machine/Access.lean ====
section
/-! DEFINITION. What every access of memory shares: where an address names a byte (spec/11 R290, spec/09 R252), the
operations at a bank (R300 to R302), the in-flight record (R293, R416), the translation of a record entry (R256 to R258) and
the performing of one (R263, R264, R269, R298), and the return of results (R93). -/

namespace Sys2Proof.Machine

/-! ## Addresses (R290) -/

/-- R290: what an address operand names. -/
inductive Resolved where
  | named (t : Target)
  | prot
  | bounds
deriving DecidableEq, Repr

/-- R45: the rectangle quad a place names from a wave's own quad; none outside the rectangle. -/
def placeQuad (d : Dev) (v : Wave) (pl : Place) : Option (Nat × Nat) :=
  let (rw, rh) := d.rectOf v
  let x := (v.x : Int) + pl.dx
  let y := (v.y : Int) + pl.dy
  if 0 ≤ x ∧ x < rw ∧ 0 ≤ y ∧ y < rh then some (x.toNat, y.toNat) else none

/-- R252, R448: the bank window size. -/
def Ctx.window (c : Ctx) : Nat := 2 ^ bits c.abase 59 5

/-- R252: an Abacus place with an offset. -/
def abacusPlace (d : Dev) (v : Wave) (pl : Place) (o : Int) : Resolved :=
  match placeQuad d v pl, d.ctx v.ctx, d.task v.task with
  | none, _, _ => .prot
  | some (x, y), some c, some t =>
    if o < 0 ∨ (c.window : Int) ≤ o then .bounds
    else .named (.virt (BitVec.ofNat 57 (bits c.abase 0 57 + (dieOf (t.pos x y) * 64 + pl.index) * c.window + o.toNat)))
  | _, _, _ => .prot

/-- R235, R323: the size of a task's share in a rectangle quad, its extensions included. -/
def shareSize (d : Dev) (v : Wave) (x y : Nat) : Nat := match d.task v.task with
  | some t => ((t.quads[d.quadIndex v x y]?).map TaskQuad.share).getD 0
  | none => 0

/-- R235: a byte of the share of a rectangle quad. -/
def shareByte (d : Dev) (v : Wave) (q : Option (Nat × Nat)) (o : Int) : Resolved :=
  match q with
  | none => .prot
  | some (x, y) => if o < 0 ∨ (shareSize d v x y : Int) ≤ o then .bounds else .named (.quad (x + 12 * y) o.toNat)

/-- R233, R290: the address operand of a lane resolved in a space, with a displacement and a place. A private address is judged by
its first byte alone (log 99, DESIGN CHOICE). -/
def resolve (d : Dev) (v : Wave) (sp : Nat) (pl : Option Place) (x : Word) (disp : Int) : Resolved :=
  let o := Int.ofNat x.toNat + disp
  match sp, pl with
  | 0, none => .named (.virt (BitVec.ofInt 57 o))
  | 0, some p => abacusPlace d v p o
  | 1, none => shareByte d v (some (v.x, v.y)) o
  | 1, some p => shareByte d v (placeQuad d v p) o
  | _, _ =>
    let size := match d.launchOf v with
      | some l => l.stackBytes
      | none => 0
    if o < 0 ∨ (size : Int) ≤ o then .bounds else .named (.priv o.toNat)

/-- R80, R289: the place word of a form. -/
def formPlace (f : Form) : Option Place := f.imm.bind (fun w => placeOf (w.setWidth 32))

/-- R290: the tags of an address operand. -/
def addressTags (sp : Nat) (pl : Bool) : List Ty := if sp = 0 ∧ !pl then [.ptr] else countTags

/-- R403: the virtual address a target is, for a trap record; 0 for one that is no virtual address. -/
def Target.va : Target → Nat
  | .virt a => a.toNat
  | _ => 0

/-- The lowest bits of a target, which its alignment is judged by. -/
def Target.low : Target → Nat
  | .virt a => a.toNat
  | .quad _ o => o
  | .priv o => o

/-- What the addresses of the active lanes come to (R290, R291): the targets, or a trap with its lanes and address. -/
inductive Addressed where
  | targets (ts : List (Nat × Target))
  | trap (code : Nat) (lanes : LaneMask) (addr : Nat)
deriving DecidableEq, Repr

/-- R290, R291: PROT, then BOUNDS, then ALIGN, judged over every lane. -/
def judge (rs : List (Nat × Resolved)) (align : Nat) : Addressed :=
  let lanesIn (p : Resolved → Bool) : List Nat := (rs.filter (fun r => p r.2)).map Prod.fst
  let prot := lanesIn (· == .prot)
  let bounds := lanesIn (· == .bounds)
  let ts := rs.filterMap (fun r => match r.2 with
    | .named t => some (r.1, t)
    | _ => none)
  let crooked := ts.filter (fun t => decide (t.2.low % align ≠ 0))
  if !prot.isEmpty then .trap tProt (maskOf prot) 0
  else if !bounds.isEmpty then .trap tBounds (maskOf bounds) 0
  else match crooked with
    | [] => .targets ts
    | t :: _ => .trap tAlign (maskOf (crooked.map Prod.fst)) t.2.va

/-! ## The operations at a bank (R300 to R302) -/

/-- R300: the new value of a location holding x, in the width of TY. -/
def atomNew (o : AtomOp) (ty : Ty) (x b c : Word) : Word :=
  let x := fit ty x
  let b := fit ty b
  match o with
  | .add => fit ty (x + b)
  | .min => if intVal ty b < intVal ty x then b else x
  | .max => if intVal ty x < intVal ty b then b else x
  | .and => x &&& b
  | .or => x ||| b
  | .xor => x ^^^ b
  | .xchg => b
  | .cas => if x = b then fit ty c else x
  | .fadd => BitVec.ofNat 64 (finishFloat .f32 none .rne (sumExact .rne [(fval .f32 (bits x 0 32)).exact, (fval .f32 (bits b 0 32)).exact]).1).1
  | .bfadd => joinElems .bf16x2 ([0, 1].map (fun i =>
      (finishFloat .bf16 none .rne (sumExact .rne [(fval .bf16 (elemAt .bf16x2 x i)).exact, (fval .bf16 (elemAt .bf16x2 b i)).exact]).1).1))
  | .xadd => x

/-- R251: the signed sum, the anchor and the flag of a cell. -/
def cellSum (lo hi : Word) : Int := (BitVec.ofNat 112 (bits hi 0 48 * 2 ^ 64 + lo.toNat)).toInt
def cellAnchor (hi : Word) : Int := sbits hi 48 15
def cellOvf (hi : Word) : Bool := hi.getLsbD 63

/-- R302: the addend in units of the anchor, none of a NaN or an infinity. -/
def cellTerm (ty : Ty) (b : Word) (e : Int) : Option Int :=
  let round (s : Bool) (m : Nat) (at_ : Int) : Int :=
    let k := Int.ofNat (roundAt .rne s m at_ e false).1
    if s then -k else k
  match ty with
  | .f64 | .f32 =>
    let f : FFmt := if ty = .f64 then .f64 else .f32
    match fval f (bits b 0 f.width) with
    | .fin s m at_ => some (round s m at_)
    | _ => none
  | _ => let v := intVal ty b; some (round (decide (v < 0)) v.natAbs 0)

/-- R302: a cell after an exact add. -/
def cellAdd (ty : Ty) (lo hi b : Word) : Word × Word :=
  let s := cellSum lo hi
  let (s, ovf) := match cellTerm ty b (cellAnchor hi) with
    | none => (s, true)
    | some u => (between (-2 ^ 111) (2 ^ 111 - 1) (s + u), decide (s + u < -2 ^ 111) || decide (2 ^ 111 ≤ s + u))
  let x := BitVec.ofInt 112 s
  (x.setWidth 64, BitVec.ofNat 64 ((if cellOvf hi || ovf then 2 ^ 63 else 0) + bits hi 48 15 * 2 ^ 48 + bits x 64 48))

/-- R300: the bytes of an element an operation acts on. -/
def atomBytes (o : AtomOp) (ty : Ty) : Nat := if o == .xadd then 16 else tyWidth ty / 8

/-- The bytes at some keys, as a number. -/
def Work.valueAt (w : Work) (keys : List Nat) : Word := BitVec.ofNat 64 (ofBytes (keys.map w.byte))

/-- Who stores a byte outside phased memory, for R277: its wave (0 for none) and the stores it has fenced. -/
structure Storer where
  wave : Nat
  fence : Nat

/-- A store by no wave. -/
def Storer.none : Storer := { wave := 0, fence := 0 }

/-- A store by a wave. -/
def Wave.storer (v : Wave) : Storer := { wave := v.uid, fence := v.fenceAt }

/-- Bytes stored outside phased memory. -/
def Work.stores (w : Work) (x : Storer) (bs : List Host.Cell) : Work := bs.foldl (fun w kb => w.store x.wave x.fence kb.1 kb.2) w

/-- The bytes of a value written at some keys. -/
def Work.setAt (w : Work) (x : Storer) (keys : List Nat) (v : Word) : Work := w.stores x (keys.zip (toBytes keys.length v.toNat))

/-- R300, R302: one operation at the bytes of an element: the old value (of a cell, its two words), and the new bytes. -/
def atomAt (w : Work) (y : Storer) (o : AtomOp) (ty : Ty) (keys : List Nat) (b c : Word) : List Word × Work :=
  if o == .xadd then
    let lo := w.valueAt (keys.take 8)
    let hi := w.valueAt (keys.drop 8)
    let (lo', hi') := cellAdd ty lo hi b
    ([lo, hi], (w.setAt y (keys.take 8) lo').setAt y (keys.drop 8) hi')
  else
    let x := w.valueAt keys
    ([x], w.setAt y keys (atomNew o ty x b c))

/-- R300: the results of an `atom`: tag TY, or two RAW words of `xadd`. -/
def atomResults (o : AtomOp) (ty : Ty) (old : List Word) : List (Word × Ty) :=
  old.map (fun x => (x, if o == .xadd then .raw else ty))

/-! ## Injection (R353, R354) -/

/-- The router endpoint of a core: the core at column cx and row cy of its die's 6 × 6 grid is at the router of that place
on the die (log 15, DESIGN CHOICE). -/
def coreEndpoint (core : Nat) : Nat :=
  let pos := core / 4
  let (cx, cy) := (2 * (pos % 12) + core % 4 % 2, 2 * (pos / 12) + core % 4 / 2)
  (7 * (cy / 6) + cy % 6) * 32 + (8 * (cx / 6) + cx % 6)

/-- R354: whether the throttle lets an endpoint inject in this cc. -/
def throttleOk (e : Endpoint) (cc : Nat) : Bool :=
  !e.injected.contains cc && decide ((e.injected.filter (fun c => decide (cc < c + 8))).length < 8 - e.level)

/-- R353, R354: whether an endpoint of a mesh may inject in this cc. -/
def mayInject (m : MeshState) (e : Endpoint) (cc : Nat) : Bool :=
  !e.stopped && !m.drain && decide (e.undelivered < 16) && throttleOk e cc

/-- R354: whether a core's requests are injected in this cc: the throttle limits the cc in which its endpoint injects, and not how
many requests do in one (log 89, DESIGN CHOICE). -/
def coreInjects (d : Dev) (core : Nat) : Bool :=
  let e := d.meshReq.endpoints.getD (coreEndpoint core) Endpoint.reset
  mayInject d.meshReq { e with injected := e.injected.filter (· != d.cc) } d.cc

/-- R354: a request of a core has gone into the mesh in this cc. -/
def noteInject (d : Dev) (core : Nat) : Dev := { d with
  meshReq := { d.meshReq with
    endpoints := updAt d.meshReq.endpoints (coreEndpoint core) (fun e =>
    { e with injected := d.cc :: e.injected.filter (fun c => decide (c != d.cc && d.cc < c + 8)) }) } }

/-- R354: whether an operation leaves the core over the mesh whatever it names. -/
def meshOp : RecOp → Bool
  | .arrival _ _ | .send _ _ | .gset _ _ _ _ | .gget _ _ | .launch _ | .ptset _ _ _ _ _ | .tlbinv _ _ _ | .pgcnt _ _
  | .discard _ _ | .wback _ _ | .inval _ _ => true
  | _ => false

/-- R354: the request of an entry goes towards the mesh: injected now, or waiting for its injection. -/
def injectRec (d : Dev) (u seq : Nat) : Dev := match d.wave u with
  | none => d
  | some v =>
    let ok := coreInjects d (d.coreOf v)
    let d := d.updWave u (fun v => v.updRec seq (fun r => { r with injected := ok }))
    if ok then noteInject d (d.coreOf v) else d

/-- R354: a request has not been injected into the mesh. -/
def uninjected (d : Dev) (u seq : Nat) : Bool := match (d.wave u).bind (fun v => v.rec_ seq) with
  | some r => !r.injected
  | none => false

/-! ## The in-flight record (R293, R390, R416) -/

/-- R293, R416: an entry can be allocated: one is free, and no live one has the next sequence value. -/
def recFree (v : Wave) : Bool := decide (v.recs.length < 24) && v.recs.all (fun r => r.seq != v.recSeq)

/-- R416, R417: the sequence value after one. -/
def nextSeq (v : Wave) : Nat := (v.recSeq + 1) % (if v.handler.isSome then 32 else 32768)

/-- An entry with nothing but what the issue gives it. -/
def Iss.recOf (s : Iss) (cls kind : Nat) (lanes : LaneMask) (op : RecOp) (accesses : List Access) : Rec :=
  { seq := s.v.recSeq, cls, kind, split := s.p.num, pc := s.p.pc, lanes, op, accesses, phys := [], state := .sent, done := 0,
    results := [], frozen := false, replaying := false, inbox := none, messages := [], at_ := s.cc,
    num := s.w.d.issueNum + 1, late := none, direct := 0, injected := true, wasHeld := false, walking := false }

/-- R293, R354: the entry allocated; of a request that leaves at once over the mesh, it is injected, or waits to be. -/
def Iss.addRec (s : Iss) (r : Rec) : Iss :=
  let leaves := meshOp r.op && r.state != .walk
  let ok := !leaves || coreInjects s.w.d s.core
  { s with
      v := { s.v with recs := s.v.recs ++ [{ r with injected := ok }], recSeq := nextSeq s.v }
      w := s.w.upd (fun d => let d := { d with issueNum := d.issueNum + 1 }
        if leaves && ok then noteInject d s.core else d) }

/-- R93: results to come, bound to the entry about to be allocated. Before its data arrives an entry holds 0, which R9 and R91
allow of its undefined value (log 68, DESIGN CHOICE). -/
def Iss.bound (s : Iss) (tags : List Ty) : List Entry :=
  (enum tags).map (fun it => { val := 0, tag := it.2, pend := .bound s.v.recSeq it.1 })

/-- The accesses of an entry not yet performed, each with the key of its first byte. -/
def Rec.todo (r : Rec) : List (Access × Nat) := (r.accesses.zip r.phys).filter (fun a => !inMask r.done a.1.lane)

/-- The lanes of an entry not yet performed, translated or not. -/
def Rec.left (r : Rec) : List Access := r.accesses.filter (fun a => !inMask r.done a.lane)

/-- Whether an entry changes bytes. -/
def Rec.writes (r : Rec) : Bool := match r.op with
  | .store _ | .atom _ _ _ | .update _ _ _ => true
  | .reduce _ _ _ clr => clr
  | _ => false

/-- R258: whether an entry is a store, `atom`, `red` or bank range. -/
def Rec.queues (r : Rec) : Bool := r.writes || (match r.op with
  | .reduce _ _ _ _ => true
  | _ => false)

/-- Whether an entry is a plain store. -/
def Rec.plain (r : Rec) : Bool := match r.op with
  | .store _ => true
  | _ => false

/-- R258: whether an entry names memory through a page: a global address, an Abacus place, or a private byte. -/
def Rec.paged (r : Rec) : Bool := r.accesses.any (fun a => match a.target with
  | .quad _ _ => false
  | _ => true)

/-- The keys of the bytes of an access whose first byte has a key. -/
def accKeys (v : Wave) (a : Access) (k : Nat) : List Nat :=
  (List.range a.bytes).map (fun i => match a.target with
    | .priv o => kPrivate v.uid (privateOffset a.lane (o + i))
    | _ => k + 8 * i)

/-- The key of an access that does not follow from a translation: of the share, or of the private region, whose bytes stay the
wave's wherever its pages lie (log 72). -/
def directKey (v : Wave) (a : Access) : Nat := match a.target with
  | .quad p o => kShare v.task p o
  | .priv o => kPrivate v.uid (privateOffset a.lane o)
  | .virt _ => 0

/-- The entries of a wave before one, in program order. -/
def before (v : Wave) (seq : Nat) : List Rec := v.recs.takeWhile (fun r => r.seq != seq)

/-- R417: the tag of a wave's record entry. -/
def tagOf (v : Wave) (seq : Nat) : Nat :=
  v.ctx % 65536 * 2 ^ 32 + v.n % 65536 * 2 ^ 16 + (match v.handler with
    | some h => 32768 + h.taskPos % 512 * 64 + h.slot % 2 * 32 + seq % 32
    | none => seq % 32768)

/-! ## Translation of an entry (R256 to R258) -/

/-- R256: the cached translation of an address: in the core's TLB, or in its die's shared cache. -/
def cached (d : Dev) (core ctx : Nat) (va : VAddr) : Option Xlat :=
  match tlbFind (d.core core) ctx va with
  | some t => some t
  | none => ((d.xcache.getD (dieOf (core / 4)) []).find? (fun e =>
      e.ctx == ctx && decide (e.page ≤ va.toNat) && decide (va.toNat < e.page + e.size))).map
      (fun e => { pte := e.pte, page := e.page, bytes := e.size })

/-- R256: a translation enters the core's TLB and its die's shared cache of 4,096 entries. -/
def cacheXlat (d : Dev) (core ctx : Nat) (t : Xlat) : Dev :=
  let d := d.updCore core (fun c => tlbAdd c ctx t)
  { d with
    xcache := updAt d.xcache (dieOf (core / 4)) (fun es =>
      ({ ctx, page := t.page, size := t.bytes, pte := t.pte } :: es.filter (fun e => !(e.ctx == ctx && e.page == t.page))).take 4096) }

/-- R256, R400: the walks of the pages of some addresses that are not cached for a wave: counted, and their translations cached. -/
def walkPages (w : Work) (v : Wave) (vas : List VAddr) : Work := match w.d.ctx v.ctx with
  | none => w
  | some c => vas.foldl (fun w va =>
    let core := w.d.coreOf v
    if (cached w.d core v.ctx va).isSome then w
    else w.upd (fun d => match walk w c va with
      | .leaf e _ _ n => cacheXlat (count d core v.ctx 15) core v.ctx (xlatOf va e n)
      | _ => count d core v.ctx 15)) w

/-- What the translation of an address meets. -/
inductive PageWay where
  | ok (t : Xlat)
  | absent
  | denied
  /-- R261: an entry of the walk is uncorrectable. -/
  | lost (key : Nat)
deriving DecidableEq, Repr

/-- R256, R257: the translation of an address, by a cached entry where one may be used, else by a walk. -/
def pageWay (w : Work) (c : Ctx) (core : Nat) (useCache : Bool) (va : VAddr) : PageWay :=
  match (if useCache then cached w.d core c.id va else none) with
  | some t => .ok t
  | none => match walk w c va with
    | .absent => .absent
    | .malformed => .denied
    | .lost k => .lost k
    | .leaf e _ _ n => .ok (xlatOf va e n)

/-- R256, R265, R303: whether an access of an entry may act through a page; an atomic operation of global memory only on an
Abacus page. -/
def allowed (r : Rec) (a : Access) (e : Word) : Bool :=
  match r.op with
  | .load _ _ _ | .wback _ _ | .inval _ _ => pteRd e
  | .store _ => pteW e
  | .discard _ _ => pteRd e && pteW e
  | .reduce _ _ _ clr => pteRd e && (!clr || pteW e) && pteType e == 3
  | _ => pteRd e && pteW e && (pteType e == 3 || !a.virtual)

/-- R233: the base of a wave's private region, on a 4 KiB page (log 72). -/
def privateBase (v : Wave) : VAddr := Config.privateBase v.ctx v.uid &&& ~~~(0xFFF : VAddr)

/-- R233: the virtual address of an access: of a private byte, in the wave's private region. -/
def Access.va (v : Wave) (a : Access) : VAddr := match a.target with
  | .virt x => x
  | .priv o => privateBase v + BitVec.ofNat 57 (privateOffset a.lane o)
  | .quad _ _ => 0

/-- The key of an access under its translation. -/
def Access.keyIn (v : Wave) (a : Access) (t : Xlat) : Nat := if a.virtual then t.key (a.va v) else directKey v a

/-- R258: whether an entry waits for its translation behind an earlier store of its wave. -/
def behindHeld (v : Wave) (r : Rec) : Bool :=
  r.queues && r.paged && (before v r.seq).any (fun e => e.writes && e.paged && (match e.state with
    | .walk | .held _ => true
    | _ => false))

/-- Whether an access is to scratchpad. -/
def Access.share (a : Access) : Bool := match a.target with
  | .quad _ _ => true
  | _ => false

/-- R304: an earlier scratchpad store of the wave is not yet performed. -/
def awaitsShare (v : Wave) (r : Rec) : Bool := match r.op with
  | .update _ _ _ => (before v r.seq).any (fun e => e.writes && e.left.any Access.share)
  | _ => false

/-- R304: the scratchpad array that an `abupd` has still to read. -/
def shareReads (v : Wave) (r : Rec) : List Access := match r.op with
  | .update _ ty n => (r.left.filter (fun a => a.data.isEmpty)).map (fun a =>
      { a with target := .quad (v.x + 12 * v.y) a.b.toNat, bytes := n * (tyWidth ty / 8) })
  | _ => []

/-! ## Which accesses meet (R264, R358) -/

/-- A run of bytes that an access names: of a memory, of a quad's share, of a lane's stack, or of the virtual addresses. -/
structure Span where
  space : Nat
  start : Nat
  bytes : Nat
deriving DecidableEq, Repr

/-- Whether two runs have a byte in common. -/
def Span.meets (a b : Span) : Bool := a.space == b.space && decide (a.start < b.start + b.bytes ∧ b.start < a.start + a.bytes)

/-- The runs of an access: of a global one, its virtual addresses and, where its translation stands, the bytes these name. -/
def spansOf (w : Work) (v : Wave) (a : Access) (key : Option Nat) : List Span := match a.target with
  | .quad p o => [{ space := 8 * p + 4, start := o, bytes := a.bytes }]
  | .priv o => [{ space := 8 * a.lane + 5, start := o, bytes := a.bytes }]
  | .virt x =>
    let k := match key, w.d.ctx v.ctx with
      | some k, _ => some k
      | none, some c => (match pageWay w c (w.d.coreOf v) false x with
        | .ok t => some (t.key x)
        | _ => none)
      | none, none => none
    { space := 7, start := x.toNat, bytes := a.bytes } ::
      (match k with
       | some k => [{ space := keyRegion k, start := keyOffset k, bytes := a.bytes }]
       | none => [])

/-- R307: the range of a cache maintenance form. -/
def maintRange : RecOp → Option (VAddr × Nat)
  | .discard a n | .wback a n | .inval a n => some (a, n)
  | _ => none

/-- The runs an entry has still to act on. -/
def Rec.spans (w : Work) (v : Wave) (r : Rec) : List Span :=
  let accs := (enum r.accesses).filter (fun ia => !inMask r.done ia.2.lane)
  accs.flatMap (fun ia => spansOf w v ia.2 r.phys[ia.1]?) ++ (shareReads v r).flatMap (fun a => spansOf w v a none) ++
  (match maintRange r.op with
   | some (a, n) => [{ space := 7, start := a.toNat, bytes := n }]
   | none => [])

/-- Whether two lists of runs have a byte in common. -/
def meet (as bs : List Span) : Bool := as.any (fun a => bs.any a.meets)

/-- R264: an earlier access of the wave names a byte of this one and has not reached its unit. -/
def behindUnsent (w : Work) (v : Wave) (r : Rec) : Bool :=
  (before v r.seq).any (fun e => (match e.state with
    | .walk | .xlate _ | .held _ | .refused _ => true
    | _ => false) && meet (e.spans w v) (r.spans w v))

/-- R304, R416: the elements of the scratchpad array of an `abupd`, read as they stand; a replayed entry keeps what it read. -/
def shareElems (w : Work) (v : Wave) (r : Rec) (a : Access) : List Byte :=
  match r.op with
  | .update _ ty n =>
    if a.data.isEmpty then (List.range (n * (tyWidth ty / 8))).map (fun i => w.byte (kShare v.task (v.x + 12 * v.y) (a.b.toNat + i)))
    else a.data
  | _ => a.data

/-- The bank of an Abacus key (R249). -/
def bankOf (k : Nat) : Nat := keyOffset k / 2 ^ 12 % 64
def abacusDie (k : Nat) : Nat := keyOffset k / 2 ^ 25 % 8

/-- R249: the 4 KiB block an Abacus byte lies in, which lies wholly in one bank. -/
def blockOf (k : Nat) : Nat := keyOffset k / 4096

/-- R249, R250: the requests of an entry to the banks its accesses name, one for each block, the lanes of each in ascending
order. -/
def bankReqs (src : Nat) (v : Wave) (r : Rec) (accs : List (Access × Nat)) : List BankReq :=
  (distinct (accs.map (fun a => blockOf a.2))).map (fun b =>
    let mine := accs.filter (fun a => blockOf a.2 == b)
    { wave := v.uid, seq := r.seq, ctx := v.ctx, launchId := v.launchId, task := v.task, tag := tagOf v r.seq,
      die := abacusDie (kAbacus (4096 * b)), bank := bankOf (kAbacus (4096 * b)), src, num := r.num, op := r.op, lanes := maskOf (mine.map (fun a => a.1.lane)), accs := mine })

/-- R259: counted requests of some lines of pages that count. The Abacus memory counts none. -/
def countLines (d : Dev) (ctx : Nat) (of_ : CountFor) (xs : List (Xlat × Nat)) : Dev :=
  let due := xs.filter (fun x => pteAc x.1.pte && !pteMg x.1.pte && pteType x.1.pte != 3)
  let lines := distinct (due.map Prod.snd)
  { d with
    counted := d.counted ++ lines.filterMap (fun l => (due.find? (fun x => x.2 == l)).map (fun x =>
      { ctx, page := x.1.page, size := x.1.bytes, of_ })) }

/-! ## The L1 (R238 to R241) -/

/-- R238: a set of 16 ways among a core's lines, the line put into it; the one installed first leaves a full set (log 77). -/
def l1Install (ls : List L1Line) (line : Nat) : List L1Line :=
  let rest := ls.filter (fun x => x.line != line)
  let set := rest.filter (fun x => x.line / 8 % 128 == line / 8 % 128)
  { line, valid := 3 } :: (if set.length < 16 then rest else rest.filter (fun x => !(set.getLast? == some x)))

/-- R238, R269: whether a core's L1 serves a sector to a task: it is present, and no other task has a store there that is not
committed. -/
def l1Serves (d : Dev) (core task k : Nat) : Bool :=
  (d.core core).l1.any (fun x => x.line == lineOf k && x.valid.getLsbD (sectorOf k / 8 % 2)) &&
  d.vers.all (fun v => v.core != core || v.task == task || sectorOf v.addr != sectorOf k)

/-- R238: whether an L1 may hold a byte of a page. -/
def l1Page (t : Xlat) : Bool := pteCache t.pte == 0 && decide (pteType t.pte < 2 ∨ (pteType t.pte = 2 ∧ pteW t.pte = false))

/-- R240: how a core's miss-status entries take the lines an access misses: the lines whose fills it starts; none while it waits
for an older fill of a line, or for entries to be free. -/
def missPlan (d : Dev) (core : Nat) (lines : List Nat) : Option (List Nat) :=
  let ms := (d.core core).misses
  let new := lines.filter (fun l => !ms.any (fun m => m.line == l))
  if ms.any (fun m => lines.contains m.line && decide (m.at_ + 16 < d.cc)) || decide (256 < ms.length + new.length) then none
  else some new

/-- R240: an access joins the fills of the lines it misses, and starts those not under way. -/
def missLines (d : Dev) (core : Nat) (lines : List Nat) (who : Option (Nat × Nat)) : Dev :=
  d.updCore core (fun c => lines.foldl (fun c l =>
    if c.misses.any (fun m => m.line == l) then
      { c with misses := updWhere (fun m => m.line == l) (fun m => { m with joined := who.toList ++ m.joined }) c.misses }
    else { c with misses := c.misses ++ [{ line := l, at_ := d.cc, epoch := c.epoch, snap := c.snap, joined := who.toList }] }) c)

/-! ## Sending an entry on (R248, R256, R258, R259) -/

/-- R243, R271: the stores of an entry whose bytes no version has room for. -/
def needsRoom (d : Dev) (v : Wave) (r : Rec) : Bool :=
  match r.op with
  | .store _ => !versionRoom d (d.coreOf v) v.task r.at_ ((r.todo.flatMap (fun a => accKeys v a.1 a.2)).filter keyPhased)
  | _ => false

/-- An access with its key and its translation. -/
structure Keyed where
  acc : Access
  key : Nat
  xlat : Xlat

/-- R238: whether an access may be served by the L1. -/
def Keyed.l1 (t : Keyed) : Bool := !t.acc.virtual || l1Page t.xlat

/-- The lines or sectors of the bytes of some accesses, each with the translation it was reached by. -/
def unitsOf (v : Wave) (f : Nat → Nat) (ts : List Keyed) : List (Xlat × Nat) :=
  ts.flatMap (fun t => (distinct ((accKeys v t.acc t.key).map f)).map (fun u => (t.xlat, u)))

/-- R278: an entry of Abacus memory waits for the `phase` of another split of its wave. -/
def behindPhase (v : Wave) (r : Rec) : Bool := v.splits.any (fun q => q.num != r.split && (match q.stage with
  | .phase _ => true
  | _ => false))

/-- R240, R248, R256, R258, R259: an entry whose pages all translate goes on: its keys are known, its requests leave, and its loads
look into the L1. None while a miss waits. -/
def sendRec (w : Work) (v : Wave) (r : Rec) (ts : List (Access × Xlat)) : Option Work :=
  match (shareReads v r).findSome? (fun a => (List.range a.bytes).findSome? (fun i =>
    let k := kShare v.task (v.x + 12 * v.y) (a.b.toNat + i)
    if lost w.d k then some k else none)) with
  | some k => some (w.upd (fun d => raise (d.updWave v.uid (fun v => v.dropRec r.seq)) (lateTrap v r.split tMemerr r.pc r.lanes (keyOffset k) 0 0)))
  | none =>
  let core := w.d.coreOf v
  let keyed := ts.map (fun t => ({ acc := { t.1 with data := shareElems w v r t.1 }, key := t.1.keyIn v t.2, xlat := t.2 } : Keyed))
  let aba := keyed.filter (fun t => keyRegion t.key == 3)
  let rest := keyed.filter (fun t => keyRegion t.key != 3)
  let load := match r.op with
    | .load _ _ _ => true
    | _ => false
  let cacheable := rest.filter (fun t => load && t.l1)
  let other := rest.filter (fun t => !(load && t.l1))
  let keys := cacheable.flatMap (fun t => accKeys v t.acc t.key)
  let hits := (distinct (keys.map sectorOf)).filter (fun s => keys.any (fun k => sectorOf k == s && l1Serves w.d core v.task k))
  let missed := cacheable.filter (fun t => (accKeys v t.acc t.key).any (fun k => !hits.contains (sectorOf k)))
  let lines := distinct (missed.flatMap (fun t => ((accKeys v t.acc t.key).filter (fun k => !hits.contains (sectorOf k))).map lineOf))
  match missPlan w.d core lines with
  | none => none
  | some new =>
    let counted := unitsOf v lineOf other ++ (unitsOf v lineOf missed).filter (fun x => new.contains x.2)
    let gone := r.accesses.filter (fun a => inMask r.done a.lane)
    let away := !(aba.isEmpty && other.isEmpty && new.isEmpty)
    let uncached := keyed.filter (fun t => keyRegion t.key == 1 && pteCache t.xlat.pte == 2)
    let r := { r with
      accesses := gone ++ keyed.map Keyed.acc
      phys := gone.map (fun _ => 0) ++ keyed.map Keyed.key
      cls := if !aba.isEmpty && r.writes || (!aba.isEmpty && r.cls == 1) then 2 else r.cls
      direct := maskOf (uncached.map (fun t => t.acc.lane))
      injected := !away || coreInjects w.d core
      state := if lines.isEmpty then .sent else .fill }
    let events (d : Dev) (n ev : Nat) : Dev := (List.range n).foldl (fun d _ => count d core v.ctx ev) d
    let w := w.upd (fun d => ts.foldl (fun d t => cacheXlat d core v.ctx t.2) d)
    let w := w.upd (fun d => holdLines d (distinct (((unitsOf v lineOf (other ++ missed)).filter (fun x => x.2 % 8 == 1 && pteCache x.1.pte != 2)).map Prod.snd)))
    let w := w.upd (fun d => countLines d v.ctx (.entry v.uid r.seq) counted)
    let w := w.upd (fun d => missLines d core lines (some (v.uid, r.seq)))
    let w := w.upd (fun d => events (events (events d hits.length 4) lines.length 5) (lines.length - new.length) 6)
    let w := w.upd (fun d => if away && r.injected then noteInject d core else d)
    some (w.upd (fun d => { d.updWave v.uid (fun x => x.updRec r.seq (fun _ => r)) with
      bankReqs := d.bankReqs ++ bankReqs core v r (aba.map (fun t => (t.acc, t.key))) }))

/-- Whether an operation names memory that the wave's own translations reach. -/
def isAccess : RecOp → Bool
  | .load _ _ _ | .store _ | .atom _ _ _ | .update _ _ _ | .reduce _ _ _ _ | .discard _ _ | .wback _ _ | .inval _ _ => true
  | _ => false

/-- The pages of a range from `a` up to `fin`: where each part starts, its bytes, and its translation. `fuel` bounds the
parts by the 4 KiB pages of the range. -/
def pagesOf (w : Work) (c : Ctx) (core : Nat) (useCache : Bool) : Nat → Nat → Nat → List (VAddr × Nat × PageWay)
  | 0, _, _ => []
  | fuel + 1, a, fin =>
    if fin ≤ a then []
    else
      let way := pageWay w c core useCache (BitVec.ofNat 57 a)
      let stop := match way with
        | .ok t => t.page + t.bytes
        | _ => (a / 4096 + 1) * 4096
      let stop := min fin (max stop (a + 1))
      (BitVec.ofNat 57 a, stop - a, way) :: pagesOf w c core useCache fuel stop fin

/-- R256, R261: the trap of an entry whose page may not be used: MEMERR where the walk met an uncorrectable entry, else PROT. -/
def wayTrap (v : Wave) (r : Rec) (way : PageWay) (lanes : LaneMask) (va : VAddr) : Trap := match way with
  | .lost k => lateTrap v r.split tMemerr r.pc lanes (keyOffset k) 0 0
  | _ => lateTrap v r.split tProt r.pc lanes va.toNat 0 0

/-- R307: the translation of a maintenance range: every page must be readable (and writable for `discard`); an untranslated
page waits; pages of the Abacus memory are skipped. -/
def xlateMaint (w : Work) (v : Wave) (c : Ctx) (r : Rec) (a : VAddr) (n : Nat) (useCache : Bool) : Work :=
  let core := w.d.coreOf v
  let parts := pagesOf w c core useCache (n / 4096 + 2) a.toNat (a.toNat + n)
  let bad := parts.find? (fun p => match p.2.2 with
    | .denied | .lost _ => true
    | .ok t => !allowed r { lane := 0, target := .virt p.1, bytes := 0, data := [], b := 0, c := 0 } t.pte
    | .absent => false)
  match bad, parts.find? (fun p => p.2.2 == .absent) with
  | some p, _ => w.upd (fun d => raise (d.updWave v.uid (fun v => v.dropRec r.seq))
      (wayTrap v r p.2.2 r.lanes p.1))
  | none, some p => postXlate (w.upd (fun d => d.updWave v.uid (fun v => v.updRec r.seq (fun r => { r with state := .xlate p.1 }))))
      (.core core) v.ctx v.n p.1
  | none, none =>
    let ok := parts.filterMap (fun p => match p.2.2 with
      | .ok t => if pteType t.pte = 3 then none else some (p.1, p.2.1, t)
      | _ => none)
    w.upd (fun d => injectRec ((ok.foldl (fun d p => cacheXlat d core v.ctx p.2.2) d).updWave v.uid (fun v => v.updRec r.seq (fun r => { r with
      state := .sent
      accesses := ok.map (fun p => { lane := (lanesOf r.lanes).headD 0, target := .virt p.1, bytes := p.2.1, data := [], b := 0, c := 0 })
      phys := ok.map (fun p => p.2.2.key p.1) }))) v.uid r.seq)

/-- R256: the translation of an entry: PROT, a wait for a translation, a hold behind a write-block, or the entry goes on. -/
def xlateRec (w : Work) (u seq : Nat) (useCache : Bool) : Option Work :=
  match w.d.wave u with
  | none => none
  | some v => match v.rec_ seq, w.d.ctx v.ctx with
    | some r, some c =>
      if r.state != .walk || r.frozen || !isAccess r.op || behindHeld v r || awaitsShare v r then none
      else match maintRange r.op with
      | some (a, n) => some (xlateMaint w v c r a n useCache)
      | none =>
        let core := w.d.coreOf v
        let ways := r.left.map (fun a => (a, pageWay w c core useCache (a.va v)))
        let bad := ways.filter (fun a => match a.2 with
          | .denied | .lost _ => true
          | .ok t => !allowed r a.1 t.pte
          | .absent => false)
        let missing := ways.filter (fun a => a.2 == .absent)
        let ts := ways.filterMap (fun a => match a.2 with
          | .ok t => some (a.1, t)
          | _ => none)
        let blocked := ts.filter (fun t => r.writes && pteWb t.2.pte)
        let park (st : RecState) : Work := w.upd (fun d => d.updWave u (fun v => v.updRec seq (fun r => { r with state := st })))
        match bad, missing, blocked with
        | a :: _, _, _ => some (w.upd (fun d => raise (d.updWave u (fun v => v.dropRec seq))
            (wayTrap v r a.2 (maskOf (bad.map (fun a => a.1.lane))) (a.1.va v))))
        | [], a :: _, _ => some (postXlate (park (.xlate (a.1.va v))) (.core (w.d.coreOf v)) v.ctx v.n (a.1.va v))
        | [], [], a :: _ => some ((park (.held (a.1.va v))).upd (fun d => d.updWave u (fun v => v.updRec seq (fun r => { r with wasHeld := true }))))
        | [], [], [] =>
          if ts.any (fun t => t.1.virtual && pteType t.2.pte == 3) && (behindUnsent w v r || behindPhase v r) then none
          else sendRec w v r ts
    | _, _ => none

/-- R256: the pages of an entry that walks start for: those of no cached translation, or, where every one has one, all. -/
def walksOf (w : Work) (v : Wave) (r : Rec) : List Nat := match w.d.ctx v.ctx with
  | none => []
  | some c =>
    let core := w.d.coreOf v
    let page (a : VAddr) : Nat := match walk w c a with
      | .leaf _ _ _ n => a.toNat / n * n
      | _ => a.toNat / 4096 * 4096
    let all := match maintRange r.op with
      | some (a, n) => (pagesOf w c core true (n / 4096 + 2) a.toNat (a.toNat + n)).map Prod.fst
      | none => r.left.map (Access.va v)
    let missed := all.filter (fun a => (cached w.d core v.ctx a).isNone)
    distinct ((if missed.isEmpty then all else missed).map page)

/-- R256, R400: the walks of an entry start once nothing earlier holds it back. -/
def beginWalk (w : Work) (u seq : Nat) : Work :=
  match (w.d.wave u).bind (fun v => (v.rec_ seq).map (fun r => (v, r))) with
  | none => w
  | some (v, r) =>
    if r.state != .walk || r.walking || r.frozen || !isAccess r.op || behindHeld v r || awaitsShare v r then w
    else
      let pages := walksOf w v r
      w.upd (fun d => (pages.foldl (fun d _ => count d (d.coreOf v) v.ctx 15) d).updWave u (fun v => v.updRec seq (fun r => { r with walking := true })))

/-- The walks of the entries of a wave that start now. -/
def beginWalks (w : Work) (u : Nat) : Work := match w.d.wave u with
  | none => w
  | some v => v.recs.foldl (fun w r => beginWalk w u r.seq) w

/-- Whether every page of an entry is in a translation cache. -/
def allCached (d : Dev) (v : Wave) (r : Rec) : Bool := r.left.all (fun a => (cached d (d.coreOf v) v.ctx (a.va v)).isSome)

/-- R257: a new entry that names pages translates at once, where the caches hold them and are used; else it walks. -/
def startRec (w : Work) (u seq : Nat) : Work :=
  match w.d.wave u with
  | none => w
  | some v => match v.rec_ seq with
    | none => w
    | some r =>
      if r.state == .walk && isAccess r.op && allCached w.d v r then
        let (b, w) := w.freeBit
        if b then (xlateRec w u seq true).getD w else beginWalk w u seq
      else beginWalk w u seq

/-! ## Performing (R263, R264, R269, R298) -/

/-- The number of a byte within an access: the byte of a target, or of a key. -/
def Access.index (a : Access) (key : Option Nat) (t : Target) (k : Nat) : Option Nat :=
  let byKey : Option Nat := match key with
    | some b => if keyRegion b = keyRegion k ∧ b ≤ k ∧ k < b + 8 * a.bytes then some ((k - b) / 8) else none
    | none => none
  match a.target, t with
  | .virt x, .virt y => if x.toNat ≤ y.toNat ∧ y.toNat < x.toNat + a.bytes then some (y.toNat - x.toNat) else byKey
  | .quad p o, .quad q i => if p = q ∧ o ≤ i ∧ i < o + a.bytes then some (i - o) else none
  | .priv o, .priv i => if o ≤ i ∧ i < o + a.bytes then some (i - o) else none
  | _, _ => none

/-- Byte `i` of an access, as a target of its own. -/
def Access.at_ (a : Access) (i : Nat) : Target := match a.target with
  | .virt x => .virt (x + BitVec.ofNat 57 i)
  | .quad p o => .quad p (o + i)
  | .priv o => .priv (o + i)

/-- R264: the byte of the wave's latest earlier store to byte `i` of an access, where that store is not yet performed; `k` is the
key of the byte. -/
def forwarded (v : Wave) (seq : Nat) (x : Access) (i k : Nat) : Option Byte :=
  (before v seq).foldl (fun b e =>
    if !e.plain then b
    else ((enum e.accesses).filter (fun ia => !inMask e.done ia.2.lane)).foldl (fun b ia =>
      if !x.virtual && !x.share && ia.2.lane != x.lane then b
      else match ia.2.index e.phys[ia.1]? (x.at_ i) k with
        | some j => some (ia.2.data.getD j 0)
        | none => b) b) none

/-- Whether some earlier entry of the wave that satisfies `p` names a byte of an entry. -/
def behind (w : Work) (v : Wave) (r : Rec) (p : Rec → Bool) : Bool :=
  (before v r.seq).any (fun e => p e && meet (e.spans w v) (r.spans w v))

/-- R258, R264, R307: what an entry waits for among the wave's earlier ones: a load for all but stores that name its bytes; any
other for every one that names its bytes, and a store into a version for the wave's earlier such stores. -/
def behindOwn (w : Work) (v : Wave) (r : Rec) : Bool :=
  match r.op with
  | .load _ _ _ => behind w v r (fun e => !e.plain)
  | _ => behind w v r (fun _ => true) ||
    (r.queues && r.paged && (before v r.seq).any (fun e => e.writes && e.paged && (match e.state with
      | .walk | .held _ => true
      | _ => false))) ||
    (r.plain && r.todo.any (fun a => keyPhased a.2) && (before v r.seq).any (fun e => e.plain && e.left.any Access.virtual))

/-- The accesses of an entry that are performed in place: all but those at Abacus banks. -/
def Rec.here (r : Rec) : List (Access × Nat) := r.todo.filter (fun a => keyRegion a.2 != 3)

/-- R358: the 64-byte sectors of other units that an entry's accesses in place name, by class: phased, or scratchpad of another
quad. -/
def Rec.sectors (v : Wave) (r : Rec) : List Nat :=
  let far (a : Access × Nat) : Bool := match a.1.target with
    | .virt _ => true
    | .quad p _ => p != v.x + 12 * v.y
    | .priv _ => false
  (r.here.filter far).flatMap (fun a => (accKeys v a.1 a.2).map sectorOf)

/-- Whether a sector lies in a part of a maintenance range, given by the key of its start. -/
def inSectors (p : Access × Nat) (s : Nat) : Bool :=
  s % 8 == keyRegion p.2 && decide (keyOffset p.2 / 64 ≤ s / 8) && decide (s / 8 < (keyOffset p.2 + p.1.bytes + 63) / 64)

/-- R358: an earlier request of the core, on its way, names a sector of an entry. -/
def behindSource (d : Dev) (v : Wave) (r : Rec) : Bool :=
  let maint := (maintRange r.op).isSome
  let mine := r.sectors v
  let meets (s : Nat) : Bool := if maint then (r.accesses.zip r.phys).any (fun p => inSectors p s) else mine.contains s
  d.waves.any (fun u => d.coreOf u == d.coreOf v && u.recs.any (fun e =>
    e.state == .sent && !e.frozen && decide (e.num < r.num) && (maintRange e.op).isNone && (e.sectors u).any meets))

/-- R294: a value of w bytes as an entry of TY holds it. -/
def extendTo (ty : Ty) (w : Nat) (x : Word) : Word :=
  match ty with
  | .i32 | .i64 => fit ty ((x.setWidth (8 * w)).signExtend 64)
  | _ => fit ty ((x.setWidth (8 * w)).setWidth 64)

/-- R264, R269, R277: the bytes of one element, those from `i` on of an access: the wave's own pending stores, else phased memory
as the entry's view and serials show it, else the bytes as they stand. -/
def readElem (w : Work) (u : Nat) (r : Rec) (views : List (Nat × Nat)) (a : Access) (i : Nat) (keys : List Nat) : List Byte × Work :=
  match w.d.wave u with
  | none => ([], w)
  | some v =>
    let own := (enum keys).map (fun jk => forwarded v r.seq a (i + jk.1) jk.2)
    if own.all Option.isSome then (own.map (fun b => b.getD 0), w)
    else
      let x := v.view w.d
      let x := { x with at_ := { x.at_ with snap := r.late.getD x.at_.snap } }
      let (bs, w) := if keys.any keyPhased then loadPhased w x views keys
        else (keys.map w.byte, w.upd (fun d => noteFlags d u keys))
      ((own.zip bs).map (fun p => p.1.getD p.2), w)

/-- R245, R247: a die that reads a line homed on another, or of a read-only remote page, may keep it as a visitor line. -/
def visit (w : Work) (v : Wave) (a : Access) (keys : List Nat) : Work :=
  let die := dieOf (w.d.posOf v)
  let far := keys.filter (fun k => keyRegion k == 2 || (keyRegion k < 2 && homeDie k != die))
  (distinct (far.map lineOf)).foldl (fun w l =>
    let (b, w) := w.freeBit
    let readOnly (c : Ctx) : Bool := match pageWay w c (w.d.coreOf v) true (a.va v) with
      | .ok t => !pteW t.pte
      | _ => false
    if !b then w
    else if l % 8 = 2 then
      (if ((w.d.ctx v.ctx).map readOnly).getD false then w.upd (fun d => { d with
          visitors := { die, line := l, ctx := v.ctx, va := (a.va v).toNat } :: d.visitors }) else w)
    else w.upd (fun d => holdLine d l (BitVec.ofNat 8 (2 ^ die)))) w

/-- R294, R295: the results of a load of n elements of w bytes. -/
def readElems (w : Work) (v : Wave) (r : Rec) (views : List (Nat × Nat)) (ty : Ty) (n wd : Nat) (a : Access) (keys : List Nat) :
    List (Word × Ty) × Work :=
  let (xs, w) := (List.range n).foldl (fun (acc : List (Word × Ty) × Work) i =>
    let (bs, w) := readElem acc.2 v.uid r views a (i * wd) ((keys.drop (i * wd)).take wd)
    (acc.1 ++ [(extendTo ty wd (BitVec.ofNat 64 (ofBytes bs)), ty)], w)) ([], w)
  (xs, visit w v a keys)

/-- R264, R266, R279, R298, R234: the bytes of a store of elements of `wd` bytes written where they go: into the version, or at
their bank. -/
def writeAcc (w : Work) (v : Wave) (at_ wd : Nat) (a : Access) (keys : List Nat) : Work :=
  let bs := keys.zip a.data
  if keys.any keyPhased then w.upd (fun d => storeElems d (d.coreOf v) v.ctx v.task v.uid at_ v.fenceAt wd bs)
  else w.stores v.storer bs

/-- One lane's access performed where no bank of the Abacus memory is concerned. -/
def performAcc (w : Work) (v : Wave) (r : Rec) (views : List (Nat × Nat)) (a : Access) (k : Nat) : List (Word × Ty) × Work :=
  let keys := accKeys v a k
  match r.op with
  | .load ty n wd => readElems w v r views ty n wd a keys
  | .store wd => ([], writeAcc w v r.at_ wd a keys)
  | .atom o ty ret =>
    let (old, w) := atomAt w v.storer o ty keys a.b a.c
    (if ret then atomResults o ty old else [], w)
  | _ => ([], w)

/-- R261: the accesses that meet an uncorrectable sector. -/
def badKeys (d : Dev) (v : Wave) (as : List (Access × Nat)) : List (Nat × Nat) :=
  as.filterMap (fun a => ((accKeys v a.1 a.2).find? (fun k => lost d k)).map (fun k => (a.1.lane, k)))

/-! ## Results (R93) -/

/-- R93, R96: an entry bound to a result takes it; it may be read from the next cc on. -/
def fillEntry (cc seq : Nat) (res : List (Word × Ty)) (e : Entry) : Entry :=
  match e.pend with
  | .bound q i => if q = seq then (match res[i]? with
      | some x => { val := fit x.2 x.1, tag := x.2, pend := if x.2 = e.tag then .fixed (cc + 1) else .tagged (cc + 1) e.tag }
      | none => e) else e
  | _ => e

/-- R93: the results of a record entry in a lane reach the entries bound to them, wherever those are. -/
def Wave.fill (v : Wave) (cc seq lane : Nat) (res : List (Word × Ty)) : Wave :=
  { v with
    lanes := updAt v.lanes lane (fun l => { l with q := l.q.map (fillEntry cc seq res), f := l.f.map (fillEntry cc seq res) })
    levels := v.levels.map (fun c => { c with queues := updAt c.queues lane (fun q => q.map (fillEntry cc seq res)) }) }

/-- R293: some lanes of an entry are performed, with their results; with the last one the entry is freed. -/
def Wave.accept (v : Wave) (cc seq : Nat) (rs : List (Nat × List (Word × Ty))) : Wave :=
  let v := rs.foldl (fun v r => v.fill cc seq r.1 r.2) v
  let v := v.updRec seq (fun r => { r with done := r.done ||| maskOf (rs.map Prod.fst), results := [] })
  match v.rec_ seq with
  | some r => if r.lanes &&& ~~~r.done = 0 then v.dropRec seq else v
  | none => v

/-! ## The departure of entries that wait for earlier ones -/

/-- R185: an `astr` of the wave issued before an entry is under way; into scratchpad, or anywhere. -/
def earlierAstr (v : Wave) (r : Rec) (scratch : Bool) : Bool :=
  v.slots.any (fun o => o.kind == .astr && decide (o.num < r.num) && (o.scratch || !scratch))

/-- R258, R279: the earlier scratchpad accesses of the wave are performed, the array of an `abupd` and the bytes of an `astr` among
them, and every earlier store that has been held. -/
def releaseOk (v : Wave) (r : Rec) : Bool :=
  (before v r.seq).all (fun e => !e.wasHeld && e.left.all (fun a => !a.share) && (shareReads v e).isEmpty) && !earlierAstr v r true

/-- R284: the earlier scratchpad and Abacus accesses of the wave are performed. -/
def sendOk (v : Wave) (r : Rec) : Bool :=
  (before v r.seq).all (fun e => e.left.all (fun a => match a.target with
    | .quad _ _ => false
    | .priv _ => true
    | .virt _ => !e.phys.isEmpty && e.todo.all (fun t => keyRegion t.2 != 3)) && (shareReads v e).isEmpty) && !earlierAstr v r false

/-- R372: the earlier `gset`s of the wave are performed. -/
def arrivalOk (v : Wave) (r : Rec) : Bool := (before v r.seq).all (fun e => match e.op with
  | .gset _ _ _ _ => false
  | _ => true)

/-- R341: the messages of a `send`, one for each lane. -/
def messagesOf (v : Wave) (r : Rec) (core handler : Nat) : List MsgReq :=
  r.messages.map (fun m => {
    wave := v.uid, seq := r.seq, core, refusedAt := none,
    msg := {
      ctx := v.ctx, launchId := v.launchId, task := v.task, sender := v.n, senderUid := v.uid, split := r.split, pc := r.pc,
      lane := m.1, handler, payload := m.2 } })

/-- R372, R374: the request of an entry to a group unit, performed from a cc on. -/
def groupReq (v : Wave) (r : Rec) (k at_ : Nat) : GroupReq :=
  { wave := v.uid, seq := r.seq, ctx := v.ctx, launchId := v.launchId, task := v.task, tag := tagOf v r.seq,
    entry := ((v.gids[k]?).map GroupRef.entry).getD 0, n := v.n, op := r.op, at_ }

/-- An entry that waits for earlier ones leaves when they are performed (R279, R284, R372, R382). -/
def departRec (d : Dev) (u seq : Nat) : Dev :=
  match d.wave u with
  | none => d
  | some v => match v.rec_ seq with
    | none => d
    | some r =>
      let go (st : RecState) : Dev :=
        let d := d.updWave u (fun v => v.updRec seq (fun r => { r with state := st }))
        if meshOp r.op then injectRec d u seq else d
      if r.state != .walk || r.frozen then d
      else match r.op with
        | .post _ _ _ | .sig _ _ | .pop _ _ => if releaseOk v r then go (.timed (d.cc + 8)) else d
        | .send core h => if sendOk v r then { go .sent with
            msgReqs := d.msgReqs ++
            (messagesOf v r core h).filter (fun m => !inMask r.done m.msg.lane) } else d
        | .arrival k _ => if arrivalOk v r then { go .sent with groupReqs := d.groupReqs ++ [groupReq v r k d.cc] } else d
        | .launch a => if r.phys.headD 0 ≤ (d.core (d.coreOf v)).committed then
            { go .sent with launchReqs := d.launchReqs ++ [{ wave := u, seq, ctx := v.ctx, addr := a, waitsOn := none, resumed := false }] } else d
        | _ => d

/-- The waiting entries of a wave that can leave. -/
def departWave (d : Dev) (u : Nat) : Dev :=
  match d.wave u with
  | none => d
  | some v => v.recs.foldl (fun d r => departRec d u r.seq) d

/-- What follows when a record entry of a wave moves on: a commit may be written, waiting entries may leave, splits may
fuse, an exited wave may be freed. -/
def settleWave (w : Work) (u : Nat) : Work :=
  match w.d.wave u with
  | none => w
  | some v => beginWalks (tryFree ((tryCommit w (w.d.coreOf v)).upd (fun d => fuseWave (departWave d u) u)) u) u

/-- R266: a cc of issue that belongs to the commit after the one in progress on a core that is still to be written, whenever the
next begins. -/
def nextGen (d : Dev) (core : Nat) : Nat := match (d.core core).boundary with
  | some b => if b.written then d.cc - 1 else b.start
  | none => d.cc - 1

/-- R271: a store that finds no room: it belongs to the next commit where it cannot stand in the one in progress, and its core
takes an early boundary for the lines none serves yet. None where it has done so. -/
def awaitRoom (w : Work) (v : Wave) (r : Rec) : Option Work :=
  let core := w.d.coreOf v
  let late := committing w.d core r.at_
  if r.state == .room && !late then askRoom w core
  else
    let w := w.upd (fun d => d.updWave v.uid (fun v => v.updRec r.seq (fun r => { r with
      state := .room, at_ := if late then nextGen d core else r.at_ })))
    some (tryCommit ((askRoom w core).getD w) core)

/-- R246, R248, R269: the serials an entry sees its sectors under: the newest, in the lanes that read the host's memory itself. -/
def entryViews (w : Work) (v : Wave) (r : Rec) : List (Nat × Nat) × Work :=
  match r.op with
  | .load _ _ _ =>
    let keys := r.here.flatMap (fun a => accKeys v a.1 a.2)
    let x := v.view w.d
    let direct := (r.here.filter (fun a => inMask r.direct a.1.lane)).flatMap (fun a => (accKeys v a.1 a.2).map sectorOf)
    sectorViews w { x with at_ := { x.at_ with snap := r.late.getD x.at_.snap }, direct } keys
  | _ => ([], w)

/-- R259: a counted request has not reached its LLC slice or the host bridge. -/
def counting (d : Dev) (x : CountFor) : Bool := d.counted.any (fun c => c.of_ == x)

/-- R263: an entry's accesses outside the banks performed; none where they must wait. -/
def performRec (w : Work) (v : Wave) (r : Rec) : Option Work :=
  let as := r.here
  if (r.state != .sent && r.state != .room) || r.frozen || !r.injected || as.isEmpty || counting w.d (.entry v.uid r.seq) then none
  else if behindOwn w v r || behindSource w.d v r then none
  else match badKeys w.d v (if r.plain then [] else as) with
    | b :: bs => some (w.upd (fun d => raise (d.updWave v.uid (fun v => v.dropRec r.seq))
        (lateTrap v r.split tMemerr r.pc (maskOf ((b :: bs).map Prod.fst)) (keyOffset b.2) 0 0)))
    | [] =>
      if needsRoom w.d v r then awaitRoom w v r
      else
        let (views, w) := entryViews w v r
        let (rs, w) := as.foldl (fun (acc : List (Nat × List (Word × Ty)) × Work) a =>
          let (x, w) := performAcc acc.2 v r views a.1 a.2
          (acc.1 ++ [(a.1.lane, x)], w)) ([], w)
        some (settleWave (w.upd (fun d => d.updWave v.uid (fun v => v.accept d.cc r.seq rs))) v.uid)

/-! ## Cache maintenance (R307 to R310) -/

/-- Whether a key lies in a part of a range. -/
def inPart (a : Access × Nat) (k : Nat) : Bool :=
  keyRegion k == keyRegion a.2 && decide (a.2 ≤ k) && decide (k < a.2 + 8 * a.1.bytes)

/-- R308: what becomes of the dirty sectors of a discarded range: each holds again what memory holds, or, where its
write-back is queued, has been written back; none holds a mix. What the others hold again is a commit of its own. -/
def discardDirty (w : Work) (ps : List (Access × Nat)) : Work :=
  let mine (k : Nat) : Bool := ps.any (fun p => inPart p k)
  let cells := w.d.dirty.filter (fun c => mine c.key)
  let w := w.upd (fun d => { d with commitSerial := d.commitSerial + 1 })
  let w := (distinct (cells.map (fun c => sectorOf c.key))).foldl (fun w s =>
    let (queued, w) := w.freeBit
    if queued then w else (cells.filter (fun c => sectorOf c.key == s)).foldl (fun w c =>
      w.home (.plain w.d.commitSerial 290 c.key) none c.old) w) w
  w.upd (fun d => { d with dirty := d.dirty.filter (fun c => !mine c.key) })

/-- R261, R309: the write-back of some dirty lines: a sector of them found uncorrectable raises MEMERR against the task that wrote
it. -/
def writeBack (d : Dev) (line : Nat → Bool) : Dev :=
  let mine := d.dirty.filter (fun c => line (lineOf c.key))
  let owners := distinct ((mine.filter (fun c => lost d c.key)).filterMap DirtyByte.task)
  let addr (t : Nat) : Nat := (((mine.filter (fun c => lost d c.key)).find? (fun c => c.task == some t)).map DirtyByte.key).getD 0
  owners.foldl (fun d t => taskTrap d t tMemerr (keyOffset (addr t)))
    { d with dirty := d.dirty.filter (fun c => !line (lineOf c.key)) }

/-- R307 to R310: a maintenance form performed over its translated parts. Of a remote page only the read-only visitor lines
are concerned, which hold no bytes of their own. -/
def performMaint (w : Work) (v : Wave) (r : Rec) : Work :=
  let ps := r.accesses.zip r.phys
  let core := w.d.coreOf v
  let inLine (l : Nat) (p : Access × Nat) : Bool := l % 8 == keyRegion p.2 &&
    decide (keyOffset p.2 / 128 ≤ l / 8) && decide (l / 8 < (keyOffset p.2 + p.1.bytes + 127) / 128)
  let mine (l : Nat) : Bool := ps.any (inLine l)
  let dropL1 (d : Dev) : Dev := d.updCore core (fun c => { c with l1 := c.l1.filter (fun s => !mine s.line) })
  let visitors (d : Dev) (all : Bool) : List Visitor :=
    d.visitors.filter (fun x => !(mine x.line && (all || x.die == dieOf (core / 4))))
  let w := match r.op with
    | .discard _ _ =>
      (discardDirty w ps).upd (fun d =>
        refresh { dropL1 d with
          dirs := d.dirs.filter (fun x => !mine x.line)
          visitors := visitors d true
          vers := d.vers.filter (fun x => !(x.core == core && x.task == v.task && mine (lineOf x.addr) && keyRegion x.addr != 2)) }
          (fun l => decide (l % 8 < 2) && mine l))
    | .wback _ _ => w.upd (fun d => writeBack d mine)
    | _ => w.upd (fun d =>
        refresh { dropL1 d with
          visitors := visitors d false
          dirs := d.dirs.map (fun (x : Dir) => if mine x.line then
            { x with presence := x.presence &&& ~~~(BitVec.ofNat 8 (2 ^ dieOf (core / 4))), held := x.held && x.line % 8 != 1 } else x) }
          (fun l => l % 8 == 1 && mine l))
  settleWave (w.upd (fun d => d.updWave v.uid (fun v => v.dropRec r.seq))) v.uid

/-- Whether a maintenance form may be performed: the wave's earlier accesses of its range are, and those of its core on their way
(R264, R358). -/
def maintReady (w : Work) (v : Wave) (r : Rec) : Bool := r.state == .sent && r.injected && !behindOwn w v r && !behindSource w.d v r

/-- R418: the acknowledgments of an accepted reply, to every unit that keeps an entry of it. -/
def acksFor (d : Dev) (launchId tag : Nat) : List Ack :=
  (d.filters.filter (fun f => f.launchId == launchId && f.tag == tag && f.step == 0)).foldl (fun (as : List Ack) f =>
    if as.any (fun a => a.unit == f.unit) then as else as ++ [{ unit := f.unit, launchId, tag, step := 0 }]) []

/-- R93, R411, R418: the replies of an entry accepted; class I2 units are acknowledged. -/
def acceptReplies (w : Work) (v : Wave) (r : Rec) : Work :=
  let w := w.upd (fun d => { d with acks := d.acks ++ (if r.cls = 2 then acksFor d v.launchId (tagOf v r.seq) else []) })
  settleWave (w.upd (fun d => d.updWave v.uid (fun v => v.accept d.cc r.seq r.results))) v.uid

/-- The results a unit returns for some lanes of an entry. -/
def reply (d : Dev) (u seq : Nat) (rs : List (Nat × List (Word × Ty))) : Dev :=
  d.updWave u (fun v => v.updRec seq (fun r => { r with results := r.results ++ rs }))

end Sys2Proof.Machine
end

