-- ==== Sys2Proof/Machine/MemoryInstr.lean ====
section
/-! DEFINITION. Majors 0xA0 to 0xA3 and 0xB0: the issue of the memory instructions (spec/11), and the waits of `phase` and of
the fences (spec/10 R274 to R283). What an issued access does later is in Access.lean, Arrivals.lean and MemorySteps.lean. -/

namespace Sys2Proof.Machine

/-! ## The issue of an access -/

/-- R289: the place word of a form of majors 0xA0 to 0xA2. -/
def memPlace (f : Form) : Option Place := if f.pl then formPlace f else none

/-- R290, R291: the addresses of the active lanes, judged. -/
def Iss.addresses (s : Iss) (align : Nat) : Addressed :=
  judge (s.active.map (fun l => (l, resolve s.w.d s.v s.f.sp (memPlace s.f) (opnd (s.vals l) 0) s.f.disp))) align


/-- The runs of virtual addresses whose bytes an entry writes from its core: of a private byte, in the wave's private region. -/
def storeParts (v : Wave) (r : Rec) : List (VAddr × Nat) :=
  if !r.writes then []
  else r.accesses.flatMap (fun a => match a.target with
    | .virt x => [(x, a.bytes)]
    | .priv o => (List.range a.bytes).map (fun i => ({ a with target := .priv (o + i) }.va v, 1))
    | .quad _ _ => [])

/-- R430: what the writes of an entry meet at the core's watchpoints. -/
def Rec.watched (w : Work) (v : Wave) (r : Rec) : Watched :=
  Machine.watched w v (storeParts v r) (fun e => r.accesses.all (fun a => allowed r a e))

/-- R271: whether the versions have no room for a store whose pages are cached. -/
def storeFull (w : Work) (v : Wave) (r : Rec) : Bool :=
  r.plain &&
    let core := w.d.coreOf v
    !versionRoom w.d core v.task r.at_ (r.accesses.flatMap (fun a => match a.target with
      | .virt x => (match cached w.d core v.ctx x with
        | some t => (accKeys v a (t.key x)).filter keyPhased
        | none => [])
      | _ => []))

/-- R271: a store finds its core's versions full: it waits, and the core takes an early boundary for the lines none serves yet. -/
def Iss.full (s : Iss) : Work := (askRoom (s.wait 6) s.core).getD (s.wait 6)

/-- R279: whether an access is to scratchpad or phased memory: not to private bytes, nor to a page of the Abacus memory. -/
def softAccess (w : Work) (v : Wave) (r : Rec) : Bool :=
  (maintRange r.op).isSome || !(shareReads v r).isEmpty || r.accesses.any (fun a => match a.target with
    | .quad _ _ => true
    | .priv _ => false
    | .virt x => (match w.d.ctx v.ctx with
      | none => true
      | some c => match pageWay w c (w.d.coreOf v) false x with
        | .ok t => pteType t.pte != 3
        | _ => true))

/-- R276, R279, R372: the class in which an access waits for another split of its wave. -/
def Iss.heldBy (s : Iss) (r : Rec) : Option Nat := s.v.hold s.p.num (softAccess s.w s.v r)

/-- R293, R430: an access issues: its entry is allocated, its results are bound, and it goes on its way; a core-side watchpoint
may stop the split after it, or keep it from issuing until it is known whether it traps. -/
def Iss.access (s : Iss) (tags : List Ty) (r : Rec) : Work :=
  match s.heldBy r with
  | some c => s.wait c
  | none =>
    if storeFull s.w s.v r then s.full
    else if !recFree s.v then s.wait 10
    else match r.watched s.w s.v with
    | .wait va => s.waitPage va
    | x =>
      let seq := s.v.recSeq
      let es := s.bound tags
      let s := (s.pop.addRec r).deliver s.active tags (fun _ => es)
      startRec (match x with
        | .hit a => s.softTrap tWatch (s.v.ctx % 65536) a
        | _ => s.done) s.v.uid seq

/-- An access instruction of majors 0xA0 to 0xA2: with no active lane it makes no access (R292); else its addresses are
judged and its accesses made. -/
def Iss.memOp (s : Iss) (cls kind width : Nat) (tags : List Ty) (op : RecOp) (fill : Iss → Nat → Access → Access) : Work :=
  if s.active.isEmpty then (s.deliver [] tags (fun _ => [])).done
  else match s.addresses width with
    | .trap code lanes addr => s.trapAt code s.p.pc lanes 0 addr
    | .targets ts =>
      let as := ts.map (fun t => fill s t.1 { lane := t.1, target := t.2, bytes := width, data := [], b := 0, c := 0 })
      let r := s.recOf cls kind (maskOf s.active) op as
      let near := as.all (fun a => match a.target with
        | .quad p _ => p == s.v.x + 12 * s.v.y
        | _ => false)
      s.access tags (if as.all Access.share then
        { r with phys := as.map (directKey s.v), injected := near || coreInjects s.w.d s.core } else { r with state := .walk })

/-- R289: the bytes an element of `ld` or `st` moves. -/
def moveBytes (f : Form) : Nat := match f.nw with
  | 1 => 1
  | 2 => 2
  | _ => tyWidth f.ty / 8

/-! ## Loads (R294 to R297) -/

/-- R294: `ld`. -/
def ldOp (s : Iss) : Work :=
  s.gated s.active [addressTags s.f.sp s.f.pl] (fun s =>
    s.memOp 0 0 (moveBytes s.f) [s.f.ty] (.load s.f.ty 1 (moveBytes s.f)) (fun _ _ a => a))

def execLd (f : Form) (st : State) : Host.Outcome State Fault Refusal := st.issue (.ld f) ldOp

/-- R295: `ldv`. -/
def ldvOp (s : Iss) : Work :=
  let k := tyWidth s.f.ty / 8
  s.gated s.active [addressTags s.f.sp s.f.pl] (fun s =>
    s.memOp 0 0 (s.f.cnt * k) (List.replicate s.f.cnt s.f.ty) (.load s.f.ty s.f.cnt k) (fun _ _ a => a))

def execLdv (f : Form) (st : State) : Host.Outcome State Fault Refusal := st.issue (.ldv f) ldvOp

/-- R296: `ldp`: the captured parameter block. -/
def ldpOp (s : Iss) : Work :=
  let off := bits s.f.x13 0 12
  let k := tyWidth s.f.ty / 8
  s.guardGate (fun s =>
    let (ps, size) := match s.w.d.launchOf s.v with
      | some l => (l.params, l.paramBytes)
      | none => ([], 0)
    if s.active.isEmpty then (s.deliver [] [s.f.ty] (fun _ => [])).done
    else if off % k ≠ 0 then s.trap tAlign (maskOf s.active)
    else if size < off + k then s.trap tBounds (maskOf s.active)
    else
      let x := BitVec.ofNat 64 (ofBytes ((List.range k).map (fun i => ps.getD (off + i) 0)))
      (s.deliver s.active [s.f.ty] (fun _ => [s.entry 28 (x, s.f.ty)])).done)

def execLdp (f : Form) (st : State) : Host.Outcome State Fault Refusal := st.issue (.ldp f) ldpOp

/-- R259, R297: one prefetched line: dropped where it cannot be filled; counted where a request for it reaches the LLC, which of a
hit, a fill under way and a line asked for already none does, and of one that its page keeps out of the L1 alone one does
(log 90). -/
def prefetch (w : Work) (v : Wave) (l1 : Bool) (va : VAddr) : Work :=
  match w.d.ctx v.ctx with
  | none => w
  | some c =>
    let core := w.d.coreOf v
    match pageWay w c core true va with
    | .ok t =>
      let k := t.key va
      let ms := (w.d.core core).misses
      if !pteRd t.pte || pteType t.pte == 3 then w
      else if l1 then
        (if pteCache t.pte == 1 then w.upd (fun d => countLines d v.ctx CountFor.free [(t, lineOf k)])
        else if !l1Page t || l1Serves w.d core v.task k || ms.any (fun m => m.line == lineOf k) || decide (256 ≤ ms.length) then w
        else w.upd (fun d => missLines (countLines d v.ctx CountFor.free [(t, lineOf k)]) core [lineOf k] none))
      else if pteCache t.pte == 2 then w
      else w.upd (fun d => countLines d v.ctx CountFor.free [(t, lineOf k)])
    | _ => w

/-- R297: `pref`. -/
def prefOp (s : Iss) : Work :=
  s.gated s.active [[.ptr]] (fun s =>
    let vas := s.active.map (fun l => BitVec.ofInt 57 (Int.ofNat (opnd (s.vals l) 0).toNat + s.f.disp))
    let lines := (enum vas).filter (fun iv => (vas.take iv.1).all (fun x => x.toNat / 128 != iv.2.toNat / 128))
    lines.foldl (fun w iv => prefetch w s.v (s.f.nw == 0) iv.2) s.pop.done)

def execPref (f : Form) (st : State) : Host.Outcome State Fault Refusal := st.issue (.pref f) prefOp

/-! ## Stores (R298, R299) -/

/-- R298: the tags of a stored value. -/
def valueTags (t : Ty) : List Ty := match t with
  | .raw => []
  | .i32 | .n32 | .i64 | .n64 | .ptr | .mask => intTags t
  | _ => [t]

/-- R298: `st`. -/
def stOp (s : Iss) : Work :=
  s.gated s.active [addressTags s.f.sp s.f.pl, valueTags s.f.ty] (fun s =>
    s.memOp 1 1 (moveBytes s.f) [] (.store (moveBytes s.f)) (fun s l a => { a with data := toBytes (moveBytes s.f) (opnd (s.vals l) 1).toNat }))

def execSt (f : Form) (st : State) : Host.Outcome State Fault Refusal := st.issue (.st f) stOp

/-- R299: element i of the values of `stv`. -/
def stvEntry (f : Form) (l : Lane) (i : Nat) : Entry := match f.sb with
  | .age j => l.q.getD (j.val + f.cnt - 1 - i) Entry.empty
  | .frame j => l.f.getD (j.val + i) Entry.empty
  | _ => Entry.empty

/-- R299: the values of `stv` in a lane. -/
def Iss.stvEntries (s : Iss) (l : Nat) : List Entry := (List.range s.f.cnt).map (stvEntry s.f (s.v.lane l))

/-- R73, R94, R256, R299, R395: what the sources of `stv` pose, its address and every value. -/
def Iss.stvGate (s : Iss) : Gate :=
  let act := s.active
  let addr (l : Nat) : Word × Ty := (s.vals l).getD 0 (0, .empty)
  let held := act.flatMap (fun l => (s.srcs.map (fun q => entryAt (s.v.lane l) q.1) ++ s.stvEntries l).filter (fun e => e.pending s.cc))
  if guardPending s.cc s.v s.p s.f then .wait 1
  else match lowestClass (if held.isEmpty then none else some (if held.all (fun e => e.stalled s.v) then 12 else 1))
      (!act.isEmpty && inboxShort s.cc s.v s.srcs) with
  | some c => .wait c
  | none =>
    let empty := act.filter (fun l => (addr l).2 == .empty || (s.stvEntries l).any (fun e => e.tag == .empty))
    let bad := act.filter (fun l => !tagOk (addressTags s.f.sp s.f.pl) (addr l).2 ||
      (s.stvEntries l).any (fun e => !tagOk (valueTags s.f.ty) e.tag))
    if !empty.isEmpty then .trap tQempty (maskOf empty)
    else if !bad.isEmpty then .trap tTag (maskOf bad)
    else .ready

/-- R299: `stv`. -/
def stvOp (s : Iss) : Work :=
  let k := tyWidth s.f.ty / 8
  match s.stvGate with
  | .wait c => s.wait c
  | .trap c m => s.trap c m
  | .ready => s.memOp 1 1 (s.f.cnt * k) [] (.store k) (fun s l a =>
      { a with data := (s.stvEntries l).flatMap (fun e => toBytes k e.val.toNat) })

def execStv (f : Form) (st : State) : Host.Outcome State Fault Refusal := st.issue (.stv f) stvOp

/-! ## Atomics and reductions (R300) -/

/-- R300: `atom`. -/
def atomOp (o : AtomOp) (s : Iss) : Work :=
  let t := s.f.ty
  s.gated s.active [addressTags s.f.sp s.f.pl, valueTags t, valueTags t] (fun s =>
    s.memOp 2 2 (atomBytes o t) (if o == .xadd then [.raw, .raw] else [t]) (.atom o t true) (fun s l a =>
      { a with b := opnd (s.vals l) 1, c := opnd (s.vals l) 2 }))

def execAtom (o : AtomOp) (f : Form) (st : State) : Host.Outcome State Fault Refusal := st.issue (.atom o f) (atomOp o)

/-- R300: `red`. -/
def redMemOp (o : AtomOp) (s : Iss) : Work :=
  let t := s.f.ty
  s.gated s.active [addressTags s.f.sp s.f.pl, valueTags t] (fun s =>
    s.memOp 2 2 (atomBytes o t) [] (.atom o t false) (fun s l a => { a with b := opnd (s.vals l) 1 }))

def execRed (o : AtomOp) (f : Form) (st : State) : Host.Outcome State Fault Refusal := st.issue (.red o f) (redMemOp o)

/-! ## Bank ranges (R303 to R305) -/

/-- R292: an instruction that reads its operands in the lowest active lane and acts once for the wave; with no active lane
it only pushes its zeros. -/
def Iss.onceOp (s : Iss) (accs : List (List Ty)) (tags : List Ty) (k : Iss → List (Word × Ty) → Work) : Work :=
  if guardPending s.cc s.v s.p s.f then s.wait 1
  else match s.active with
    | [] => (s.deliver [] tags (fun _ => [])).done
    | l :: _ => s.gated [l] accs (fun s => k s (s.vals l))

/-- R303: a range crosses a 4 KiB block. -/
def crosses (t : Target) (n : Nat) : Bool := decide (4096 < t.low % 4096 + n)

/-- R303: the element stride of a range. -/
def rangeStride (o : AtomOp) (t : Ty) : Nat := atomBytes o t

/-- R303: the target of a range and its checks; `share` is the array of an `abupd`, where it has one. -/
def rangeTarget (s : Iss) (x : Word) (o : AtomOp) (share : Option Nat) : Addressed :=
  let k := tyWidth s.f.ty / 8
  let bytes := s.f.rangeN * rangeStride o s.f.ty
  match judge [(0, resolve s.w.d s.v 0 (formPlace s.f) x 0)] 1 with
  | .trap c _ a => .trap c 0 a
  | .targets ts =>
    let t := (ts.headD (0, .virt 0)).2
    let beyond := match share with
      | some b => decide (shareSize s.w.d s.v s.v.x s.v.y < b + s.f.rangeN * k)
      | none => false
    let crooked := match share with
      | some b => decide (b % k ≠ 0)
      | none => false
    if beyond then .trap tBounds 0 0
    else if t.low % rangeStride o s.f.ty ≠ 0 || crosses t bytes then .trap tAlign 0 t.va
    else if crooked then .trap tAlign 0 0
    else .targets ts

/-- R303: a bank range issues. -/
def rangeOp (s : Iss) (cls : Nat) (tags : List Ty) (op : RecOp) (o : AtomOp) (x b : Word) (share : Option Nat) (lanes : LaneMask) : Work :=
  match rangeTarget s x o share with
  | .trap c m a => s.trapAt c s.p.pc m 0 a
  | .targets ts =>
    let a : Access := {
      lane := (s.active.headD 0), target := (ts.headD (0, .virt 0)).2, bytes := s.f.rangeN * rangeStride o s.f.ty,
      data := [], b, c := 0 }
    s.access tags { s.recOf cls 3 lanes op [a] with state := .walk }

/-- R304: `abupd`. -/
def abupdOp (s : Iss) : Work :=
  let o := (atomOfCode s.f.rangeOp).getD .add
  s.onceOp [addressTags 0 s.f.imm.isSome, countTags] [] (fun s xs =>
    rangeOp s 2 [] (.update o s.f.ty s.f.rangeN) o (opnd xs 0) (opnd xs 1) (some (opnd xs 1).toNat) (maskOf (s.active.take 1)))

def execAbupd (f : Form) (st : State) : Host.Outcome State Fault Refusal := st.issue (.abupd f) abupdOp

/-- R305: `abred`. -/
def abredOp (s : Iss) : Work :=
  let o := (atomOfCode s.f.rangeOp).getD .add
  s.onceOp [addressTags 0 s.f.imm.isSome] [s.f.ty] (fun s xs =>
    rangeOp s (if s.f.clr then 2 else 0) [s.f.ty] (.reduce o s.f.ty s.f.rangeN s.f.clr) o (opnd xs 0) 0 none (maskOf s.active))

def execAbred (f : Form) (st : State) : Host.Outcome State Fault Refusal := st.issue (.abred f) abredOp

/-! ## Fences and phases (R274 to R283) -/

/-- R276: the scope from which a fence awaits an access of an entry that no load's value depends on, by where its bytes lie. -/
def scopeOf (d : Dev) (v : Wave) (a : Access) (key : Option Nat) : Nat :=
  let die := dieOf (d.posOf v)
  match a.target with
  | .quad p _ => if p = v.x + 12 * v.y then 2
      else (match d.task v.task with
        | some t => if dieOf (t.pos (p % 12) (p / 12)) = die then 3 else 4
        | none => 4)
  | .virt _ => (match key with
      | some k => if keyRegion k = 3 ∧ abacusDie k ≠ die then 4 else 3
      | none => 3)
  | .priv _ => 0

/-- R276: whether an access still under way is awaited by a fence of a scope. -/
def awaited (d : Dev) (v : Wave) (scope : Nat) (r : Rec) : Bool :=
  let left := (enum r.accesses).filter (fun ia => !inMask r.done ia.2.lane)
  match r.op with
  | .load _ _ _ | .store _ | .atom _ _ true | .reduce _ _ _ _ => true
  | .atom _ _ false => left.any (fun ia => decide (scopeOf d v ia.2 r.phys[ia.1]? ≤ scope))
  | .update _ _ _ => left.any (fun ia => decide (scopeOf d v ia.2 r.phys[ia.1]? ≤ scope)) ||
      (shareReads v r).any (fun a => decide (scopeOf d v a none ≤ scope))
  | .discard _ _ | .wback _ _ | .inval _ _ => decide (1 ≤ scope)
  | _ => false

/-- R185, R276: what a fence that begins now waits for: record entries, and tile stores. -/
def fenceSet (d : Dev) (v : Wave) (scope : Nat) : List Nat × List Nat :=
  ((v.recs.filter (awaited d v scope)).map Rec.seq,
   (v.slots.filter (fun o => o.kind == .astr)).map OpSlot.order)

/-- R276: whether what a fence waits for is performed. -/
def fenceDone (v : Wave) (recs slots : List Nat) : Bool :=
  recs.all (fun q => (v.rec_ q).isNone) && slots.all (fun o => v.slots.all (fun x => x.order != o))

/-- R256: the class of a wait of a fence: replay where all it still waits for waits on an absent or write-blocked page. -/
def fenceClass (v : Wave) (recs slots : List Nat) (cls : Nat) : Nat :=
  if slots.all (fun o => v.slots.all (fun x => x.order != o)) && (recs.filterMap v.rec_).all (fun r => match r.state with
    | .xlate _ | .held _ => true
    | _ => false) then 12 else cls

/-- The stage of the issuing split. -/
def Iss.stage (s : Iss) (x : Stage) : Iss := { s with p := { s.p with stage := x } }

/-- R256, R276: the fence part of an instruction: it notes, at a stage of its own, what to wait for, and waits for that. -/
def Iss.fenced (s : Iss) (scope cls : Nat) (stage : List Nat → List Nat → Stage) (k : Iss → Work) : Work :=
  let (rs, os) := match s.p.stage with
    | .fence rs os | .phaseFence rs os => (rs, os)
    | _ => fenceSet s.w.d s.v scope
  if fenceDone s.v rs os then k s else (s.stage (stage rs os)).wait (fenceClass s.v rs os cls)

/-- R277: the wave's fence orders its accesses. -/
def Iss.ordered (s : Iss) : Iss := { s with v := s.v.ordered s.w.d }

/-- R276: `fence`. -/
def fenceOp (s : Iss) : Work :=
  let scope := bits s.f.x13 0 3
  s.fenced scope 6 .fence (fun s =>
    let s := if scope = 0 then s else s.ordered
    s.goto s.next (if s.p.stage == .idle then 4 else 1) {})

def execFence (f : Form) (st : State) : Host.Outcome State Fault Refusal := st.issue (.fence f) fenceOp

/-- R266, R267: the split asks for a boundary of its core, and waits at a stage for it. -/
def Iss.boundary (s : Iss) (entry : Bool) (cls : Nat) (stage : Nat → Stage) : Work :=
  let (w, n) := requestBoundary (s.wait cls) s.core entry
  w.upd (fun d => d.updWave s.v.uid (fun v => v.updSplit s.p.num (fun p => { p with stage := stage n })))

/-- R274: the phase number after one more phase. Handler waves have none. -/
def phaseNext (v : Wave) : Nat := if v.handler.isSome then v.phase else (v.phase + 1) % 2 ^ 32

/-- R275, R278, R306: `phase`: the allowance, a domain fence, a boundary. -/
def phaseOp (s : Iss) : Work :=
  match s.p.stage with
  | .phase b =>
    if b ≤ (s.w.d.core s.core).entered then ({ s.ordered with v := { s.ordered.v with phase := phaseNext s.v } } : Iss).done
    else s.wait 6
  | .phaseFence _ _ => s.fenced 5 6 .phaseFence (fun s => s.boundary true 6 .phase)
  | _ => if !allowanceOk s.w.d s.v then s.wait 6 else s.fenced 5 6 .phaseFence (fun s => s.boundary true 6 .phase)

def execPhase (f : Form) (st : State) : Host.Outcome State Fault Refusal := st.issue (.phase f) phaseOp

/-- R266, R267: a split that needs an entry of its core: served by a commit in progress, done now, or asked for again. -/
def Iss.enterOwn (s : Iss) (cls : Nat) (waiting : Option Nat → Stage) (k : Iss → Work) : Work :=
  match requestEntry s.w.d s.core with
  | (d, some b, _) => ({ s with w := { s.w with d } }.stage (waiting (some b))).wait cls
  | (d, none, true) => k { s with w := { s.w with d }, v := { s.v with seen := [], seenStores := [], awaitsEntry := false } }
  | (_, none, false) => (s.stage (waiting none)).wait cls

/-- R282: `fencesc`: a fence, a commit, a tick, an entry. The tick and the guard pass in PACKAGE_TICK, DOMAIN_TICK and
FENCESC_GUARD_EXPIRY. -/
def fencescOp (s : Iss) : Work :=
  let scope := bits s.f.x13 0 3
  match s.p.stage with
  | .scCommit _ _ | .scTick _ _ | .scGuard _ => s.wait 7
  | .scEntry (some b) => if b ≤ (s.w.d.core s.core).entered then s.ordered.done else s.wait 7
  | .scEntry none => s.enterOwn 7 .scEntry (fun s => s.ordered.done)
  | _ => s.fenced (max 5 scope) 7 .fence (fun s => s.boundary false 7 (fun b => .scCommit b scope))

def execFencesc (f : Form) (st : State) : Host.Outcome State Fault Refusal := st.issue (.fencesc f) fencescOp

/-! ## Cache maintenance (R307) -/

/-- R307: `discard`, `wback` and `inval`. -/
def maintOp (op : VAddr → Nat → RecOp) (s : Iss) : Work :=
  s.onceOp [[.ptr], [.n32, .n64]] [] (fun s xs =>
    let a := addrOf (opnd xs 0)
    let n := (opnd xs 1).toNat
    if a.toNat % 128 ≠ 0 ∨ n % 128 ≠ 0 then s.trapAt tAlign s.p.pc 0 0 a.toNat
    else if 2 ^ 32 < n then s.trapAt tBounds s.p.pc 0 0 a.toNat
    else if n = 0 then s.pop.done
    else s.access [] { s.recOf 0 14 (maskOf (s.active.take 1)) (op a n) [] with state := .walk })

def execDiscard (f : Form) (st : State) : Host.Outcome State Fault Refusal := st.issue (.discard f) (maintOp .discard)
def execWback (f : Form) (st : State) : Host.Outcome State Fault Refusal := st.issue (.wback f) (maintOp .wback)
def execInval (f : Form) (st : State) : Host.Outcome State Fault Refusal := st.issue (.inval f) (maintOp .inval)

end Sys2Proof.Machine
end

