-- ==== Sys2Proof/Machine/Buffers.lean ====
section
/-! DEFINITION. What a task holds in a quad (spec/12): circular buffers (R316 to R320), the spare pool (R322, R323), stage
rings (R324, R325), tensor descriptors (R326 to R328), the entries of a chain (R329), and inbox slots (R105). -/

namespace Sys2Proof.Machine

/-! ## The quad of a task -/

/-- The index in `Task.quads` of a rectangle place x + 12y. -/
def placeIndex (d : Dev) (t : Task) (pos : Nat) : Nat := match d.launch t.ctx t.launchId with
  | some l => pos / 12 * l.w + pos % 12
  | none => 0

/-- What a task holds at a rectangle place. -/
def taskQuad (d : Dev) (task pos : Nat) : Option TaskQuad := (d.task task).bind (fun t => t.quads[placeIndex d t pos]?)

/-- The same changed. -/
def updTaskQuad (d : Dev) (task pos : Nat) (f : TaskQuad → TaskQuad) : Dev :=
  d.updTask task (fun t => { t with quads := updAt t.quads (placeIndex d t pos) f })

/-- The logical quad of a rectangle place. -/
def quadAt (d : Dev) (task pos : Nat) : Nat := match d.task task with
  | some t => t.pos (pos % 12) (pos / 12)
  | none => 0

/-- The rectangle place of a wave. -/
def Wave.place (v : Wave) : Nat := v.x + 12 * v.y

/-- A buffer of a task at a place. -/
def bufAt (d : Dev) (task pos n : Nat) : Option Buf := (taskQuad d task pos).bind (fun q => q.bufs[n]?)

def updBuf (d : Dev) (task pos n : Nat) (f : Buf → Buf) : Dev :=
  updTaskQuad d task pos (fun q => { q with bufs := updAt q.bufs n f })

/-! ## Circular buffers (R316 to R320) -/

/-- R320: the slot and the share offset at a map position. -/
def Buf.slotAt (b : Buf) (i : Nat) : Nat := b.map.getD (i % b.count) 0
def Buf.offsetAt (b : Buf) (i : Nat) : Nat := b.offsets.getD (b.slotAt i) 0

/-- R317: the slots in map order from the head. -/
def Buf.order (b : Buf) : List Nat := (List.range b.count).map (fun i => b.slotAt (b.head + i))

/-- R317: filled is the run of published slots at the head. -/
def Buf.refill (b : Buf) : Buf :=
  { b with filled := (b.order.takeWhile (fun s => b.published.getD s false)).length }

/-- R317: the slot at the write index taken. -/
def Buf.take (b : Buf) : Buf :=
  { b with
    taken := b.taken.set (b.slotAt b.write) true, free := b.free - 1, write := (b.write + 1) % b.count }

/-- R318: n slots taken. -/
def Buf.takeN : Nat → Buf → Buf
  | 0, b => b
  | n + 1, b => Buf.takeN n b.take

/-- R317: a slot published. -/
def Buf.publish (b : Buf) (s : Nat) : Buf := { b with published := b.published.set s true }.refill

/-- R319: the slots that are taken and not published, oldest first. -/
def Buf.unsent (b : Buf) : List Nat := b.order.filter (fun s => b.taken.getD s false && !b.published.getD s false)

/-- R319: the n oldest of them published. -/
def Buf.signal (b : Buf) (n : Nat) : Buf := (b.unsent.take n).foldl Buf.publish b

/-- R319: n slots popped. -/
def Buf.pop (b : Buf) (n : Nat) : Buf :=
  let gone := b.order.take n
  let clear (bs : List Bool) : List Bool := gone.foldl (fun bs s => bs.set s false) bs
  { b with
    head := (b.head + n) % b.count, filled := b.filled - n, free := b.free + n, taken := clear b.taken,
    published := clear b.published }

/-- R316: a buffer reset by a `cbinit`. -/
def Buf.bind (b : Buf) (x : BufBind) : Buf :=
  { phys := b.phys, bound := true, base := x.base, slotBytes := x.bytes, count := x.count, map := List.range x.count,
    offsets := (List.range x.count).map (fun k => x.base + x.bytes * k), taken := List.replicate x.count false,
    published := List.replicate x.count false, head := 0, write := 0, filled := 0, free := x.count, exts := [],
    binds := b.binds.filter (fun y => y != x), acted := b.acted, was := b.was }

/-- R315: the resets of a buffer that are due by a cc, made. -/
def Buf.reset (b : Buf) (cc : Nat) : Buf := (b.binds.filter (fun x => decide (x.at_ ≤ cc))).foldl Buf.bind b

/-- R28, R315: the slot count that a form issued now has to do with: that of the last `cbinit` issued. -/
def Buf.slots (b : Buf) : Nat := ((b.binds.getLast?).map BufBind.count).getD b.count

/-- R316: whether a chain may act on a buffer, is to wait for its first reset, or meets an unbound one. -/
def Buf.unready (b : Buf) : Bool := !b.bound && !b.binds.isEmpty

/-- R344: the place in the order of a cc of an operation of a rank (0 landings and SIGNALs, 1 `cbsig`, 2 `cbpop`, 3 takes) by
the wave with number `n`, or for one of its chains by engine `e - 1`. -/
def counterPlace (rank n e : Nat) : Nat := rank * 2 ^ 20 + n * 4 + e

/-- R344: whether an operation of this place may still act on a buffer in a cc: none that comes after it has. -/
def Buf.inOrder (b : Buf) (cc place : Nat) : Bool := b.acted.1 != cc || decide (b.acted.2 ≤ place)

/-- R344: an operation of this place has acted. -/
def Buf.act (b : Buf) (cc place : Nat) : Buf := { b with acted := (cc, place) }

/-! ## The spare pool (R322, R323) -/

/-- R323: the share of a quad shrinks to the end of its highest live extension, and the rest returns to the pool. -/
def shrinkShare (d : Dev) (task pos : Nat) : Dev :=
  match taskQuad d task pos with
  | none => d
  | some q =>
    let top := (q.bufs.flatMap Buf.exts).foldl (fun m e => max m (e.1 + e.2)) q.placed
    let back := q.share - top
    (updTaskQuad d task pos (fun q => { q with share := min q.share top })).updQuad (quadAt d task pos)
      (fun q => { q with spare := q.spare + back })

/-- R322: how many slots an enlargement adds: no more than the buffer has, none past 256, within the pool in 8 KiB units. -/
def growSlots (b : Buf) (pool : Nat) : Nat :=
  ((List.range (min b.count (256 - b.count) + 1)).filter (fun e => decide ((e * b.slotBytes + 8191) / 8192 * 8192 ≤ pool))).foldl max 0

/-- R322, R323: a buffer with `e` slots more, from the end of the share; they are the next to be taken. -/
def Buf.grow (b : Buf) (e start bytes : Nat) : Buf :=
  let new := (List.range e).map (fun i => b.count + i)
  { b with
    count := b.count + e
    map := b.map.take b.write ++ new ++ b.map.drop b.write
    offsets := b.offsets ++ (List.range e).map (fun i => start + b.slotBytes * i)
    taken := b.taken ++ List.replicate e false
    published := b.published ++ List.replicate e false
    head := if b.head < b.write then b.head else b.head + e
    free := b.free + e
    exts := b.exts ++ [(start, bytes)] }

/-- R315, R316, R323: the resets of a task's buffers that are due, made; their extensions return to the pool. -/
def resetBuffers (d : Dev) (t : Task) : Dev :=
  let w := match d.launch t.ctx t.launchId with
    | some l => l.w
    | none => 1
  let due (b : Buf) : Bool := b.binds.any (fun x => decide (x.at_ ≤ d.cc))
  ((enum t.quads).filter (fun iq => iq.2.bufs.any due)).foldl (fun d iq =>
    let pos := iq.1 % w + 12 * (iq.1 / w)
    shrinkShare (updTaskQuad d t.uid pos (fun q => { q with bufs := q.bufs.map (fun b => b.reset d.cc) })) t.uid pos) d

/-! ## Stage rings (R324) -/

/-- R324: a post: the phase inverts and the payload is written. -/
def Ring.post (r : Ring) (slot : Nat) (v : Word) : Ring :=
  { r with slots := updAt r.slots slot (fun x => (!x.1, v.setWidth 32)) }

def ringAt (d : Dev) (task pos n : Nat) : Option Ring := (taskQuad d task pos).bind (fun q => q.rings[n]?)

/-! ## Counter operations performed later (R315, R319, R325, R344) -/

/-- R344: the order in which counter operations of one cc act. -/
def counterRank : RecOp → Nat
  | .sig _ _ => 1
  | .pop _ _ => 2
  | _ => 0

/-- The buffer or ring slot a counter operation acts on. -/
def counterOf : RecOp → Option (Nat × Nat)
  | .sig b _ | .pop b _ => some (0, b)
  | .post r s _ => some (1, 8 * r + s)
  | _ => none

/-- The counter operations that are due on a unit of a task's quad: by rank and wave number. -/
def dueOn (d : Dev) (task pos : Nat) (u : Nat × Nat) : List Nat :=
  (d.waves.filter (fun v => v.task == task && v.place == pos)).flatMap (fun v =>
    (v.recs.filter (fun r => !r.frozen && counterOf r.op == some u && (match r.state with
      | .timed c => decide (c ≤ d.cc)
      | _ => false))).map (fun r => counterRank r.op * 65536 + v.n))

/-- R279, R318: whether the wave has an earlier counter operation of its own under way on a unit. -/
def ownCounter (v : Wave) (u : Nat × Nat) : Bool := v.recs.any (fun r => counterOf r.op == some u)

/-- R319, R324: a counter operation of a record entry at its unit; none where its counter cannot take it. -/
def counterAct (d : Dev) (v : Wave) (r : Rec) : Option Dev :=
  let pos := v.place
  match r.op with
  | .post ring slot x => some (updTaskQuad d v.task pos (fun q => { q with rings := updAt q.rings ring (fun g => g.post slot x) }))
  | .sig n k => match bufAt d v.task pos n with
    | some b => if b.unsent.length < k then none
        else some (updBuf d v.task pos n (fun b => (b.signal k).act d.cc (counterPlace 1 v.n 0)))
    | none => none
  | .pop n k => match bufAt d v.task pos n with
    | some b => if b.filled < k then none
        else some (updBuf d v.task pos n (fun b => (b.pop k).act d.cc (counterPlace 2 v.n 0)))
    | none => none
  | _ => some d

/-! ## Tensor descriptors (R326, R327) -/

/-- R326: a 64-bit word of a share. -/
def shareWord (w : Work) (task pos off : Nat) : Word := w.word (kShare task pos off)

/-- R326: the 16 dwords of an image. -/
def readImage (w : Work) (task pos off : Nat) : List Word := (List.range 16).map (fun i => shareWord w task pos (off + 8 * i))

def descSpace (x : List Word) : Nat := bits (x.getD 0 0) 62 2
def descRank (x : List Word) : Nat := bits (x.getD 0 0) 58 4
def descElem (x : List Word) : Nat := 2 ^ bits (x.getD 0 0) 56 2
def descOob (x : List Word) : Bool := (x.getD 0 0).getLsbD 55
def descBase (x : List Word) : Nat := (x.getD 1 0).toNat
def descLimit (x : List Word) : Nat := bits (x.getD 2 0) 0 40
def descExtent (x : List Word) (i : Nat) : Nat := bits (x.getD (3 + i) 0) 0 32
def descStride (x : List Word) (i : Nat) : Int := sbits (x.getD (3 + i) 0) 32 32

/-- R327: the lowest and the highest byte reached, from BASE. -/
def descLo (x : List Word) : Int :=
  (List.range (descRank x)).foldl (fun s i => s + ((descExtent x i : Int) - 1) * min (descStride x i) 0) 0
def descHi (x : List Word) : Int :=
  (List.range (descRank x)).foldl (fun s i => s + ((descExtent x i : Int) - 1) * max (descStride x i) 0) (descElem x)

/-- R326, R327: the reserved fields, the rank, the strides and the extents. -/
def descFormOk (x : List Word) : Bool :=
  let r := descRank x
  decide (descSpace x ≠ 3) && decide (1 ≤ r) && decide (r ≤ 10) && bits (x.getD 0 0) 0 55 == 0 &&
  (if descSpace x = 0 then bits (x.getD 1 0) 57 7 == 0 && bits (x.getD 2 0) 40 24 == 0 else x.getD 2 0 == 0) &&
  (List.range 10).all (fun i => if i < r then decide (descStride x i % descElem x = 0) && decide (descExtent x i ≠ 0)
    else x.getD (3 + i) 0 == 0) &&
  [13, 14, 15].all (fun i => x.getD i 0 == 0)

/-- R327: the span against the range of its space. -/
def descSpanOk (x : List Word) (share : Nat) : Bool :=
  let lo := (descBase x : Int) + descLo x
  let hi := (descBase x : Int) + descHi x
  match descSpace x with
  | 0 => decide (descHi x - descLo x ≤ descLimit x) && decide (0 ≤ lo) && decide (hi - 1 ≤ 2 ^ 57 - 1)
  | 1 => decide (0 ≤ lo) && decide (hi ≤ share)
  | _ => decide (0 ≤ lo) && decide (hi ≤ 65536)

/-! ## Chain entries (R329) -/

/-- R329: the fields of w0. -/
def ceKind (w : Word) : Nat := bits w 60 4
def ceSd (w : Word) : Nat := bits w 54 6
def ceDd (w : Word) : Nat := bits w 48 6
def ceId (w : Word) : Nat := bits w 42 6
def ceCbd (w : Word) : Bool := w.getLsbD 41
def ceCbn (w : Word) : Nat := bits w 36 5
def ceMc (w : Word) : Bool := w.getLsbD 35
def ceHold (w : Word) : Bool := w.getLsbD 34

/-- R330: where a chain may go on after the entry at `e` with a w0 word: none after END, and also back from LOOP and past IF. -/
def entryNexts (e : Nat) (x : Word) : List Nat := match ceKind x with
  | 0 => []
  | 3 => [e + 32, e - 32 * bits x 32 12]
  | 4 => [e + 32, e + 32 * (1 + bits x 38 12)]
  | _ => [e + 32]

/-- The w0 words of the entries a chain can reach from the entries of `todo`, but for those in `seen`. `fuel` bounds the steps. -/
def chainWords (w : Work) (task pos share : Nat) : Nat → List Nat → List Nat → List Word
  | 0, _, _ => []
  | _, [], _ => []
  | fuel + 1, e :: todo, seen =>
    if share < e + 32 || seen.contains e then chainWords w task pos share fuel todo seen
    else
      let x := shareWord w task pos e
      x :: chainWords w task pos share fuel (entryNexts e x ++ todo) (e :: seen)

/-- The chains of a task queued or running in a quad, each as the words of the entries it may still read and of the one it has. -/
def taskChains (w : Work) (task pos : Nat) : List (List Word) :=
  match taskQuad w.d task pos with
  | none => []
  | some q => (w.d.quad (quadAt w.d task pos)).engines.flatMap (fun e =>
      (e.chains.filter (fun c => c.task == task && c.pos == pos)).map (fun c =>
        c.words.take 1 ++ chainWords w task pos q.share (3 * (q.share / 32) + 1) [c.head] []))

/-- Whether a chain may go on: its wave is not stopped, and no fatal trap stops its task. -/
def chainRuns (d : Dev) (c : Chain) : Bool :=
  (match d.wave c.wave with
   | some v => !v.stopped
   | none => false) && d.traps.all (fun t => t.task != c.task || !fatal t.code)

/-- R253: the rectangle places a mask names from a wave's quad: fields [31:16] mask, [15:11] DX0, [10:7] DY0. None where one
is outside the rectangle. -/
def maskPlaces (d : Dev) (v : Wave) (x : Word) : Option (List Nat) :=
  let places := ((List.range 16).filter (fun b => bits x 16 16 |>.testBit b)).map (fun b =>
    placeQuad d v { dx := sbits x 11 5 + (b % 4 : Nat), dy := sbits x 7 4 + (b / 4 : Nat), kind := 0, index := 0 })
  if places.all Option.isSome then some ((places.filterMap id).map (fun q => q.1 + 12 * q.2)) else none

/-- R332: the places in which a transfer of a chain writes. -/
def Chain.places (d : Dev) (c : Chain) (w0 : Word) : Option (List Nat) :=
  if ceMc w0 then (d.wave c.wave).bind (fun v => maskPlaces d v w0) else some [c.pos]

/-- R332, R321: the places of a buffer in which a chain waits to take a slot. -/
def Chain.awaits (d : Dev) (c : Chain) (n : Nat) : List Nat :=
  let w0 := c.words.headD 0
  if c.wait == .slot && ceCbn w0 == n then (c.places d w0).getD [] else []

/-- R344: whether an operation that takes slots of a buffer, with a place in the order, must leave them to one before it: a
`cbfree` or a chain that waits for slots it could take now. -/
def takesFirst (d : Dev) (task pos n place : Nat) (b : Buf) : Bool :=
  (d.waves.filter (fun v => v.task == task && v.place == pos && decide (counterPlace 3 v.n 0 < place))).any (fun v =>
    v.splits.any (fun p => mayTry d v p && (match p.stage with
      | .taking m k => m == n && decide (k ≤ b.free)
      | _ => false))) ||
  d.quads.any (fun q => (enum q.engines).any (fun ie => match ie.2.chains.find? (chainRuns d) with
    | some c => c.task == task && decide (counterPlace 3 c.n (1 + ie.1) < place) && (c.awaits d n).contains pos &&
        (c.awaits d n).all (fun p => ((bufAt d task p n).map (fun b => decide (1 ≤ b.free))).getD false)
    | none => false))

/-- R316: whether an entry names a buffer. -/
def namesBuf (n : Nat) (x : Word) : Bool :=
  match ceKind x with
  | 1 | 2 => ceCbd x && ceCbn x == n
  | 4 => decide (bits x 58 2 < 2) && bits x 52 5 == n
  | 5 => !x.getLsbD 59 && bits x 52 5 == n
  | 6 => bits x 52 5 == n
  | _ => false

/-- R328: whether an entry names a descriptor. -/
def namesDesc (n : Nat) (x : Word) : Bool :=
  match ceKind x with
  | 1 => ceSd x == n || ceDd x == n
  | 2 => ceSd x == n || ceDd x == n || ceId x == n
  | _ => false

/-! ## Inboxes (R105) -/

/-- R105: room for a reservation at the tail of an inbox. -/
def inboxRoom (v : Wave) (k : Nat) : Bool := decide ((v.inboxes.getD k []).length < 8)

/-- R105: a slot reserved. -/
def Wave.reserve (v : Wave) (k key : Nat) : Wave :=
  { v with inboxes := updAt v.inboxes k (fun q => q ++ [{ key, fill := none, readyAt := 0 }]) }

/-- R105, R227: a delivery fills its slot and ends the sleep of the wave's splits. -/
def Wave.deliverInbox (v : Wave) (cc k key : Nat) (vals : List (Word × Ty)) : Wave :=
  { v with
    inboxes := updAt v.inboxes k
      (updWhere (fun s => s.key == key && s.fill.isNone) (fun s => { s with fill := some vals, readyAt := cc + 1 }))
    splits := updWhere Split.asleep (fun p => { p with sleep := 0, asleep := false, readyAt := max p.readyAt (cc + 1) }) v.splits }

end Sys2Proof.Machine
end

