-- ==== Sys2Proof/Machine/Queues.lean ====
section
/-! DEFINITION. Major 0xD0: copies, tensor descriptors, circular buffers, rings, messages and notifications (spec/12). -/

namespace Sys2Proof.Machine

/-- The launch of the issuing wave. -/
def Iss.launch (s : Iss) (k : Launch → Nat) : Nat := match s.w.d.launchOf s.v with
  | some l => k l
  | none => 0

/-- The size of the share of the wave's own quad. -/
def Iss.share (s : Iss) : Nat := shareSize s.w.d s.v s.v.x s.v.y

/-- Whether the launch of a wave carries the service bit. -/
def Iss.service (s : Iss) : Bool := s.v.service

/-- A result that is the same in every active lane, read `lat` cc after issue. -/
def Iss.same (s : Iss) (lat : Nat) (rs : List (Word × Ty)) : Iss :=
  s.deliver s.active (rs.map Prod.snd) (fun _ => rs.map (s.entry lat))

/-! ## Copies (R335, R336) -/

/-- R335: the engine a `copy` names: one of two, or the one with the shorter queue. -/
def chooseEngine (q : Quad) (e : Nat) : Nat :=
  let len (i : Nat) : Nat := (q.engines.getD i { chains := [], seq := 0, done := [] }).chains.length
  if e = 0 then (if len 1 < len 0 then 1 else 0) else e - 1

/-- R335: `copy`. -/
def copyOp (s : Iss) : Work :=
  s.onceOp [[.n32, .i32]] [.n32] (fun s xs =>
    let a := bits (opnd xs 0) 0 32
    let k := bits s.f.x13 10 2
    let iv := s.f.x13.getLsbD 12
    let pos := s.w.d.posOf s.v
    let ei := chooseEngine (s.w.d.quad pos) (bits s.f.x13 8 2)
    let eng := (s.w.d.quad pos).engines.getD ei { chains := [], seq := 0, done := [] }
    if s.share ≤ a then s.trap tBounds 0
    else if a % 32 ≠ 0 then s.trap tAlign 0
    else if decide (16 ≤ eng.chains.length) || !recFree s.v || (iv && !inboxRoom s.v k) then s.wait 10
    else
      let handle := ei * 65536 + eng.seq
      let r := { s.recOf 1 4 (maskOf (s.active.take 1)) (.copy ei handle) [] with inbox := if iv then some k else none }
      let c : Chain := {
        seq := eng.seq, wave := s.v.uid, n := s.v.n, ctx := s.v.ctx, launchId := s.v.launchId, task := s.v.task,
        pos := s.v.place, core := s.v.core, rec_ := r.seq, pc := s.p.pc, inbox := if iv then some k else none, head := a,
        entry := a, words := [], lines := [], used := [], index := none, os := 0, od := 0, loops := [], moved := 0, taken := [], landed := false, written := 0, leaveAsked := none,
        leaveDone := false, wait := .none, step := 0, running := false }
      let s := (s.pop.addRec r).same 4 [(BitVec.ofNat 64 handle, .n32)]
      let s := if iv then { s with v := s.v.reserve k r.seq } else s
      ({ s with
          w := s.w.upd (fun d => d.updQuad pos (fun q => { q with
            engines := updAt q.engines ei (fun e =>
            { e with chains := e.chains ++ [c], seq := (e.seq + 1) % 65536 }) })) } : Iss).done)

def execCopy (f : Form) (st : State) : Host.Outcome State Fault Refusal := st.issue (.copy f) copyOp

/-- R336: the state code of a chain. -/
def chainState (c : Chain) : Nat :=
  if !c.running then 0
  else match c.wait with
    | .slot => 2
    | .waitcb => 3
    | .leave => 4
    | _ => 1

/-- R336: a status word. -/
def statusWord (state off written : Nat) : Word := BitVec.ofNat 64 (state * 2 ^ 60 + off % 2 ^ 20 * 2 ^ 40 + written % 2 ^ 40)

/-- R336: the status of a handle in a quad. -/
def handleStatus (q : Quad) (h : Nat) : Word :=
  if 2 ^ 17 ≤ h then statusWord 7 0 0
  else match q.engines[h / 65536]? with
    | none => statusWord 7 0 0
    | some e => match e.chains.find? (fun c => c.seq == h % 65536) with
      | some c => statusWord (chainState c) (c.entry - c.head) c.written
      | none => match e.done.find? (fun d => d.1 == h % 65536) with
        | some d => d.2
        | none => statusWord 7 0 0

/-- R336: `cstat`. -/
def cstatOp (s : Iss) : Work :=
  s.onceOp [[.n32]] [.n64] (fun s xs =>
    let x := handleStatus (s.w.d.quad (s.w.d.posOf s.v)) (bits (opnd xs 0) 0 32)
    (s.pop.same 12 [(x, .n64)]).done)

def execCstat (f : Form) (st : State) : Host.Outcome State Fault Refusal := st.issue (.cstat f) cstatOp

/-! ## Descriptors (R326 to R328) -/

/-- R264: whether an earlier scratchpad store of the wave may still write a range of its own share. -/
def shareUnsettled (v : Wave) (off n : Nat) : Bool :=
  v.recs.any (fun r => r.writes && r.left.any (fun a => match a.target with
    | .quad p o => p == v.place && decide (o < off + n) && decide (off < o + a.bytes)
    | _ => false))

/-- R326 to R328: `tdesc`. -/
def tdescOp (s : Iss) : Work :=
  s.onceOp [[.n32, .i32]] [] (fun s xs =>
    let dn := bits s.f.x13 0 6
    let a := bits (opnd xs 0) 0 32
    let x := readImage s.w s.v.task s.v.place a
    if s.launch Launch.nd ≤ dn then s.trap tProt 0
    else if a % 128 ≠ 0 then s.trap tAlign 0
    else if s.share < a + 128 then s.trap tBounds 0
    else if shareUnsettled s.v a 128 then s.wait 10
    else match lostIn s.w.d (kShare s.v.task s.v.place a) 128 with
    | some k => s.trapAt tMemerr s.p.pc 0 0 (keyOffset k)
    | none =>
    if !descFormOk x then s.trap tIllegal 0
    else if descBase x % descElem x ≠ 0 then s.trap tAlign 0
    else if !descSpanOk x s.share then s.trap tBounds 0
    else if (taskChains s.w s.v.task s.v.place).any (fun ws => ws.any (namesDesc dn)) then s.wait 10
    else
      let w := s.w.upd (fun d => updTaskQuad d s.v.task s.v.place (fun q => { q with
        descs := updAt q.descs dn (fun e => (e.1, some x)) }))
      let s := s.pop
      ({ s with w } : Iss).goto s.next 40 {})

def execTdesc (f : Form) (st : State) : Host.Outcome State Fault Refusal := st.issue (.tdesc f) tdescOp

/-! ## Circular buffers (R316 to R319) -/

/-- R315, R316: `cbinit`: the buffer is reset 8 cc after issue. -/
def cbinitOp (s : Iss) : Work :=
  s.onceOp [[.n32, .i32], [.n32, .i32]] [] (fun s xs =>
    let n := bits s.f.x13 0 5
    let base := bits (opnd xs 0) 0 32
    let shape := opnd xs 1
    let (c, z) := (bits shape 12 9, bits shape 0 10)
    let bytes := 128 * z
    if s.launch Launch.nb ≤ n then s.trap tProt 0
    else if base % 128 ≠ 0 then s.trap tAlign 0
    else if bits shape 21 11 ≠ 0 ∨ bits shape 10 2 ≠ 0 ∨ c < 2 ∨ 256 < c ∨ z < 1 ∨ 512 < z ∨ s.share < base + bytes * c then
      s.trap tBounds 0
    else if (taskChains s.w s.v.task s.v.place).any (fun ws => ws.any (namesBuf n)) then s.wait 10
    else
      let w := s.w.upd (fun d => updBuf d s.v.task s.v.place n (fun b =>
        { b with binds := b.binds ++ [{ at_ := s.cc + 8, base, bytes, count := c }] }))
      ({ s.pop with w } : Iss).done)

def execCbinit (f : Form) (st : State) : Host.Outcome State Fault Refusal := st.issue (.cbinit f) cbinitOp

/-- The buffer and the count of a form (R314). -/
def cbIndex (f : Form) : Nat := bits f.x13 0 5
def cbCount (f : Form) : Nat := bits f.x13 5 8 + 1

/-- R313, R318: a form on a buffer: PROT past the task's count, BOUNDS past the slot count. -/
def Iss.onBuf (s : Iss) (k : Buf → Work) : Work :=
  match bufAt s.w.d s.v.task s.v.place (cbIndex s.f) with
  | none => s.trap tProt 0
  | some b =>
    if s.launch Launch.nb ≤ cbIndex s.f then s.trap tProt 0
    else if b.slots < cbCount s.f then s.trap tBounds 0
    else k b

/-- R279, R316, R344: what a wait on a buffer sees: the counters after every operation that is due, and after its own. -/
def Iss.bufSettled (s : Iss) (b : Buf) : Bool :=
  b.binds.isEmpty && (dueOn s.w.d s.v.task s.v.place (0, cbIndex s.f)).isEmpty && !ownCounter s.v (0, cbIndex s.f)

/-- R318: `cbwait`. -/
def cbwaitOp (s : Iss) : Work :=
  s.onceOp [] [.n32] (fun s _ => s.onBuf (fun b =>
    if !s.bufSettled b || decide (b.filled < cbCount s.f) then (s.stage .acquire).wait 3
    else (s.same 6 [(BitVec.ofNat 64 (b.offsetAt b.head), .n32)]).done))

def execCbwait (f : Form) (st : State) : Host.Outcome State Fault Refusal := st.issue (.cbwait f) cbwaitOp

/-- R318, R344: `cbfree`. -/
def cbfreeOp (s : Iss) : Work :=
  s.onceOp [] [.n32] (fun s _ => s.onBuf (fun b =>
    let (i, n) := (cbIndex s.f, cbCount s.f)
    let place := counterPlace 3 s.v.n 0
    if !s.bufSettled b || decide (b.free < n) || !b.inOrder s.cc place || takesFirst s.w.d s.v.task s.v.place i place b then
      (s.stage (.taking i n)).wait 3
    else
      let w := s.w.upd (fun d => updBuf d s.v.task s.v.place i (fun b => (Buf.takeN n b).act d.cc place))
      ((({ s with w } : Iss).same 6 [(BitVec.ofNat 64 (b.offsetAt b.write), .n32)]).done)))

def execCbfree (f : Form) (st : State) : Host.Outcome State Fault Refusal := st.issue (.cbfree f) cbfreeOp

/-- R279, R315: a counter release: its entry waits for the wave's earlier scratchpad accesses, then 8 cc. -/
def Iss.release (s : Iss) (kind : Nat) (op : RecOp) : Work :=
  if !recFree s.v then s.wait 10
  else
    let r := { s.recOf 2 kind (maskOf (s.active.take 1)) op [] with state := .walk }
    ((s.pop.addRec r).done).upd (fun d => departRec d s.v.uid r.seq)

/-- R319: `cbpop`. -/
def cbpopOp (s : Iss) : Work :=
  s.onceOp [] [] (fun s _ => s.onBuf (fun _ => s.release 7 (.pop (cbIndex s.f) (cbCount s.f))))

def execCbpop (f : Form) (st : State) : Host.Outcome State Fault Refusal := st.issue (.cbpop f) cbpopOp

/-- R319: `cbsig`. -/
def cbsigOp (s : Iss) : Work :=
  s.onceOp [] [] (fun s _ => s.onBuf (fun _ => s.release 7 (.sig (cbIndex s.f) (cbCount s.f))))

def execCbsig (f : Form) (st : State) : Host.Outcome State Fault Refusal := st.issue (.cbsig f) cbsigOp

/-! ## Stage rings (R324) -/

/-- The ring and slot of a form (R314). -/
def ringIndex (f : Form) : Nat := bits f.x13 0 3
def ringSlot (f : Form) : Nat := bits f.x13 3 3

/-- R324: `spost`. -/
def spostOp (s : Iss) : Work :=
  s.onceOp [[.n32, .i32]] [] (fun s xs =>
    if s.launch Launch.ns ≤ ringIndex s.f then s.trap tProt 0
    else s.release 6 (.post (ringIndex s.f) (ringSlot s.f) (opnd xs 0)))

def execSpost (f : Form) (st : State) : Host.Outcome State Fault Refusal := st.issue (.spost f) spostOp

/-- R324: `swait`. -/
def swaitOp (s : Iss) : Work :=
  s.onceOp [] [.n32] (fun s _ =>
    match ringAt s.w.d s.v.task s.v.place (ringIndex s.f) with
    | none => s.trap tProt 0
    | some g =>
      let x := g.slots.getD (ringSlot s.f) (false, 0)
      let u := (1, 8 * ringIndex s.f + ringSlot s.f)
      if s.launch Launch.ns ≤ ringIndex s.f then s.trap tProt 0
      else if x.1 != s.f.x13.getLsbD 6 || !(dueOn s.w.d s.v.task s.v.place u).isEmpty || ownCounter s.v u then (s.stage .acquire).wait 4
      else
        let w := s.w.upd (fun d => updTaskQuad d s.v.task s.v.place (fun q => { q with
          rings := updAt q.rings (ringIndex s.f) (fun g => { g with waited := keep g.waited (ringSlot s.f) s.cc }) }))
        (({ s with w } : Iss).same 6 [(x.2.setWidth 64, .n32)]).done)

def execSwait (f : Form) (st : State) : Host.Outcome State Fault Refusal := st.issue (.swait f) swaitOp

/-! ## Messages, inboxes, notifications -/

/-- R341: `send`: from each active lane, its n youngest entries. -/
def sendOp (s : Iss) : Work :=
  s.guardGate (fun s =>
    let act := s.active
    let n := bits s.f.x13 8 4
    let args (l : Nat) : List Entry := (s.v.lane l).q.take n
    let empty := act.filter (fun l => (args l).any (fun e => e.tag == .empty))
    if act.isEmpty then s.done
    else if act.any (fun l => (args l).any (fun e => e.pending s.cc)) then s.wait 1
    else if !empty.isEmpty then s.trap tQempty (maskOf empty)
    else match (formPlace s.f).bind (fun p => (placeQuad s.w.d s.v p).map (fun q => (q, p.index))) with
    | none => s.trap tProt (maskOf act)
    | some ((x, y), c) =>
      if !recFree s.v then s.wait 10
      else
        let r := { s.recOf 2 8 (maskOf act) (.send (4 * (x + 12 * y) + c) (bits s.f.x13 0 8)) [] with
          state := .walk, messages := act.map (fun l => (l, (args l).map (fun e => (e.val, e.tag)))) }
        ((s.addRec r).done).upd (fun d => departRec d s.v.uid r.seq))

def execSend (f : Form) (st : State) : Host.Outcome State Fault Refusal := st.issue (.send f) sendOp

/-- R337: `inwait`. -/
def inwaitOp (s : Iss) : Work :=
  s.onceOp [] [] (fun s _ => if !inboxReady s.cc s.v (bits s.f.x13 0 2) 0 then s.wait 2 else s.done)

def execInwait (f : Form) (st : State) : Host.Outcome State Fault Refusal := st.issue (.inwait f) inwaitOp

/-- R338: the four dwords of a ring slot. -/
def notifWords (w : Work) (k : Nat) : List Word := [0, 1, 2, 3].map (fun i => w.word (k + 64 * i))

/-- R338: `nqpop`: the oldest notification of the context, or zeros. -/
def nqpopOp (s : Iss) : Work :=
  let raw (ds : List Word) : List (Word × Ty) := ds.map (fun x => (x, .raw))
  s.onceOp [] [.raw, .raw, .raw, .raw] (fun s _ =>
    match s.w.d.ctx s.v.ctx with
    | none => s.trap tProt 0
    | some c =>
      if !s.service then s.trap tProt 0
      else if c.nqCount = 0 then (s.same 60 (raw [0, 0, 0, 0])).done
      else match direct s.w c (c.nqSlot c.nqHead) false with
        | .key k =>
          let w := s.w.upd (fun d => d.updCtx c.id (fun c => { c with nqHead := (c.nqHead + 1) % 2 ^ 32 }))
          ((({ s with w } : Iss).same 60 (raw (notifWords s.w k))).done)
        | .untranslated | .blocked => s.wait 12
        | .denied => match directLost s.w c (c.nqSlot c.nqHead) true with
          | some k => s.trapAt tMemerr s.p.pc 0 0 (keyOffset k)
          | none => s.trap tProt 0)

def execNqpop (f : Form) (st : State) : Host.Outcome State Fault Refusal := st.issue (.nqpop f) nqpopOp

end Sys2Proof.Machine
end

