-- ==== Sys2Proof/Machine/Tables.lean ====
section
/-! DEFINITION. Major 0xE0: groups (spec/14 R370 to R374), `launch` (R382), special registers (R108, R356, R388, R394),
`place` (R378), page tables (R384, R385) and the page watch table (R387). -/

namespace Sys2Proof.Machine

/-! ## Groups (R372, R373) -/

/-- The group reference of a form (R367). -/
def gidOf (f : Form) : Nat := bits f.x13 0 2

/-- A group reference of a wave. -/
def Wave.gid (v : Wave) (k : Nat) : GroupRef := v.gids.getD k { member := false, entry := 0, arr := false, gen := 0 }

def Wave.setGid (v : Wave) (k : Nat) (f : GroupRef → GroupRef) : Wave := { v with gids := updAt v.gids k f }

/-- The group entry of a reference. -/
def groupOf (d : Dev) (v : Wave) (k : Nat) : Option Group :=
  (d.launchOf v).bind (fun l => l.groups[(v.gid k).entry]?)

/-- R368: a group form: with an active lane, a reference that is no membership raises PROT. -/
def Iss.groupOp (s : Iss) (accs : List (List Ty)) (tags : List Ty) (k : Iss → Nat → Group → List (Word × Ty) → Work) : Work :=
  s.onceOp accs tags (fun s xs =>
    let i := gidOf s.f
    match groupOf s.w.d s.v i with
    | none => s.trap tProt 0
    | some g => if (s.v.gid i).member then k s i g xs else s.trap tProt 0)

/-- R372: the wave's arrival has been released. -/
def released (v : Wave) (k : Nat) (g : Group) : Bool := g.gen != (v.gid k).gen || g.broken

/-- R185, R372: an arrival: the earlier arrival is released, the tile stores are complete, the core commits; then the wave
arrives, once for all its splits. -/
def Iss.arrive (s : Iss) (k : Nat) (g : Group) (next : Iss → Work) : Work :=
  match s.p.stage with
  | .arrive b =>
    if (s.w.d.core s.core).committed < b then s.wait 5
    else if (s.v.gid k).arr && (s.v.gid k).gen == g.gen then next s
    else if !recFree s.v then s.wait 10
    else
      let r := { s.recOf 2 5 (maskOf (s.active.take 1)) (.arrival k g.gen) [] with state := .walk }
      let s := s.addRec r
      (next { s with v := s.v.setGid k (fun x => { x with arr := true, gen := g.gen }) }).upd (fun d => departRec d s.v.uid r.seq)
  | stage =>
    if stage == .idle && (s.v.gid k).arr && !released s.v k g then s.wait 5
    else
      let os := match stage with
        | .settling os => os
        | _ => (fenceSet s.w.d s.v 0).2
      if !fenceDone s.v [] os then (s.stage (.settling os)).wait 5
      else s.boundary false 5 .arrive

/-- R372: `garr`. -/
def garrOp (s : Iss) : Work := s.groupOp [] [] (fun s k g _ => s.arrive k g Iss.done)

def execGarr (f : Form) (st : State) : Host.Outcome State Fault Refusal := st.issue (.garr f) garrOp

/-- R372: the end of a wait on a group: the predicate is BROKEN. -/
def Iss.groupDone (s : Iss) (g : Group) : Work := (s.setPred s.active s.f.pd 4 (fun _ => g.broken)).done

/-- R372: the wait for a release, and the entry after it. -/
def Iss.groupWait (s : Iss) (k : Nat) (g : Group) : Work :=
  match s.p.stage with
  | .entering (some b) => if b ≤ (s.w.d.core s.core).entered then s.groupDone g else s.wait 5
  | .entering none => s.enterOwn 5 .entering (fun s => s.groupDone g)
  | _ =>
    if !released s.v k g then (s.stage (.arriving s.v.recSeq)).wait 5
    else ({ s with v := s.v.setGid k (fun x => { x with arr := false }) } : Iss).enterOwn 5 .entering (fun s => s.groupDone g)

/-- R372: `gwait`: without an arrival it completes at once with a false predicate, also where R373 gives the waits of arrived
waves a true one (log 82, DEDUCED). -/
def gwaitOp (s : Iss) : Work :=
  s.groupOp [] [] (fun s k g _ =>
    if s.p.stage == .idle && !(s.v.gid k).arr then (s.setPred s.active s.f.pd 4 (fun _ => false)).done
    else s.groupWait k g)

def execGwait (f : Form) (st : State) : Host.Outcome State Fault Refusal := st.issue (.gwait f) gwaitOp

/-- R372: `gbar`: an arrival, then the wait. -/
def gbarOp (s : Iss) : Work :=
  s.groupOp [] [] (fun s k g _ =>
    match s.p.stage with
    | .arriving _ | .entering _ => s.groupWait k g
    | _ => s.arrive k g (fun s => (s.stage (.arriving s.v.recSeq)).wait 5))

def execGbar (f : Form) (st : State) : Host.Outcome State Fault Refusal := st.issue (.gbar f) gbarOp

/-- The slot of a form (R367). -/
def groupSlot (f : Form) : Nat := bits f.x13 2 3

/-- A request to the group unit leaves, performed from 8 cc after issue on. -/
def Iss.groupRequest (s : Iss) (tags : List Ty) (k : Nat) (r : Rec) : Work :=
  if !recFree s.v then s.wait 10
  else
    let es := s.bound tags
    let s := (s.pop.addRec r).deliver s.active tags (fun _ => es)
    s.done.upd (fun d => { d with groupReqs := d.groupReqs ++ [groupReq s.v r k (s.cc + 8)] })

/-- R374: `gset`. -/
def gsetOp (s : Iss) : Work :=
  s.groupOp [[]] [] (fun s k _ xs =>
    s.groupRequest [] k (s.recOf 2 9 (maskOf (s.active.take 1)) (.gset k (groupSlot s.f) (opnd xs 0) (opndTag xs 0)) []))

def execGset (f : Form) (st : State) : Host.Outcome State Fault Refusal := st.issue (.gset f) gsetOp

/-- R374: `gget`: pending with tag N64, for at least 40 cc. -/
def ggetOp (s : Iss) : Work :=
  s.groupOp [] [.n64] (fun s k _ _ =>
    s.groupRequest [.n64] k { s.recOf 0 0 (maskOf s.active) (.gget k (groupSlot s.f)) [] with state := .timed (s.cc + 40) })

def execGget (f : Form) (st : State) : Host.Outcome State Fault Refusal := st.issue (.gget f) ggetOp

/-! ## `launch` (R382) -/

/-- R382: `launch`: its entry waits for a commit of the core, then the descriptor is handed over. -/
def launchOp (s : Iss) : Work :=
  s.onceOp [[.ptr]] [.n32] (fun s xs =>
    let a := addrOf (opnd xs 0)
    if a.toNat % 128 ≠ 0 then s.trapAt tAlign s.p.pc 0 0 a.toNat
    else if !recFree s.v then s.wait 10
    else
      let r := { s.recOf 2 10 (maskOf s.active) (.launch a) [] with state := .walk }
      let es := s.bound [.n32]
      let s := (s.pop.addRec r).deliver s.active [.n32] (fun _ => es)
      let (w, n) := requestBoundary s.done s.core false
      w.upd (fun d => departRec (d.updWave s.v.uid (fun v => v.updRec r.seq (fun r => { r with phys := [n] }))) s.v.uid r.seq))

def execLaunch (f : Form) (st : State) : Host.Outcome State Fault Refusal := st.issue (.launch f) launchOp

/-! ## Special registers (R108, R356, R388, R394) -/

/-- R394: the smallest received neighbour number, as R393 compares them. -/
def nbrMin (d : Dev) (v : Wave) : Nat :=
  let (rw, rh) := d.rectOf v
  let have_ := neighbours rw rh v.x v.y v.core
  let got := (enum (d.taskCore v).nbr).filterMap (fun io => if (have_.getD io.1 none).isSome then io.2.usable d.cc else none)
  match got with
  | [] => 2 ^ 32 - 1
  | a :: t => t.foldl (fun m x => if (BitVec.ofNat 32 x - BitVec.ofNat 32 m).msb then x else m) a

/-- R394: whether a register is one of the service registers. -/
def srService (n : Nat) : Bool := 0x60 ≤ n && n ≤ 0x83

/-- R108, R356, R394: the tag a register is read with. -/
def srTag (n : Nat) : Ty :=
  if n = 0x04 ∨ n = 0x10 ∨ n = 0x11 ∨ n = 0x16 ∨ n = 0x18 ∨ n = 0x19 ∨ (0x20 ≤ n ∧ n ≤ 0x2D) ∨ 0x60 ≤ n then .n64 else .n32

/-- R108: filled slots of the inboxes. -/
def inboxCounts (v : Wave) : Nat :=
  ((enum v.inboxes).map (fun iq => iq.2.length * 2 ^ (4 * iq.1))).sum

/-- R108, R356, R394: the contents of a register; of those that a cc can change, as they were before its changes. -/
def srValue (d : Dev) (v : Wave) (p : Split) (n : Nat) : Nat :=
  let core := d.coreOf v
  let c := d.core core
  let (rw, rh) := d.rectOf v
  let ep (m : MeshState) : Endpoint := m.endpoints.getD (coreEndpoint core) Endpoint.reset
  match n with
  | 0x00 => v.taskIndex
  | 0x01 => v.launchId
  | 0x02 => v.ctx % 65536
  | 0x03 => (match v.role with | .v => 0 | .m => 1 | .c => 2)
  | 0x04 => ((enum v.gids).map (fun kg => ((if kg.2.member then 256 else 0) + kg.2.entry % 256) * 2 ^ (16 * kg.1))).sum
  | 0x05 => rw * 2 ^ 24 + rh * 2 ^ 16 + v.x * 2 ^ 8 + v.y
  | 0x06 => v.depth
  | 0x07 => v.fpFlags.toNat
  | 0x08 => if v.intFlag then 1 else 0
  | 0x09 => v.fpTrapEn.toNat
  | 0x0A => inboxCounts v
  | 0x10 => d.hbWas.count
  | 0x11 => if d.hbWas.domRunning then d.hbWas.domCount else 0
  | 0x12 => 2 ^ d.hbWas.logP
  | 0x13 => v.sampled.phase
  | 0x14 => (coreNumber { d with waves := d.waves.map (fun u => { u with phase := u.sampled.phase, exited := !u.sampled.live }) } v.task v.x v.y v.core).getD 0
  | 0x15 => nbrMin d v
  | 0x16 => v.sampled.safePoints
  | 0x17 => p.ageing % 256
  | 0x18 => c.leaveWas.1
  | 0x19 => c.leaveWas.2
  | 0x2C => v.counters.resident
  | 0x2D => v.sampled.issued
  | 0x30 => let e := ep d.meshReq; min e.lastWindow 65535 * 65536 + e.level
  | 0x31 => let e := ep d.meshReply; min e.lastWindow 65535 * 65536 + e.level
  | 0x32 => (ep d.meshReq).undelivered
  | 0x33 => (if d.meshReply.drain then 2 else 0) + (if d.meshReq.drain then 1 else 0)
  | n =>
    if n ≤ 0x2B then v.counters.stall.getD (n - 0x20) 0
    else if n ≤ 0x5F then (match bufAt d v.task v.place (n - 0x40) with
      | some b => b.was.1 * 65536 + b.was.2
      | none => 0)
    else if n ≤ 0x6F then (c.pmcs.getD (n - 0x60) { cfg := 0, val := 0, next := none }).val
    else (c.hist.getD v.sched []).getD (n - 0x70) 0

/-- R388: `srd`. -/
def srdOp (s : Iss) : Work :=
  let n := bits s.f.x13 0 8
  s.onceOp [] [srTag n] (fun s _ =>
    if srService n && !s.service then s.trap tProt 0
    else if 0x40 ≤ n && n ≤ 0x5F && decide (s.launch Launch.nb ≤ n - 0x40) then s.trap tProt 0
    else (s.same 12 [(BitVec.ofNat 64 (srValue s.w.d s.v s.p n), srTag n)]).done)

def execSrd (f : Form) (st : State) : Host.Outcome State Fault Refusal := st.issue (.srd f) srdOp

/-- R108, R388: a register written: a set bit outside its width raises ILLEGAL; flags raised in this cc stay set. -/
def swrOp (s : Iss) : Work :=
  s.onceOp [[.n32, .i32, .raw]] [] (fun s xs =>
    let x := (opnd xs 0).toNat
    let n := bits s.f.x13 0 8
    let (fp, i) := raisedIn s.v s.cc
    if (if n = 8 then 2 else 32) ≤ x then s.trap tIllegal 0
    else
      let s := s.pop
      let v := match n with
        | 7 => { s.v with fpFlags := BitVec.ofNat 5 x ||| fp }
        | 8 => { s.v with intFlag := x == 1 || i }
        | _ => { s.v with fpTrapEn := BitVec.ofNat 5 x }
      ({ s with v } : Iss).done)

def execSwr (f : Form) (st : State) : Host.Outcome State Fault Refusal := st.issue (.swr f) swrOp

/-! ## `place` (R378) -/

/-- R378: the position a place word names. -/
def placeValue (d : Dev) (v : Wave) (p : Place) : Nat :=
  match placeQuad d v p, d.task v.task with
  | some (x, y), some t =>
    2 ^ 31 + dieOf (t.pos x y) * 2 ^ 24 + (t.ox + x) * 2 ^ 20 + (t.oy + y) * 2 ^ 17 + x * 2 ^ 13 + y * 2 ^ 10 +
      (if p.kind = 0 ∨ p.kind = 4 then 0 else p.index)
  | _, _ => 0

/-- R80, R378: `place`. A reserved word raises ILLEGAL. -/
def placeOp (s : Iss) : Work :=
  let s := { s with g := { s.g with ra := s.f.imm.isNone } }
  s.onceOp [[.i32, .n32, .raw]] [.n32] (fun s xs =>
    match placeOf ((s.f.imm.getD (opnd xs 0)).setWidth 32) with
    | none => s.trap tIllegal 0
    | some p => (s.pop.same 6 [(BitVec.ofNat 64 (placeValue s.w.d s.v p), .n32)]).done)

def execPlace (f : Form) (st : State) : Host.Outcome State Fault Refusal := st.issue (.place f) placeOp

/-! ## Page tables (R384, R385) -/

/-- R384: `ptset`. -/
def ptsetOp (s : Iss) : Work :=
  let full := s.f.x13.getLsbD 5
  let s := { s with g := { s.g with rb := full } }
  s.onceOp [[.ptr], [.n64, .i64, .raw]] [.n32] (fun s xs =>
    if !s.service then s.trap tProt 0
    else if !recFree s.v then s.wait 10
    else
      let r := s.recOf 1 11 (maskOf s.active)
        (.ptset (addrOf (opnd xs 0)) full (s.f.x13.getLsbD 4) (bits s.f.x13 0 4) (opnd xs 1)) []
      let es := s.bound [.n32]
      ((s.pop.addRec r).deliver s.active [.n32] (fun _ => es)).done)

def execPtset (f : Form) (st : State) : Host.Outcome State Fault Refusal := st.issue (.ptset f) ptsetOp

/-- R384: the bits a mask names in an entry: M[3:0] names WB, AC, WT and MG, bits 63 to 60, in that order. -/
def pteMask (m : Nat) : Word := BitVec.ofNat 64 (m % 16 * 2 ^ 60)

/-- R384: an entry as a `ptset` leaves it. -/
def ptsetWord (e : Word) (full val : Bool) (m : Nat) (v : Word) : Word :=
  if full then v else if val then e ||| pteMask m else e &&& ~~~(pteMask m)

/-- R384: a `ptset` performed: every entry of the group is written, or none; the status. -/
def performPtset (w : Work) (c : Ctx) (a : VAddr) (full val : Bool) (m : Nat) (v : Word) : Work × Nat :=
  match walk w c a with
  | .leaf e k level _ =>
    if full && (!pteV v || !pteL v || decide (pteSize v ≠ pteSize e)) then (w, 2)
    else
      let n := groupEntries level (pteSize e)
      let first := keyOffset k / (8 * n) * (8 * n)
      ((List.range n).foldl (fun w i =>
        let k := kHbm (first + 8 * i)
        w.homes k (wordBytes (ptsetWord (w.word k) full val m v))) w, 0)
  | _ => (w, 1)

/-- R385: whether an address lies in an invalidated range. -/
def Inval.covers (i : Inval) (va : Nat) : Bool := i.all || (decide (i.lo ≤ va) && decide (va < i.lo + i.size))

/-- R385: whether a page meets an invalidated range. -/
def Inval.meets (i : Inval) (page bytes : Nat) : Bool := i.all || (decide (i.lo < page + bytes) && decide (page < i.lo + i.size))

/-- R247, R257, R385: an invalidation begins: the translations it covers leave every cache, with the visitor lines of remote pages,
and the accesses that went by one of them are noted. -/
def startInval (d : Dev) (ctx lo size : Nat) (wave : Option (Nat × Nat)) : Dev :=
  let i : Inval := { num := d.invalNum + 1, ctx, lo, size, all := size == 0, but := [], wave, pending := [] }
  let keep_ (e : TlbEntry) : Bool := !(e.ctx == ctx && i.meets e.page e.size)
  let gone := (d.cores.flatMap Core.tlb ++ d.xcache.flatten).filter (fun e => !keep_ e)
  let by_ (va : Nat) : Bool := i.covers va || gone.any (fun e => decide (e.page ≤ va) && decide (va < e.page + e.size))
  let pending := (d.waves.filter (fun v => v.ctx == ctx)).flatMap (fun v =>
    (v.recs.filter (fun r => isAccess r.op && !r.frozen && !r.phys.isEmpty &&
      r.left.any (fun a => !a.share && by_ (a.va v).toNat))).map (fun r => (v.uid, r.seq)))
  { d with
    invalNum := d.invalNum + 1
    cores := d.cores.map (fun c => { c with tlb := c.tlb.filter keep_ })
    xcache := d.xcache.map (List.filter keep_)
    visitors := d.visitors.filter (fun x => x.ctx != ctx || !i.covers x.va)
    invals := d.invals ++ [{ i with pending }] }

/-- R385: `tlbinv`: it starts when the earlier `ptset`s are written, and the split waits until it completes. -/
def tlbinvOp (s : Iss) : Work :=
  s.onceOp [[.ptr], [.n32, .n64]] [] (fun s xs =>
    let a := addrOf (opnd xs 0)
    let n := (opnd xs 1).toNat
    match s.p.stage with
    | .tlbinv num => if s.w.d.invals.any (fun i => i.num == num) then s.wait 10 else s.pop.done
    | _ =>
      if !s.service then s.trap tProt 0
      else if a.toNat % 4096 ≠ 0 ∨ n % 4096 ≠ 0 then s.trapAt tAlign s.p.pc 0 0 a.toNat
      else if 2 ^ 40 < n then s.trapAt tBounds s.p.pc 0 0 a.toNat
      else if s.v.recs.any (fun r => r.kind == 11) || !recFree s.v then s.wait 10
      else
        let r := s.recOf 0 12 (maskOf (s.active.take 1)) (.tlbinv a n (s.w.d.invalNum + 1)) []
        ((s.addRec r).stage (.tlbinv (s.w.d.invalNum + 1))).wait 10 |>.upd (fun d =>
          startInval d s.v.ctx a.toNat n (some (s.v.uid, r.seq))))

def execTlbinv (f : Form) (st : State) : Host.Outcome State Fault Refusal := st.issue (.tlbinv f) tlbinvOp

/-! ## The page watch table (R387) -/

/-- R387: `pgcnt`: its result arrives 200 cc after issue. -/
def pgcntOp (s : Iss) : Work :=
  s.onceOp [[.ptr]] [.n32] (fun s xs =>
    let rst := s.f.x13.getLsbD 0
    if !s.service then s.trap tProt 0
    else if !recFree s.v then s.wait 10
    else
      let r := { s.recOf (if rst then 2 else 0) 13 (maskOf s.active) (.pgcnt (addrOf (opnd xs 0)) rst) [] with
        state := .timed (s.cc + 200) }
      let es := s.bound [.n32]
      ((s.pop.addRec r).deliver s.active [.n32] (fun _ => es)).done)

def execPgcnt (f : Form) (st : State) : Host.Outcome State Fault Refusal := st.issue (.pgcnt f) pgcntOp

end Sys2Proof.Machine
end

