-- ==== Sys2Proof/Machine/Filters.lean ====
section
/-! DEFINITION. What the units that execute class I2 operations share: the filter stores (spec/16 R418, R419), the flight
recorder's order (spec/17 R435), and the rejection of a register write (spec/00 R10). -/

namespace Sys2Proof.Machine

/-! ## Filter entries (R418) -/

/-- R418: the lane entries each kind of store holds. -/
def filterCap : UnitId → Nat
  | .bank _ => 1024
  | .group _ => 512
  | .bufUnit _ _ => 256
  | .receiver _ _ => 128
  | .launchUnit => 64
  | .watchTable => 64

/-- Whether a task holds its places. -/
def Task.holds (t : Task) : Bool := match t.state with
  | .resident | .saving | .settled | .restoring | .stopping => true
  | _ => false

/-- The linear core of a place 4 (x + 12y) + c of a task's rectangle. -/
def rectCore (t : Task) (core : Nat) : Nat := 4 * t.pos (core / 4 % 12) (core / 4 / 12) + core % 4

/-- R418, R419: the unit of the package that holds an entry kept under a unit of a task: the unit of the task's quad or core; none
while the task holds no place and its entries are in its image. -/
def storeUnit (d : Dev) : UnitId → Option UnitId
  | .bufUnit t pos => (d.task t).bind (fun x => if x.holds then some (.bufUnit 0 (quadAt d t pos)) else none)
  | .receiver t core => (d.task t).bind (fun x => if x.holds then some (.receiver 0 (rectCore x core)) else none)
  | u => some u

/-- R418: the entries in the store of a unit, oldest first: those it has not written to an overflow area. -/
def storeEntries (d : Dev) (unit : UnitId) : List Filter :=
  d.filters.filter (fun f => !f.spilled && (f.unit == unit || storeUnit d f.unit == storeUnit d unit))

/-- R418: what a unit has recorded for a lane of an operation, in its store or in the context's overflow area. -/
def findFilter (d : Dev) (unit : UnitId) (launchId tag step lane : Nat) : Option Filter :=
  d.filters.find? (fun f => f.unit == unit && f.launchId == launchId && f.tag == tag && f.step == step && f.lane == lane)

/-- R418: whether the mark of a context is set. -/
def marked (d : Dev) (ctx : Nat) : Bool := match d.ctx ctx with
  | some c => c.marked
  | none => false

/-- R418: the entry a full store writes to the overflow area: its oldest of a marked context. -/
def spillVictim (d : Dev) (unit : UnitId) : Option Filter :=
  (storeEntries d unit).find? (fun f => marked d f.ctx)

/-- R418: room for one more entry: a free place, or one made by a spill; none where the store is full of entries of unmarked
contexts. -/
def roomFor (d : Dev) (unit : UnitId) : Option Dev :=
  if (storeEntries d unit).length < filterCap unit then some d
  else (spillVictim d unit).map (fun v => { d with filters := d.filters.map (fun f => if f = v then { f with spilled := true } else f) })

/-- R418: some entries kept, or none of them. -/
def keepFilters (d : Dev) : List Filter → Option Dev
  | [] => some d
  | f :: fs => match roomFor d f.unit with
    | some d => keepFilters { d with filters := d.filters ++ [f] } fs
    | none => none

/-! ## The recorder's order (R435) -/

/-- Log 40: the bytes an item takes of the region: 64 and its contents, in whole units of 64. -/
def LogItem.size : LogItem → Nat
  | .launch _ _ _ t => 64 * (1 + (8 * t.desc.length + 8 * t.marion.length + 64 * t.groups.length + t.params.length + 63) / 64)
  | .hostMemory _ _ bs | .inbound (.store _ _ _ bs) => 64 * (1 + (bs.length + 63) / 64)
  | .mmio _ _ | .inbound _ | .order _ _ _ _ => 64

/-- R435: an item added to the log and to the reserved HBM region, while the region has room. The bytes of an item are free
values (log 40). -/
def putItem (w : Work) (x : LogItem) : Work :=
  let used := (w.d.mg.recLog.map LogItem.size).foldl (· + ·) 0
  if 2 ^ bits w.d.mg.recBase 57 7 < used + x.size then w.upd (fun d => d.updMg (fun m => { m with recFull := true }))
  else
    let bytes := (List.range x.size).map (fun i => Config.freeByte (w.d.freeCtr + i))
    (w.homes (kHbm ((bits w.d.mg.recBase 0 57 + used) % 2 ^ 40)) bytes).upd (fun d =>
      { d with freeCtr := d.freeCtr + x.size }.updMg (fun m => { m with recLog := m.recLog ++ [x] }))

/-- R435: what happens is logged: in record mode, until the region has filled. -/
def logItem (w : Work) (x : LogItem) : Work := if w.d.mg.recMode == .record && !w.d.mg.recFull then putItem w x else w

/-- The first logged item that satisfies `p` leaves the log. -/
def dropFirst (p : LogItem → Bool) : List LogItem → List LogItem
  | [] => []
  | x :: t => if p x then t else x :: dropFirst p t

/-- Whether a logged item is an operation of a unit. -/
def orderOf (bank : Bool) (unit : Nat) : LogItem → Bool
  | .order b u _ _ => b == bank && u == unit
  | _ => false

/-- R435: in replay mode, whether an operation is the next in a unit's logged order; the log entry it uses up. -/
def orderGate (w : Work) (bank : Bool) (unit launchId tag : Nat) : Option Work :=
  if w.d.mg.recMode != .replay then some (logItem w (.order bank unit launchId tag))
  else match w.d.mg.recLog.find? (orderOf bank unit) with
    | some (.order _ _ l t) =>
      if l = launchId ∧ t = tag then some (w.upd (fun d => d.updMg (fun m => { m with recLog := dropFirst (orderOf bank unit) m.recLog })))
      else none
    | _ => some w

/-- Whether a logged item is an input: a launch, or what the host or another package did. -/
def inputItem : LogItem → Bool
  | .launch _ _ _ _ | .hostMemory _ _ _ | .mmio _ _ | .inbound _ => true
  | .order _ _ _ _ => false

/-- R435: in replay mode, the input the log has next. -/
def nextInput (d : Dev) : Option LogItem := if d.mg.recMode == .replay then d.mg.recLog.find? inputItem else none

/-- R435: the log's next input has been taken. -/
def dropInput (d : Dev) : Dev := d.updMg (fun m => { m with recLog := dropFirst inputItem m.recLog })

/-- R435: an input of the host or of another package: logged in record mode; in replay mode it must be the next one of the log,
until the log has none. -/
def inputGate (w : Work) (x : LogItem) : Option Work := match nextInput w.d with
  | some y => if y = x then some (w.upd dropInput) else none
  | none => some (logItem w x)

/-! ## Register writes (R10) -/

/-- R10, R446: a register write rejected: nothing changes but the record of it. -/
def reject (d : Dev) (offset : Nat) : Dev := d.updMg (fun m => { m with reject := some (offset % 2 ^ 32) })

/-- R445: where a queue, a context block and a core block lie. -/
def queueOffset (q : Nat) : Nat := 0x00010000 + 32 * q
def blockOffset (j : Nat) : Nat := 0x00100000 + 0x1000 * j
def coreOffset (i : Nat) : Nat := 0x00200000 + 0x100 * i

/-- R10, R438: a write to a register: rejected in the safe state or where it is malformed. -/
def regWrite (w : Work) (offset : Nat) (ok : Bool) (k : Work → Work) : Work :=
  if w.d.mg.safe || !ok then w.upd (fun d => reject d offset) else k w

end Sys2Proof.Machine
end

