-- ==== Sys2Proof/Machine/Launch.lean ====
section
/-! DEFINITION. The launch unit: launch queues (spec/14 R383), acceptance (spec/02 R39 to R41, R371, R379 to R382), placement
(R48, R49, R237, R313), rotation (R57) and retirement (R37, R42). -/

namespace Sys2Proof.Machine

/-! ## Reading what a launch names -/

/-- What reading a range of a context meets. -/
inductive Got where
  | bytes (bs : List Byte)
  | untranslated (va : VAddr)
  | denied
  /-- R261: a byte of it, or an entry of a walk, is uncorrectable or out of reach. -/
  | lost (key : Nat)
deriving DecidableEq, Repr

/-- R382, R448: `n` bytes of a context from an address, by parts of at most 4 KiB. `fuel` bounds the parts. -/
def readRange (w : Work) (c : Ctx) : Nat → VAddr → Nat → Got
  | 0, _, _ => .bytes []
  | fuel + 1, a, n =>
    if n = 0 then .bytes []
    else
      let part := min n (4096 - a.toNat % 4096)
      match direct w c a false, directLost w c a true with
      | .untranslated, _ => .untranslated a
      | _, some k => .lost k
      | .key k, none => (match lostIn w.d k part, readRange w c fuel (a + BitVec.ofNat 57 part) (n - part) with
        | some x, _ => .lost x
        | none, .bytes bs => .bytes (w.bytes k part ++ bs)
        | none, r => r)
      | _, none => .denied

/-- The same, with fuel enough. -/
def readSpan (w : Work) (c : Ctx) (a n : Nat) : Got := readRange w c (n / 4096 + 2) (BitVec.ofNat 57 a) n

/-- The dwords of some bytes. `n` of them. -/
def dwordsOf (n : Nat) (bs : List Byte) : List Word :=
  (List.range n).map (fun i => BitVec.ofNat 64 (ofBytes ((bs.drop (8 * i)).take 8)))

/-! ## Checks of a descriptor (R39, R40, R380) -/

/-- R30, R39: the waves of a launch. -/
def Launch.waves (l : Launch) : Nat := l.tasks * l.w * l.h * 4 * l.k

/-- R39, R233, R380: the limits. `marion` says whether the context's table would hold a valid entry. -/
def limitsOk (l : Launch) (marion : Bool) : Bool :=
  decide (1 ≤ l.w ∧ l.w ≤ 12 ∧ 1 ≤ l.h ∧ l.h ≤ 6 ∧ 1 ≤ l.k ∧ l.k ≤ (if marion then 46 else 48)) &&
  decide (l.nm + l.nc + l.nv = l.k ∧ 1 ≤ l.t ∧ l.t ≤ 8 ∧ l.nm * l.t ≤ 16 ∧ l.waves ≤ 65536) &&
  decide (l.share ≤ 256 * 8192 ∧ l.nb ≤ 32 ∧ l.ns ≤ 8 ∧ l.nd ≤ 64 ∧ l.stackBytes ≤ 16384 ∧ l.paramBytes ≤ 4096) &&
  decide (l.ngrp ≤ 256 ∧ l.nmar ≤ 256 ∧ bits (l.d 12) 0 3 = 0)

/-- R380: the reserved fields, with the entry PC of a role that has no waves. -/
def reservedOk (l : Launch) : Bool :=
  bits (l.d 0) 0 24 == 0 && bits (l.d 1) 0 20 == 0 && bits (l.d 8) 0 16 == 0 && bits (l.d 10) 0 46 == 0 &&
  [4, 5, 6, 7, 9, 11, 12].all (fun i => bits (l.d i) 57 7 == 0) && [13, 14, 15].all (fun i => l.d i == 0) &&
  (l.nv != 0 || l.d 4 == 0) && (l.nm != 0 || l.d 5 == 0) && (l.nc != 0 || l.d 6 == 0)

/-- R377: a place map entry is present. -/
def presentEntry (e : Nat) : Bool := e.testBit 4

/-- R44, R377: whether a logical position is present. -/
def positionPresent (d : Dev) (pos : Nat) : Bool :=
  presentEntry ((d.placeMap.getD (dieOf pos) []).getD (pos % 12 % 3 + 3 * (pos / 12 % 3)) 0)

/-- R48: the origins of a rectangle, rows first. -/
def origins (w h : Nat) : List (Nat × Nat) :=
  (List.range (7 - h)).flatMap (fun y => (List.range (13 - w)).map (fun x => (x, y)))

/-- The positions of a rectangle at an origin. -/
def rectAt (w h : Nat) (o : Nat × Nat) : List Nat :=
  (List.range h).flatMap (fun y => (List.range w).map (fun x => 12 * (o.2 + y) + (o.1 + x)))

/-- R40: whether the rectangle fits somewhere when every place is free. -/
def fitsGrid (d : Dev) (w h : Nat) : Bool := (origins w h).any (fun o => (rectAt w h o).all (positionPresent d))

/-! ## Group images (R371) -/

/-- R370: an entry with nothing in it. -/
def Group.unused : Group :=
  { mode := 0, g0 := 0, g1 := 0, members := [], count := 0, arrived := 0, gen := 0, broken := false,
    slots := List.replicate 8 (0, .n64), sets := List.replicate 8 none }

/-- R371: the waves a pattern names among the first `n`; none where it is malformed or names others. -/
def patternOf (n : Nat) (g : Word) : Option (List Nat) :=
  let (lo, hi, stride, run) := (bits g 48 16, bits g 32 16, bits g 16 16, bits g 0 16)
  if stride = 0 ∨ run = 0 ∨ stride < run then none
  else
    let ms := (List.range (hi + 1 - lo)).filterMap (fun i => if i % stride < run then some (lo + i) else none)
    if ms.all (fun m => decide (m < n)) then some ms else none

/-- Whether a list of numbers holds each once. -/
def onceEach (xs : List Nat) : Bool := (distinct xs).length == xs.length

/-- What building the group table of a launch meets: an entry, a wait, or a rejection, for a reserved field (R10) or not. -/
inductive Built (α : Type) where
  | ok (x : α)
  | wait (va : VAddr)
  | bad (reserved : Bool)
  | lost (key : Nat)
deriving DecidableEq, Repr

/-- R371: one entry of the image. -/
def groupEntry (w : Work) (c : Ctx) (n : Nat) (g0 g1 : Word) : Built Group :=
  let made (ms : List Nat) : Built Group :=
    .ok ({ Group.unused with mode := bits g0 62 2, g0, g1, members := ms, count := ms.length } : Group)
  match bits g0 62 2 with
  | 0 => if g0 = 0 ∧ g1 = 0 then made [] else .bad true
  | 1 => if bits g0 0 62 ≠ 0 then .bad true else match patternOf n g1 with
    | some ms => made ms
    | none => .bad false
  | 2 =>
    let k := bits g0 0 17
    let a := bits g1 0 57
    if bits g0 17 45 ≠ 0 ∨ bits g1 57 7 ≠ 0 then .bad true
    else if k = 0 ∨ 65536 < k ∨ a % 2 ≠ 0 then .bad false
    else match readSpan w c a (2 * k) with
      | .untranslated va => .wait va
      | .denied => .bad false
      | .lost k => .lost k
      | .bytes bs =>
        let ms := (List.range k).map (fun i => ofBytes ((bs.drop (2 * i)).take 2))
        if ms.all (fun m => decide (m < n)) && onceEach ms then made (sortBy id ms) else .bad false
  | _ => .bad true

/-- R371: the entries of an image of `k` entries, from entry `i` on. -/
def groupEntries' (w : Work) (c : Ctx) (n : Nat) : List Word → Built (List Group)
  | g0 :: g1 :: t => match groupEntry w c n g0 g1 with
    | .ok g => match groupEntries' w c n t with
      | .ok gs => .ok (g :: gs)
      | r => r
    | .wait va => .wait va
    | .lost k => .lost k
    | .bad r => .bad r
  | _ => .ok []

/-- R371: the group table of a launch of `n` waves. -/
def groupTable (w : Work) (c : Ctx) (l : Launch) : Built (List Group) :=
  match readSpan w c (bits (l.d 9) 0 57) (16 * l.ngrp) with
  | .untranslated va => .wait va
  | .denied => .bad false
  | .lost k => .lost k
  | .bytes bs => match groupEntries' w c l.waves (dwordsOf (2 * l.ngrp) bs) with
    | .ok gs =>
      if (distinct (gs.flatMap Group.members)).any (fun m => decide (4 < (gs.filter (fun g => g.members.contains m)).length))
      then .bad false else .ok (gs ++ List.replicate (256 - gs.length) Group.unused)
    | r => r

/-- R371: gid0 to gid3 of a wave. -/
def gidsOf (gs : List Group) (n : Nat) : List GroupRef :=
  let mine := ((enum gs).filter (fun ig => ig.2.members.contains n)).map (fun ig =>
    ({ member := true, entry := ig.1, arr := false, gen := 0 } : GroupRef))
  (mine ++ List.replicate 4 ({ member := false, entry := 0, arr := false, gen := 0 } : GroupRef)).take 4

/-! ## Acceptance (R40, R41, R382) -/

/-- R379: the context's table with the first entries replaced. -/
def marionWith (c : Ctx) (ms : List Word) : List Word := ms ++ c.marion.drop ms.length

/-- Whether a Marionette table holds a valid entry. -/
def marionValid (ms : List Word) : Bool := ms.any (fun e => e.getLsbD 63)

/-- What the checks of a descriptor find. -/
inductive Checked where
  | accept (marion : List Word) (groups : List Group) (params : List Byte)
  /-- R10: for a reserved field that is not zero, or not. -/
  | reject (reason : Nat) (reserved : Bool)
  | wait (va : VAddr)
  /-- R261: unreadable for an uncorrectable byte. -/
  | lost (reason key : Nat)
deriving DecidableEq, Repr

/-- R40, R381: the checks of a descriptor, in the order of its reject reasons. `l` has its descriptor and the identifier it
is about to receive. -/
def checkLaunch (w : Work) (c : Ctx) (l : Launch) : Checked :=
  if !limitsOk l false then .reject 1 (!reservedOk l)
  else if !reservedOk l then .reject 2 true
  else if l.prereqs.any (fun p => decide (l.id ≤ p)) then .reject 3 false
  else if !fitsGrid w.d l.w l.h then .reject 4 false
  else match readSpan w c (bits (l.d 11) 0 57) (8 * l.nmar) with
    | .untranslated va => .wait va
    | .denied => .reject 5 false
    | .lost k => .lost 5 k
    | .bytes mb =>
      let ms := dwordsOf l.nmar mb
      if ms.any (fun e => bits e 57 6 != 0 || bits e 0 3 != 0) then .reject 5 (ms.any (fun e => bits e 57 6 != 0))
      else if !limitsOk l (marionValid (marionWith c ms)) then .reject 1 false
      else match groupTable w c l with
        | .wait va => .wait va
        | .bad r => .reject 5 r
        | .lost k => .lost 5 k
        | .ok gs => match readSpan w c (bits (l.d 7) 0 57) l.paramBytes with
          | .untranslated va => .wait va
          | .denied => .reject 6 false
          | .lost k => .lost 6 k
          | .bytes ps => .accept ms gs ps

/-- A launch with its descriptor, before it is accepted. -/
def Launch.fresh (ctx id order : Nat) (desc : List Word) : Launch :=
  let pc (i : Nat) : VAddr := BitVec.ofNat 57 (bits (desc.getD i 0) 0 57)
  let pcs := ([4, 5, 6].map (fun i => bits (desc.getD i 0) 0 57)).filter (· ≠ 0)
  { ctx, id, order, desc, state := .held, reason := 0, trappedTasks := 0, params := [], groups := [],
    codeBase := BitVec.ofNat 57 (match pcs with
      | [] => 0
      | p :: ps => ps.foldl min p),
    moved := 0, pcV := pc 4, pcM := pc 5, pcC := pc 6, statusPending := false, counted := false }

/-- R36: a task of a launch, not yet placed. -/
def newTask (l : Launch) (uid index cc : Nat) : Task :=
  { uid, ctx := l.ctx, launchId := l.id, index, state := .waiting, placedOnce := false, ox := 0, oy := 0, quads := [],
    cores := [], waitSince := cc, residentSince := 0, preemptOrder := 0, trapped := false, handlers := false, claim := none,
    committing := [], image := none, chains := [], msgs := [], packets := [] }

/-- R40, R340: a launch rejected: it has an identifier and no task. -/
def rejectLaunch (w : Work) (l : Launch) (reason : Nat) : Work :=
  let l := { l with reason, state := .rejected }
  let w := writeStatus (w.upd (fun d => { d with launches := d.launches ++ [l] })) l.ctx l.id
  post w .launchUnit l.ctx (launchNotif w.d l) (.launch l.ctx l.id)

/-- R41, R42, R382: a launch accepted: its images are captured, its tasks exist, and it is Held, Ready or Cancelled. -/
def acceptLaunch (w : Work) (l : Launch) (ms : List Word) (gs : List Group) (ps : List Byte) : Work :=
  let l := { l with params := ps, groups := gs }
  let w := w.upd (fun d => { d.updCtx l.ctx (fun c => { c with marion := marionWith c ms }) with
    launches := d.launches ++ [l]
    tasks := d.tasks ++ (List.range l.tasks).map (fun i => newTask l (d.uid + 1 + i) i d.cc)
    uid := d.uid + l.tasks })
  match heldFate w.d l with
  | some .cancelled => releaseHeld (w.d.launches.length + 1) w l.ctx
  | some _ => setLaunch w l.ctx l.id .ready
  | none => setLaunch w l.ctx l.id .held

/-- R10, R40, R41: a launch of a context as the launch unit took it: the next identifier, and Rejected or accepted. A reserved
field that is not zero also raises ILLEGAL against the context (log 92, DEDUCED). -/
def settleLaunch (w : Work) (c : Ctx) (t : Taken) : Nat × Work :=
  let l := Launch.fresh c.id c.nextLaunch w.d.accepted t.desc
  let w := w.upd (fun d => { d.updCtx c.id (fun c => { c with nextLaunch := c.nextLaunch + 1 }) with accepted := d.accepted + 1 })
  let w := if t.reserved then w.upd (fun d => ctxTrap d c.id tIllegal 0) else w
  (l.id, if t.reason = 0 then acceptLaunch w l t.marion t.groups t.params else rejectLaunch w l t.reason)

/-- R435: a launch taken: logged in record mode. -/
def noteLaunch (w : Work) (from_ : LaunchFrom) (c : Ctx) (t : Taken) : Work := logItem w (.launch from_ c.id c.nextLaunch t)

/-- R40: a descriptor checked, of which the page acceptance waits on, or what the launch unit takes. -/
def takeLaunch (w : Work) (from_ : LaunchFrom) (c : Ctx) (desc : List Word) : (Nat × Work) ⊕ VAddr :=
  let settle (t : Taken) : Nat × Work := settleLaunch (noteLaunch w from_ c t) c t
  let rejected (r : Nat) (b : Bool) : Taken := { desc, reason := r, reserved := b, marion := [], groups := [], params := [] }
  if desc.isEmpty then .inl (settle (rejected 6 false))
  else match checkLaunch w c (Launch.fresh c.id c.nextLaunch w.d.accepted desc) with
    | .wait va => .inr va
    | .reject r b => .inl (settle (rejected r b))
    | .lost r k => .inl ((settle (rejected r false)).1, (settle (rejected r false)).2.upd (fun d => ctxMemerr d c.id k))
    | .accept marion groups params => .inl (settle { desc, reason := 0, reserved := false, marion, groups, params })

/-- R40: a descriptor at an address of a context taken. -/
def takeAt (w : Work) (from_ : LaunchFrom) (c : Ctx) (a : VAddr) : (Nat × Work) ⊕ VAddr :=
  match readSpan w c a.toNat 128 with
  | .untranslated va => .inr va
  | .denied => takeLaunch w from_ c []
  | .lost k => takeLaunch (w.upd (fun d => ctxMemerr d c.id k)) from_ c []
  | .bytes bs => takeLaunch w from_ c (dwordsOf 16 bs)

/-- R435: in replay mode, a launch taken from the log, where its descriptor, its images and its parameter block stand. -/
def takeLogged (w : Work) (c : Ctx) (t : Taken) : Nat × Work := settleLaunch (w.upd dropInput) c t

/-- R383: the fields of a launch queue descriptor. -/
def LaunchQueue.enabled (q : LaunchQueue) : Bool := q.q0.getLsbD 63
def LaunchQueue.ctx (q : LaunchQueue) : Nat := bits q.q0 32 16
def LaunchQueue.log2 (q : LaunchQueue) : Nat := bits q.q0 0 5

/-- R383: the address of the descriptor at the head of a queue. -/
def LaunchQueue.headAt (q : LaunchQueue) : VAddr := BitVec.ofNat 57 (bits q.q1 0 57 + 128 * (q.head % 2 ^ q.log2))

/-- R40: the descriptor at the head of a launch queue accepted, or its acceptance waits. -/
def acceptQueue (w : Work) (n : Nat) (q : LaunchQueue) (c : Ctx) : Work :=
  let set (f : LaunchQueue → LaunchQueue) (w : Work) : Work := w.upd (fun d => { d with queues := updAt d.queues n f })
  match takeAt w (.queue n) c q.headAt with
  | .inr va => postXlate (set (fun q => { q with waitsOn := some va, resumed := false }) w) .launchUnit c.id 0xFFFFFFFF va
  | .inl (_, w) =>
    let head := (q.head + 1) % 65536
    let w := w.upd (fun d => { d with tails := d.tails.filter (fun x => x != (n, head)) })
    set (fun q => { q with head, waitsOn := none, resumed := false }) w

/-- R46: the queue whose next descriptor is accepted: that of the earliest tail write with descriptors left, but for queues that
wait on a page. -/
def nextQueue (d : Dev) : Option Nat :=
  (d.tails.find? (fun x => match d.queues[x.1]? with
    | some q => q.enabled && (d.ctx q.ctx).isSome && q.waitsOn.isNone && q.head != q.tail && q.head != x.2
    | none => false)).map Prod.fst

/-- R382, R418: the filter entries of a `launch`, one for each of its lanes. -/
def launchFilters (v : Wave) (r : Rec) (id : Nat) : List Filter :=
  (lanesOf r.lanes).map (fun lane => {
    unit := .launchUnit, ctx := v.ctx, launchId := v.launchId, task := v.task, tag := tagOf v r.seq, step := 0, lane,
    result := [BitVec.ofNat 64 id], spilled := false })

/-- R382: the identifier of a `launch` on its way back, in every lane. -/
def launchReply (d : Dev) (v : Wave) (r : Rec) (id : Nat) : Dev :=
  reply d v.uid r.seq ((lanesOf r.lanes).map (fun l => (l, [(BitVec.ofNat 64 id, .n32)])))

/-- The request of a `launch` leaves the launch unit's list. -/
def dropLaunchReq (d : Dev) (q : LaunchReq) : Dev :=
  { d with launchReqs := d.launchReqs.filter (fun x => !(x.wave == q.wave && x.seq == q.seq)) }

/-- R382, R435: the `launch` a request comes from: its launch, and its operation tag. -/
def LaunchReq.origin (d : Dev) (q : LaunchReq) : LaunchFrom := match d.wave q.wave with
  | some v => .wave v.launchId (tagOf v q.seq)
  | none => .wave 0 0

/-- R418: the filter entry that holds what the launch unit answered to the `launch` of a request before. -/
def answeredBefore (d : Dev) (q : LaunchReq) (c : Ctx) : Option Filter := match d.wave q.wave with
  | some v => match v.rec_ q.seq with
    | some r => if c.marked then findFilter d .launchUnit v.launchId (tagOf v r.seq) 0 ((lanesOf r.lanes).headD 0) else none
    | none => none
  | none => none

/-- R382, R418: the descriptor of a `launch`, taken as `take` does, is accepted once: a replayed one returns the first
identifier. -/
def acceptRequest (w : Work) (q : LaunchReq) (c : Ctx) (take : Work → (Nat × Work) ⊕ VAddr) : Work :=
  let wave := w.d.wave q.wave
  let rec_ := wave.bind (fun v => v.rec_ q.seq)
  match wave, rec_, answeredBefore w.d q c with
  | some v, some r, some f => w.upd (fun d => launchReply (dropLaunchReq d q) v r ((f.result.headD 0).toNat))
  | _, _, _ =>
    let full := match wave, rec_ with
      | some v, some r => (keepFilters w.d (launchFilters v r 0)).isNone
      | _, _ => false
    if full then
      w.upd (fun d => (dropLaunchReq d q).updWave q.wave (fun v => v.updRec q.seq (fun r => { r with state := .refused d.cc })))
    else match take w with
      | .inr va =>
        let mine (x : LaunchReq) : Bool := x.wave == q.wave && x.seq == q.seq
        let waiting (x : LaunchReq) : LaunchReq := { x with waitsOn := some va, resumed := false }
        postXlate (w.upd (fun d => { d with launchReqs := updWhere mine waiting d.launchReqs })) .launchUnit c.id 0xFFFFFFFF va
      | .inl (id, w) => w.upd (fun d =>
          let d := dropLaunchReq d q
          match wave, rec_ with
          | some v, some r => launchReply ((keepFilters d (launchFilters v r id)).getD d) v r id
          | _, _ => d)

/-- R40: the descriptor of a request read at the address it names. -/
def takeRequest (q : LaunchReq) (c : Ctx) (w : Work) : (Nat × Work) ⊕ VAddr := takeAt w (q.origin w.d) c q.addr

/-- One acceptance from a queue, or of the oldest request of a `launch`. -/
def acceptFresh (w : Work) (queue : Option Nat) (waits : Bool) : Except Refusal Work := match queue with
  | some n => match w.d.queues[n]? with
    | none => cannot "no such launch queue"
    | some q => match w.d.ctx q.ctx with
      | none => cannot "the queue names no context"
      | some c =>
        if !q.enabled || q.head == q.tail then cannot "no descriptor in the queue"
        else if q.waitsOn.isSome != waits || q.resumed != waits then cannot "the queue waits, or does not"
        else if !waits && nextQueue w.d != some n then cannot "another queue's tail was written first"
        else .ok (acceptQueue w n q c)
  | none =>
    match w.d.launchReqs.find? (fun q => q.waitsOn.isSome == waits && q.resumed == waits && !uninjected w.d q.wave q.seq) with
    | none => cannot "no launch request"
    | some q => match w.d.ctx q.ctx with
      | none => cannot "the request's context is gone"
      | some c => .ok (acceptRequest w q c (takeRequest q c))

/-- R435: whether a request is the next launch of the log, or was answered before. -/
def isLogged (d : Dev) (from_ : LaunchFrom) (q : LaunchReq) : Bool :=
  !uninjected d q.wave q.seq && (q.origin d == from_ || (match d.ctx q.ctx with
    | some c => (answeredBefore d q c).isSome
    | none => false))

/-- R435: in replay mode, the next launch of the log taken: one of a queue at once, one of a `launch` at its request. -/
def acceptLogged (w : Work) (queue : Option Nat) (from_ : LaunchFrom) (ctx : Nat) (t : Taken) : Except Refusal Work :=
  match queue with
  | some n => match w.d.ctx ctx with
    | some c => if from_ == .queue n then .ok (takeLogged w c t).2 else cannot "the log has another launch first"
    | none => cannot "the launch's context is gone"
  | none => match w.d.launchReqs.find? (isLogged w.d from_) with
    | none => cannot "the log has another launch first"
    | some q => match w.d.ctx q.ctx with
      | none => cannot "the request's context is gone"
      | some c => .ok (acceptRequest w q c (fun w => .inl (takeLogged w c t)))

/-- R40, R435: one acceptance: in replay mode from the log while it has inputs, else from a queue or a request. -/
def acceptFrom (w : Work) (queue : Option Nat) (waits : Bool) : Except Refusal Work :=
  if w.d.mg.safe then cannot "the safe state"
  else match nextInput w.d with
    | none => acceptFresh w queue waits
    | some (.launch from_ ctx _ t) => if waits then cannot "the log has another launch first" else acceptLogged w queue from_ ctx t
    | some _ => cannot "the log has another input first"

/-- R383, R46: a queue's TAIL written; a value that overruns the ring is rejected. -/
def tailWrite (w : Work) (queue : Nat) (value : Word) : Except Refusal Work :=
  match w.d.queues[queue]? with
  | none => cannot "no such launch queue"
  | some q =>
    let t := bits value 0 16
    let ok := bits value 16 48 == 0 && decide ((t + 65536 - q.head) % 65536 ≤ 2 ^ q.log2)
    .ok (regWrite w (queueOffset queue + 24) ok (fun w => w.upd (fun d => { d with
      queues := updAt d.queues queue (fun q => { q with tail := t })
      tails := if t = q.head then d.tails else d.tails ++ [(queue, t)] })))

/-- R383: the host writes a queue's TAIL. -/
def execLaunchQueueTailWrite (queue : Nat) (value : Word) (s : State) : Host.Outcome State Fault Refusal :=
  s.run (fun w => tailWrite w queue value)

/-- R40: the launch unit takes the next descriptor of a queue, or of a `launch`. -/
def execLaunchAccept (queue : Option Nat) (s : State) : Host.Outcome State Fault Refusal :=
  s.run (fun w => acceptFrom w queue false)

/-- R40: acceptance resumes after an invalidation that covers the page it waited on. -/
def execAcceptanceResume (queue : Option Nat) (s : State) : Host.Outcome State Fault Refusal :=
  s.run (fun w => acceptFrom w queue true)

/-! ## Retirement (R37, R42) -/

/-- R37: whether a task has ended, its exit committed. -/
def taskOver (d : Dev) (t : Task) : Bool :=
  t.state == .ended && t.committing.all (fun c => decide (c.2 ≤ (d.core c.1).committed))

/-- R37, R41, R42: a launch retires, and its dependents are released. -/
def execLaunchRetire (ctx launchId : Nat) (s : State) : Host.Outcome State Fault Refusal :=
  s.run (fun w => match w.d.launch ctx launchId with
    | none => cannot "no such launch"
    | some l =>
      if l.state != .running then cannot "the launch does not run"
      else if !w.d.tasks.all (fun t => !(t.ctx == ctx && t.launchId == launchId) || taskOver w.d t) then
        cannot "a task has not ended"
      else
        let w := setLaunch w ctx launchId .retired
        let w := w.upd (fun d => { d with tasks := d.tasks.filter (fun t => !(t.ctx == ctx && t.launchId == launchId)) })
        .ok (post w .launchUnit ctx (launchNotif w.d ((w.d.launch ctx launchId).getD l)) (.launch ctx launchId)))

/-! ## Placement (R48, R49) -/

/-- Whether a task holds a logical position. -/
def Task.covers (d : Dev) (t : Task) (pos : Nat) : Bool := match d.launch t.ctx t.launchId with
  | some l => t.holds && (rectAt l.w l.h (t.ox, t.oy)).contains pos
  | none => false

/-- What a task holds, or would hold, in a quad, without its waves. -/
def Task.quadAt (d : Dev) (t : Task) (pos : Nat) : Option TaskQuad := match d.launch t.ctx t.launchId with
  | some l => t.quads[(pos / 12 - t.oy) * l.w + (pos % 12 - t.ox)]?
  | none => none

/-- The tasks that hold a position, but for some. -/
def holdersAt (d : Dev) (gone : List Nat) (pos : Nat) : List Task :=
  d.tasks.filter (fun t => !gone.contains t.uid && t.covers d pos)

/-- R48: the contexts that hold handler slots on the cores of a position. -/
def handlerCtxs (ts : List Task) : List Nat := distinct ((ts.filter Task.handlers).map Task.ctx)

/-- R237, R323: the share a task needs in the i-th quad of its rectangle, and of it the bytes of extensions. -/
def shareNeed (l : Launch) (t : Task) (i : Nat) : Nat × Nat := match t.quads[i]? with
  | some q => (q.placed, q.share - q.placed)
  | none => (l.share, 0)

/-- R48, R224: the wave slots and tiles that a task's waves need on a core of its rectangle: of a task placed before, those of its
waves not freed (log 86, DESIGN CHOICE). -/
def waveNeed (d : Dev) (l : Launch) (t : Task) (x y c : Nat) : Nat × Nat :=
  if !t.placedOnce then (l.k, l.nm * l.t)
  else
    let vs := d.waves.filter (fun v => v.task == t.uid && v.x == x && v.y == y && v.core == c && v.handler.isNone && !v.freed)
    (vs.length, (vs.map (fun v => v.tiles.length)).sum)

/-- R21: whether a change waits for the next context boundary of a quad: of its place map entry, or the mapping out of it or of a
slice of its die (log 64). -/
def unitChanges (d : Dev) (pos : Nat) : Bool :=
  let p := pos % 12 % 3 + 3 * (pos / 12 % 3)
  d.placePending.any (fun x => x.1 == dieOf pos && bits x.2 (5 * p) 5 != (d.placeMap.getD (dieOf pos) []).getD p 0) ||
  d.mg.failing.any (fun x => match x with
    | .quad q => q == pos
    | .slice die _ => die == dieOf pos
    | _ => false)

/-- R21, R48: whether a quad has free what a task needs there, and no change waits for its tasks to leave. -/
def quadRoom (d : Dev) (gone : List Nat) (l : Launch) (t : Task) (x y pos : Nat) : Bool :=
  let ts := holdersAt d gone pos
  let held := ts.filterMap (fun u => u.quadAt d pos)
  let (share, ext) := shareNeed l t (y * l.w + x)
  let hand := match d.ctx l.ctx with
    | some c => marionValid c.marion && !(handlerCtxs ts).contains l.ctx
    | none => false
  let slots := 2 * (handlerCtxs ts).length + (if hand then 2 else 0)
  let spare := (d.quad pos).spare + ((d.tasks.filter (fun u => gone.contains u.uid && u.covers d pos)).filterMap
    (fun u => u.quadAt d pos)).foldl (fun m q => m + (q.share - q.placed)) 0
  positionPresent d pos && !unitChanges d pos && !(d.quad pos).resetting &&
  decide ((held.map TaskQuad.placed).sum + share ≤ 2097152 ∧ ext ≤ spare) &&
  decide ((held.map (fun q => q.bufs.length)).sum + l.nb ≤ 32) &&
  decide ((held.map (fun q => q.rings.length)).sum + l.ns ≤ 8) &&
  decide ((held.map (fun q => q.descs.length)).sum + l.nd ≤ 64) &&
  (List.range 4).all (fun c =>
    let vs := d.waves.filter (fun v => ts.any (fun u => u.uid == v.task) && d.coreOf v == 4 * pos + c && v.handler.isNone && !v.freed)
    let (k, tiles) := waveNeed d l t x y c
    decide (vs.length + slots + k ≤ 48) && decide ((vs.map (fun v => v.tiles.length)).sum + tiles ≤ 16))

/-- R47, R448: whether a task waits for placement: its context does not hold it out. -/
def Task.waits (d : Dev) (t : Task) : Bool :=
  (match t.state with
   | .waiting | .saved => true
   | _ => false) &&
  (match d.launch t.ctx t.launchId, d.ctx t.ctx with
   | some l, some c => (l.state == .ready || l.state == .running) && !c.hold
   | _, _ => false)

/-- R409: the tasks that are leaving their places. -/
def leavingTasks (d : Dev) : List Nat := (d.tasks.filter (fun u => u.state == .saving || u.state == .settled)).map Task.uid

/-- R57: the positions a rotation keeps for a waiting task it makes room for, as long as the task will fit there, even against a
waiting task that comes earlier in the order of R48 (log 86, DESIGN CHOICE). -/
def claimed (d : Dev) (t : Task) : List Nat := match t.claim, d.launch t.ctx t.launchId with
  | some o, some l =>
    let fits (x y : Nat) : Bool := quadRoom d (leavingTasks d) l t x y (12 * (o.2 + y) + (o.1 + x))
    if t.waits d && (List.range l.h).all (fun y => (List.range l.w).all (fun x => fits x y)) then rectAt l.w l.h o else []
  | _, _ => []

/-- R48, R57: whether a quad has free what a task needs there, and is kept for no other. -/
def quadFits (d : Dev) (gone : List Nat) (l : Launch) (t : Task) (x y pos : Nat) : Bool :=
  quadRoom d gone l t x y pos && d.tasks.all (fun u => u.uid == t.uid || u.claim.isNone || !(claimed d u).contains pos)

/-- R48: the first origin at which a task fits. -/
def originFor (d : Dev) (gone : List Nat) (t : Task) : Option (Nat × Nat) := match d.launch t.ctx t.launchId with
  | none => none
  | some l => (origins l.w l.h).find? (fun o =>
      (List.range l.h).all (fun y => (List.range l.w).all (fun x => quadFits d gone l t x y (12 * (o.2 + y) + (o.1 + x)))))

/-- R48: the place of a waiting task in the order. -/
def waitKey (d : Dev) (t : Task) : Nat := match d.launch t.ctx t.launchId with
  | some l => ((7 - l.prio) * 2 ^ 64 + l.order) * 2 ^ 64 + (if t.placedOnce then 2 ^ 32 + t.preemptOrder else t.index)
  | none => 0

/-- R48: the waiting tasks in order. -/
def waitingTasks (d : Dev) : List Task := sortBy (waitKey d) (d.tasks.filter (Task.waits d))

/-- R48: the next task to be placed, and where. -/
def nextPlacement (d : Dev) : Option (Task × Nat × Nat) :=
  (waitingTasks d).findSome? (fun t => (originFor d [] t).map (fun o => (t, o.1, o.2)))

/-- R49: the scheduler a wave goes to, among those with a free slot. -/
def schedFor (d : Dev) (core : Nat) : Nat :=
  let load (s : Nat) : Nat := (schedWaves d core s).length
  ((List.range 8).foldl (fun b s => if load s < load b then s else b) 0)

/-- R15: the lowest free wave slot of a scheduler. -/
def slotFor (d : Dev) (core s : Nat) : Nat :=
  ((List.range 6).find? (fun i => (schedWaves d core s).all (fun v => v.slot != i))).getD 6

/-- R30: the role of the wave with index j. -/
def roleOf (l : Launch) (j : Nat) : Role := if j < l.nm then .m else if j < l.nm + l.nc then .c else .v

/-- R43: the entry PC of a role. -/
def entryPc (l : Launch) : Role → VAddr
  | .v => l.pcV
  | .m => l.pcM
  | .c => l.pcC

/-- R31, R90: a wave at launch. -/
def newWave (d : Dev) (l : Launch) (t : Task) (x y c j : Nat) : Wave :=
  let n := ((t.index * l.w * l.h + y * l.w + x) * 4 + c) * l.k + j
  let core := 4 * t.pos x y + c
  let sched := schedFor d core
  let role := roleOf l j
  { uid := d.uid + 1, task := t.uid, ctx := l.ctx, launchId := l.id, taskIndex := t.index, n, role, j, x, y, core := c, sched,
    slot := slotFor d core sched, service := l.svc, handler := none, residentAt := d.cc, lanes := List.replicate 32 Lane.reset,
    splits := [{ Split.first (entryPc l role) (BitVec.allOnes 32) with readyAt := d.cc + 256 }], spilled := [],
    spillHead := 0, spillCount := 0, swapDue := false, swapSplit := 0, created := 1, markCounter := 0, levels := [], depth := 0,
    books := List.replicate 4 0, oldBooks := none, pipes := PipeView.none, inboxes := List.replicate 4 [],
    tiles := if role == .m then (List.range l.t).map (fun i =>
        { data := .undef (d.freeCtr + i), anchor := undefAnchor (d.freeCtr + i), open_ := false, stamp := d.freeCtr + i, progress := 0,
          busyUntil := 0 }) else [],
    slots := [], fpFlags := 0, fpTrapEn := 0, intFlag := false, raisedAt := (0, 0, false), gids := gidsOf l.groups n, phase := 0,
    recs := [], recSeq := 0, counters := { stall := List.replicate 12 0, resident := 0, issued := 0, safePoints := 0 },
    sampled := { issued := 0, safePoints := 0, phase := 0, live := true }, freedAt := (0, 0),
    halted := false, haltList := [], haltSites := [], debugHalt := false, edited := false, homeWatch := none, heldTraps := [], replaying := false,
    exited := false, freed := false, stopped := false, awaitsEntry := false, seen := [], seenStores := [], knows := [], learned := [], fenceAt := 0 }

/-- A wave added to the device. -/
def addWave (d : Dev) (v : Wave) : Dev :=
  { d with waves := d.waves ++ [v], uid := d.uid + 1, freeCtr := d.freeCtr + v.tiles.length }

/-- R313: the `n` lowest numbers below `top` that are not in use. -/
def lowestFree (top n : Nat) (used : List Nat) : List Nat := ((List.range top).filter (fun i => !used.contains i)).take n

/-- R313: what a task is given in a quad: its share, and the lowest free buffers, rings and descriptors. -/
def bindQuad (d : Dev) (l : Launch) (pos : Nat) : TaskQuad :=
  let held := (holdersAt d [] pos).filterMap (fun u => u.quadAt d pos)
  { share := l.share, placed := l.share
    bufs := (lowestFree 32 l.nb (held.flatMap (fun q => q.bufs.map Buf.phys))).map Buf.unbound
    rings := (lowestFree 8 l.ns (held.flatMap (fun q => q.rings.map Ring.phys))).map (fun i =>
      { phys := i, slots := List.replicate 8 (false, 0), waited := [] })
    descs := (lowestFree 64 l.nd (held.flatMap (fun q => q.descs.map Prod.fst))).map (fun i => (i, none)) }

/-- R49: the waves of a task, in the order of their logical numbers. -/
def spawnWaves (d : Dev) (l : Launch) (t : Task) : Dev :=
  (List.range l.h).foldl (fun d y => (List.range l.w).foldl (fun d x => (List.range 4).foldl (fun d c =>
    (List.range l.k).foldl (fun d j => addWave d (newWave d l t x y c j)) d) d) d) d

/-- R503, R268: the snapshot a placed task starts from: each of its cores takes an entry, as soon as it can, before its waves issue
(log 88). -/
def launchSnapshot (d : Dev) (t : Task) : Dev :=
  let d := { d with waves := updWhere (fun v => v.task == t.uid) (fun v => { v with awaitsEntry := true }) d.waves }
  (taskCores d t).foldl (fun d c => (requestEntry d c).1) d

/-- R313, R392: a task at an origin, with nothing yet done. -/
def placeTask (d : Dev) (l : Launch) (t : Task) (ox oy : Nat) : Dev :=
  let quads := (rectAt l.w l.h (ox, oy)).map (bindQuad d l)
  let t := { t with
    ox, oy, quads, state := .resident, placedOnce := true, residentSince := d.cc, claim := none
    handlers := (match d.ctx l.ctx with
      | some c => marionValid c.marion
      | none => false)
    cores := List.replicate (4 * l.w * l.h) TaskCore.reset }
  launchSnapshot (spawnWaves (d.updTask t.uid (fun _ => t)) l t) t

/-- R48: the next waiting task in order, never placed before, is placed; with the first, its launch runs. -/
def execTaskPlacement (s : State) : Host.Outcome State Fault Refusal :=
  s.run (fun w => if w.d.mg.safe then cannot "the safe state" else match nextPlacement w.d with
    | none => cannot "no waiting task fits"
    | some (t, ox, oy) => match w.d.launch t.ctx t.launchId with
      | none => cannot "no such launch"
      | some l =>
        if t.placedOnce then cannot "the next task is a saved one"
        else
          let w := w.upd (fun d => placeTask d l t ox oy)
          .ok (if l.state == .ready then setLaunch w l.ctx l.id .running else w))

/-! ## Rotation (R57) -/

/-- R52: the quantum of a task's launch. -/
def quantumOf (d : Dev) (t : Task) : Nat := match d.launch t.ctx t.launchId with
  | some l => l.quantum
  | none => 0

def prioOf (d : Dev) (t : Task) : Nat := match d.launch t.ctx t.launchId with
  | some l => l.prio
  | none => 0

/-- R409: a resident task is chosen for pre-emption, which takes effect at its waves' next issue slots. -/
def choose (d : Dev) (t : Nat) : Dev :=
  match d.task t with
  | some x => if x.state == .resident || x.state == .restoring then
      { d.updTask t (fun t => { t with state := .saving, preemptOrder := d.preempts + 1 }) with preempts := d.preempts + 1 }
    else d
  | none => d

/-- R57: the tasks that may be pre-empted for a waiting one, in order: lowest priority, then longest resident. -/
def victims (d : Dev) (t : Task) : List Task :=
  sortBy (fun u => prioOf d u * 2 ^ 64 + u.residentSince) (d.tasks.filter (fun u =>
    u.state == .resident && decide (prioOf d u ≤ prioOf d t) && decide (u.residentSince + quantumOf d u ≤ d.cc)))

/-- R57: the shortest run of them whose removal, with that of the tasks already leaving, lets the task fit. -/
def enough (d : Dev) (t : Task) (leaving : List Nat) : List Nat → List Nat → Option (List Nat)
  | [], _ => none
  | v :: vs, taken =>
    let taken := taken ++ [v]
    if (originFor d (leaving ++ taken) t).isSome then some taken else enough d t leaving vs taken

/-- R57: those of them that the fit needs. -/
def needed (d : Dev) (t : Task) (leaving : List Nat) (vs : List Nat) : List Nat :=
  vs.foldl (fun keep v => if (originFor d (leaving ++ keep.filter (· ≠ v)) t).isSome then keep.filter (· ≠ v) else keep) vs

/-- R57: the first waiting task that has waited a quantum and that pre-empting others would let fit, with those. -/
def rotationChoice (d : Dev) : Option (Task × List Nat) :=
  let leaving := leavingTasks d
  (waitingTasks d).findSome? (fun t =>
    if d.cc < t.waitSince + quantumOf d t || (originFor d leaving t).isSome then none
    else (enough d t leaving ((victims d t).map Task.uid) []).map (fun vs => (t, needed d t leaving vs)))

/-- R57: resident tasks are pre-empted until a task that has waited a quantum fits; the places are kept for it. -/
def execRotationPreempt (s : State) : Host.Outcome State Fault Refusal :=
  s.run (fun w => match rotationChoice w.d with
    | some (t, vs) => .ok (w.upd (fun d =>
        (vs.foldl choose d).updTask t.uid (fun u => { u with claim := originFor d (leavingTasks d ++ vs) t })))
    | none => cannot "no task has waited a quantum for places it could take")

end Sys2Proof.Machine
end

