-- ==== Sys2Proof/Machine/Cycle.lean ====
section
/-! DEFINITION. One cc (CORE_CYCLE): the counters of spec/15 (R395, R396, R400), ageing (R53), sleep (R227), swap periods
(R35) and the stall of a quad (R321); and the steps of splits that follow the time (R35, R227). -/

namespace Sys2Proof.Machine

/-! ## What a split waits in -/

/-- The instruction at a split's PC, where its page translates and it decodes. -/
def nextInstr (w : Work) (v : Wave) (p : Split) : Option Instr := match w.d.ctx v.ctx with
  | none => none
  | some c => match fetchAll w c p.pc with
    | .words ws => match Decode.words ws with
      | .ok (i, _) => some i
      | .error _ => none
    | _ => none

/-- R322: whether a split waits on a buffer, a ring or a barrier. -/
def waitsOnPeer (w : Work) (v : Wave) (p : Split) : Bool :=
  (match p.wait with
   | some 3 | some 4 | some 5 => true
   | _ => false) &&
  (match nextInstr w v p with
   | some (.cbwait _) | some (.cbfree _) | some (.swait _) | some (.gbar _) | some (.garr _) | some (.gwait _) => true
   | _ => false)

/-! ## Counters of waves (R395) -/

/-- R395: whether a wave is resident: its task is placed and is not being saved. -/
def residentWave (d : Dev) (v : Wave) : Bool :=
  !v.freed && !v.stopped && (match d.task v.task with
    | some t => t.state == .resident || t.state == .saving || t.state == .restoring
    | none => false)

/-- Whether a split issued in this cc. -/
def issuedNow (d : Dev) (v : Wave) (p : Split) : Bool := d.issued.any (fun i => i.wave == v.uid && i.split == p.num)

/-- The issues of a scheduler in this cc. -/
def schedIssues (d : Dev) (core sched : Nat) : Nat :=
  (d.issued.filter (fun i => i.sched == sched && i.core == core)).length

/-- R51: whether a scheduler had a half free at the start of this cc. -/
def halfFree (d : Dev) (core sched : Nat) : Bool :=
  let x := (d.core core).scheds.getD sched { half0 := 0, half1 := 0, sfu := 0, sfuAt := 0 }
  decide (x.half0 ≤ d.cc) || decide (x.half1 ≤ d.cc) || decide (1 ≤ schedIssues d core sched)

/-- R51, R53: whether a split was ready in this cc and did not issue. -/
def notChosen (d : Dev) (v : Wave) (p : Split) : Bool :=
  mayTry d v p && p.wait.isNone && !issuedNow d v p

/-- R395: the class in which the sources of a split's next instruction would keep it waiting. -/
def sourceClass (w : Work) (v : Wave) (p : Split) : Option Nat :=
  match (nextInstr w v p).bind (fun i => (formSpec i).bind (fun g => (formOf i).map (fun f => (i, g, f)))) with
  | none => none
  | some (i, g, f) =>
    let s : Iss := { w, v, p, i, g, f, lanes := maskOf (activeLanes v p f) }
    match s.gate s.active [] with
    | .wait c => some c
    | _ => none

/-- R256, R267, R271, R354, R395, R421: what keeps a split from trying, beside its own instruction. -/
def heldIn (v : Wave) (p : Split) : List Nat :=
  (if v.awaitsEntry || awaitsRoom v p then [6] else []) ++ (if awaitsLeave v p then [8] else []) ++
  (if awaitsInjection v p then [11] else []) ++ (if v.replaying then [12] else [])

/-- R395: the class a split is charged to, of several the lowest: of one that has arrived at a `rejoin` class 5 (R214), or class 1
once it waits only for the ages its layout names (R216). -/
def chargeOf (w : Work) (v : Wave) (p : Split) : Option Nat :=
  if !p.loaded || p.trapped || v.halted || p.asleep || p.yield.isSome || decide (w.d.cc < p.readyAt) then none
  else if p.arrived then some (if (match topMark p with
      | some id => allArrived v id && (holders v id).any (permuteWaits w.d.cc v)
      | none => false) then 1 else 5)
  else match heldIn v p with
    | [] => p.wait.filter (· != 0)
    | c :: cs => some ((cs ++ (sourceClass w v p).toList).foldl min c)

/-- R395: whether a split waits only for the special-function unit. -/
def awaitsUnit (d : Dev) (v : Wave) (p : Split) : Bool := mayTry d v p && p.wait == some 0

/-- R395: the class a wave is charged to in a cc in which none of its splits issues, is ready, or waits only for a unit. -/
def waveCharge (w : Work) (v : Wave) : Option Nat :=
  if w.d.issued.any (fun i => i.wave == v.uid) || v.splits.any (fun p => notChosen w.d v p || awaitsUnit w.d v p) then none
  else (sortBy Split.created v.splits).findSome? (chargeOf w v)

/-- R395: the counters of a wave after a cc. -/
def countWave (w : Work) (v : Wave) : Wave :=
  if !residentWave w.d v then v
  else
    { v with
      counters := { v.counters with
        resident := v.counters.resident + 1
        stall := match waveCharge w v with
          | some k => updAt v.counters.stall (k - 1) (· + 1)
          | none => v.counters.stall } }

/-! ## Splits after a cc (R35, R53, R227) -/

/-- R227: the other splits of the scheduler that were ready in this cc and did not issue in it. -/
def readyPeers (d : Dev) (v : Wave) (p : Split) : List (Nat × Nat) :=
  (schedWaves d (d.coreOf v) v.sched).flatMap (fun u =>
    (u.splits.filter (fun q => !(u.uid == v.uid && q.num == p.num) && notChosen d u q)).map (fun q => (u.uid, q.num)))

/-- R53, R227: a split after a cc: its ageing counter, its sleep remainder, and the splits a `yield` of this cc waits for. -/
def agePassed (d : Dev) (v : Wave) (p : Split) : Split :=
  { p with
    ageing := if notChosen d v p && halfFree d (d.coreOf v) v.sched then min 255 (p.ageing + 1) else p.ageing
    sleep := if p.asleep && !v.stopped then p.sleep - 1 else p.sleep
    yield := p.yield.map (fun y => if y.fresh then { y with fresh := false, peers := readyPeers d v p } else y) }

/-- R394: what `srd` reads of a wave's registers in the next cc. -/
def Wave.sample (v : Wave) : Wave :=
  { v with sampled := { issued := v.counters.issued, safePoints := v.counters.safePoints, phase := v.phase, live := !v.exited } }

/-- R35: a wave after a cc. -/
def wavePassed (w : Work) (v : Wave) : Wave :=
  let u := countWave w v
  Wave.sample { u with
    splits := v.splits.map (agePassed w.d v)
    spillCount := if !v.spilled.isEmpty && residentWave w.d v then v.spillCount + 1 else v.spillCount }

/-! ## Counters of cores (R396, R400) -/

/-- R396: the bin a scheduler adds to in a cc. A wave that issued its last `exit` in it held a ready split. -/
def histBin (w : Work) (core sched : Nat) : Nat :=
  let d := w.d
  let vs := (schedWaves d core sched).filter (residentWave d)
  let ready := vs.filter (fun v => v.splits.any (fun p => notChosen d v p && halfFree d core sched))
  let e := (distinct (((d.issued.filter (fun i => i.sched == sched && i.core == core)).map Issued.wave) ++ ready.map Wave.uid)).length
  if 0 < e then min e 6
  else if vs.isEmpty then 0
  else match (sortBy Wave.ageKey vs).findSome? (waveCharge w) with
    | some k => 6 + k
    | none => 19

/-- R400: the fields of a configuration word. -/
def pmcEn (c : BitVec 32) : Bool := c.getLsbD 31
def pmcFlt (c : BitVec 32) : Bool := c.getLsbD 29
def pmcCtx (c : BitVec 32) : Nat := (c.extractLsb' 8 8).toNat
def pmcEvent (c : BitVec 32) : Nat := (c.extractLsb' 0 8).toNat

/-- R400: how often an event occurred on a core in this cc. An event of no wave is counted only without the filter. -/
def pmcCount (d : Dev) (core : Nat) (c : BitVec 32) : Nat :=
  let ours (e : Nat × Nat × Nat) : Bool :=
    e.1 == core && e.2.2 == pmcEvent c && (!pmcFlt c || (decide (e.2.1 < 65536) && e.2.1 % 256 == pmcCtx c))
  match pmcEvent c with
  | 1 => if pmcFlt c then 0 else 1
  | 3 => if pmcFlt c then 0 else 16 - (d.events.filter (fun e => e.1 == core && e.2.2 == 2)).length
  | _ => (d.events.filter ours).length

/-- R400: a performance counter after a cc. -/
def pmcPassed (d : Dev) (core : Nat) (x : Pmc) : Pmc :=
  let n := if pmcEn x.cfg then x.val + pmcCount d core x.cfg else x.val
  let cfg := if 2 ^ 48 ≤ n then x.cfg ||| (1 <<< 30) else x.cfg
  { cfg := x.next.getD cfg, val := n % 2 ^ 48, next := none }

/-- R394, R396, R400: a core after a cc. -/
def corePassed (w : Work) (i : Nat) (c : Core) : Core :=
  { c with
    pmcs := c.pmcs.map (pmcPassed w.d i)
    hist := (enum c.hist).map (fun sh => updAt sh.2 (histBin w i sh.1) (· + 1))
    leaveWas := (c.leaveGrants, c.leaveCc) }

/-- R394: a task after a cc: what `srd` reads of its buffers in the next. -/
def taskPassed (t : Task) : Task :=
  { t with quads := t.quads.map (fun q => { q with bufs := q.bufs.map (fun b => { b with was := (b.filled, b.free) }) }) }

/-! ## The stall of a quad (R321) -/

/-- R321: the tasks that hold a quad, each with the rectangle place of the quad. -/
def quadTasks (d : Dev) (pos : Nat) : List (Task × Nat) :=
  (d.tasks.filter (fun t => t.covers d pos)).map (fun t => (t, (pos % 12 - t.ox) + 12 * (pos / 12 - t.oy)))

/-- R321: the full bound buffers of a quad that a wave or an engine waits to take a slot of: task, place and index. -/
def fullAwaited (d : Dev) (pos : Nat) : List (Task × Nat × Nat) :=
  (quadTasks d pos).flatMap (fun tp =>
    let bufs := match taskQuad d tp.1.uid tp.2 with
      | some q => q.bufs
      | none => []
    let waves := d.waves.filter (fun v => v.task == tp.1.uid && v.place == tp.2)
    let chains := d.quads.flatMap (fun q => q.engines.flatMap (fun e => e.chains.filter (fun c => c.task == tp.1.uid)))
    let takes (n : Nat) (p : Split) : Bool := match p.stage with
      | .taking m _ => m == n
      | _ => false
    ((enum bufs).filter (fun ib => ib.2.bound && ib.2.free == 0 &&
      (waves.any (fun v => v.splits.any (takes ib.1)) || chains.any (fun c => (c.awaits d ib.1).contains tp.2)))).map
        (fun ib => (tp.1, tp.2, ib.1)))

/-- R321: a quad after a cc. -/
def quadPassed (d : Dev) (i : Nat) (q : Quad) : Quad :=
  { q with
    stallRun := if q.issuedInCc || q.moved || (fullAwaited d i).isEmpty then 0 else q.stallRun + 1
    issuedInCc := false, moved := false }

/-! ## The cc -/

/-- The waves with a split that waits at a `rejoin`. -/
def arrivedWaves (d : Dev) : List Nat := (d.waves.filter (fun v => v.splits.any Split.arrived)).map Wave.uid

/-- R354: the first request of a core that waits for its injection is injected, once the mesh lets the core inject. -/
def injectNext (d : Dev) : Dev :=
  let waiting := d.waves.flatMap (fun v => (v.recs.filter (fun r => !r.injected && !r.frozen)).map (fun r => (d.coreOf v, v.uid, r)))
  let first (x : Nat × Nat × Rec) : Bool := waiting.all (fun y => y.1 != x.1 || decide (x.2.2.num ≤ y.2.2.num))
  (waiting.filter (fun x => first x && coreInjects d x.1)).foldl (fun d x =>
    (noteInject d x.1).updWave x.2.1 (fun v => v.updRec x.2.2.seq (fun r => { r with injected := true }))) d

/-- One cc ends. -/
def passCycle (w : Work) : Work :=
  let d := w.d
  w.upd (fun _ =>
    let d' : Dev := { d with
      waves := d.waves.map (wavePassed w)
      cores := (enum d.cores).map (fun ic => corePassed w ic.1 ic.2)
      quads := (enum d.quads).map (fun iq => quadPassed d iq.1 iq.2)
      tasks := d.tasks.map taskPassed
      hbWas := d.hb
      cc := d.cc + 1, issued := [], tried := [], events := [] }
    let d' := fillTables (d'.tasks.foldl resetBuffers d')
    injectNext (beginSlots ((arrivedWaves d').foldl fuseWave d')))

/-- R53, R321, R395, R396, R400: one cc passes. -/
def execCoreCycle (s : State) : Host.Outcome State Fault Refusal := s.run (fun w => .ok (passCycle w))

/-! ## Swaps (R35) -/

/-- R35: whether a split is in issue. -/
def inIssue (d : Dev) (v : Wave) (p : Split) : Bool := issuedNow d v p || decide (d.cc < p.inIssueUntil)

/-- R35: the loaded split that has been loaded longest. -/
def longestLoaded (v : Wave) : Option Split :=
  (sortBy (fun p => p.loadedAt * 65536 + p.created) (v.splits.filter Split.loaded)).head?

/-- R35, R376: a loaded split written to the stack, and the earliest-spilled one loaded in its place. -/
def swapSplits (v : Wave) (n cc : Nat) : Wave :=
  match v.spilled with
  | [] => v
  | m :: t =>
    let v := v.updSplit n (fun p => { p with loaded := false })
    let v := v.updSplit m (fun p => { p with loaded := true, loadedAt := cc, ageing := 0 })
    { v with spilled := t ++ [n], spillHead := nextRecord v.spillHead, swapDue := false }

/-- R35: the end of a swap period: the swap is made, or waits for the chosen split to leave issue. -/
def execSplitSwapPeriod (wave : Nat) (s : State) : Host.Outcome State Fault Refusal :=
  s.run (fun w => match w.d.wave wave with
    | none => cannot "no such wave"
    | some v =>
      if v.spilled.isEmpty || v.spillCount < 4096 then cannot "no swap period ends"
      else match longestLoaded v with
        | none => cannot "no loaded split"
        | some p =>
          let due (v : Wave) : Wave := { v with spillCount := v.spillCount - 4096 }
          .ok (w.upd (fun d => d.updWave wave (fun v =>
            if inIssue d v p then { due v with swapDue := true, swapSplit := p.num } else swapSplits (due v) p.num d.cc))))

/-- R35: a swap that waited is made once its split is not in issue. -/
def execSplitSwapDeferred (wave : Nat) (s : State) : Host.Outcome State Fault Refusal :=
  s.run (fun w => match w.d.wave wave with
    | none => cannot "no such wave"
    | some v =>
      if !v.swapDue then cannot "no swap waits"
      else match v.split v.swapSplit with
        | none => .ok (w.upd (fun d => d.updWave wave (fun v => { v with swapDue := false })))
        | some p =>
          if inIssue w.d v p then cannot "the split is in issue"
          else .ok (w.upd (fun d => d.updWave wave (fun v =>
            if p.loaded then swapSplits v p.num d.cc else { v with swapDue := false }))))

/-! ## Sleep and yield (R227) -/

/-- R227: a sleep ends when its remainder has run out. -/
def execSleepExpiry (wave split : Nat) (s : State) : Host.Outcome State Fault Refusal :=
  s.run (fun w => match (w.d.wave wave).bind (fun v => v.split split) with
    | none => cannot "no such split"
    | some p =>
      if !p.asleep || p.sleep != 0 then cannot "no sleep has run out"
      else .ok (w.upd (fun d => d.updWave wave (fun v => v.updSplit split (fun p => { p with asleep := false })))))

/-- R227: a yield ends when its peers have issued, or after 64 cc; the split may issue in that same cc (log 95, DESIGN CHOICE). -/
def execYieldEnd (wave split : Nat) (s : State) : Host.Outcome State Fault Refusal :=
  s.run (fun w => match (w.d.wave wave).bind (fun v => v.split split) with
    | none => cannot "no such split"
    | some p => match p.yield with
      | none => cannot "the split does not yield"
      | some y =>
        if !y.fresh && (y.peers.isEmpty || decide (y.until_ ≤ w.d.cc)) then
          .ok (w.upd (fun d => d.updWave wave (fun v => v.updSplit split (fun p => { p with yield := none }))))
        else cannot "the yield goes on")

end Sys2Proof.Machine
end

