-- ==== Sys2Proof/Machine/Arrivals.lean ====
section
/-! DEFINITION. What comes back to a wave, and the units that execute its requests: long-latency arrivals (spec/04 R93), the
Abacus banks (spec/09 R250, spec/11 R300 to R305), the group units (spec/14 R372 to R374), the filters' acknowledgments and
resends (spec/16 R418), and inbox deliveries (R105). -/

namespace Sys2Proof.Machine

/-! ## Arrivals (R93, R411) -/

/-- The result of an operation performed as its reply is accepted, in every lane of its entry. -/
def acceptAll (w : Work) (v : Wave) (r : Rec) (rs : List (Word × Ty)) : Work :=
  let w := w.upd (fun d => reply d v.uid r.seq ((lanesOf r.lanes).map (fun l => (l, rs))))
  match (w.d.wave v.uid).bind (fun v => (v.rec_ r.seq).map (fun r => (v, r))) with
  | some (v, r) => acceptReplies w v r
  | none => w

/-- Whether a counter operation is the next of its unit to act: in the order of R325 and R344, and after the wave's own earlier
ones. -/
def counterTurn (d : Dev) (v : Wave) (r : Rec) : Bool := match counterOf r.op with
  | some u => (dueOn d v.task v.place u).all (fun k => decide (counterRank r.op * 65536 + v.n ≤ k)) &&
      (v.recs.takeWhile (fun x => x.seq != r.seq)).all (fun x => counterOf x.op != some u)
  | none => false

/-- R418: a request refused for want of filter entries. -/
def refuse (d : Dev) (wave seq : Nat) : Dev := d.updWave wave (fun v => v.updRec seq (fun r => { r with state := .refused d.cc }))

/-- R418: the filter entry of an operation of a record entry at a unit, for a lane, with its result. -/
def recFilter (v : Wave) (r : Rec) (unit : UnitId) (lane : Nat) (result : List Word) : Filter :=
  { unit, ctx := v.ctx, launchId := v.launchId, task := v.task, tag := tagOf v r.seq, step := 0, lane, result, spilled := false }

/-- R418: what a unit holds of an operation of a record entry from before, where the context's mark is set. -/
def heldResult (d : Dev) (v : Wave) (r : Rec) (unit : UnitId) (lane : Nat) : Option Filter :=
  if marked d v.ctx then findFilter d unit v.launchId (tagOf v r.seq) 0 lane else none

/-- R319, R324, R418: a counter operation of a record entry at its quad's buffer unit, once: its reply is accepted at once. BOUNDS
changes no counter, and a full filter refuses it. -/
def performCounter (w : Work) (v : Wave) (r : Rec) : Work :=
  let unit : UnitId := .bufUnit v.task v.place
  let gone (d : Dev) : Dev := d.updWave v.uid (fun v => v.dropRec r.seq)
  let ended (w : Work) : Work :=
    settleWave (w.upd (fun d => gone { d with acks := d.acks ++ acksFor d v.launchId (tagOf v r.seq) })) v.uid
  match heldResult w.d v r unit 0, keepFilters w.d [recFilter v r unit 0 []] with
  | some _, _ => ended w
  | none, none => w.upd (fun d => refuse d v.uid r.seq)
  | none, some d => match counterAct d v r with
    | some d => ended { w with d }
    | none => w.upd (fun d => raise (gone d) (lateTrap v r.split tBounds r.pc r.lanes 0 0 0))

/-- R387, R418: a `pgcnt` at the page watch table; one with RST, of class I2, once, and refused by a full filter. -/
def performWatch (w : Work) (v : Wave) (r : Rec) (a : VAddr) (rst : Bool) : Work :=
  let (d, n) := performPgcnt w.d v.ctx a rst
  let result := BitVec.ofNat 64 n
  let answer (w : Work) (x : Word) : Work := acceptAll w v r [(x, .n32)]
  if !rst then answer { w with d } result
  else match heldResult w.d v r .watchTable ((lanesOf r.lanes).headD 0),
      keepFilters d ((lanesOf r.lanes).map (fun l => recFilter v r .watchTable l [result])) with
    | some f, _ => answer w (f.result.headD 0)
    | none, none => w.upd (fun d => refuse d v.uid r.seq)
    | none, some d => answer { w with d } result

/-- R93, R315, R384, R387, R411: what arrives for a record entry. -/
def arrive (w : Work) (v : Wave) (r : Rec) : Except Refusal Work :=
  if r.frozen then
    if r.results.isEmpty then cannot "nothing arrives at the frozen entry"
    else .ok (w.upd (fun d => d.updWave v.uid (fun v => v.updRec r.seq (fun r => { r with results := [] }))))
  else if (match r.state with
    | .timed c => decide (w.d.cc < c)
    | .refused _ => r.results.isEmpty
    | .walk | .xlate _ | .held _ | .fill => true
    | _ => false) then cannot "the entry's operation is not performed yet"
  else if !r.injected then cannot "the request waits to be injected"
  else match r.op with
  | .post _ _ _ | .sig _ _ | .pop _ _ =>
    if counterTurn w.d v r then .ok (performCounter w v r) else cannot "an earlier counter operation comes first"
  | .ptset a full val m x => match w.d.ctx v.ctx with
    | none => cannot "no context"
    | some c => match walk w c a with
      | .lost k => .ok (w.upd (fun d => raise (d.updWave v.uid (fun v => v.dropRec r.seq))
          (lateTrap v r.split tMemerr r.pc r.lanes (keyOffset k) 0 0)))
      | _ =>
        let (w, st) := performPtset w c a full val m x
        .ok (acceptAll w v r [(BitVec.ofNat 64 st, .n32)])
  | .pgcnt a rst => .ok (performWatch w v r a rst)
  | .discard _ _ | .wback _ _ | .inval _ _ =>
    if maintReady w v r then .ok (performMaint w v r) else cannot "an earlier access of the range comes first"
  | .copy _ _ | .tlbinv _ _ _ => cannot "the entry ends with its chain or its invalidation"
  | _ =>
    if !r.results.isEmpty then .ok (acceptReplies w v r)
    else match performRec w v r with
      | some w => .ok w
      | none => cannot "nothing arrives for the entry"

/-- R93: data of a long-latency operation arrives at a wave. -/
def execLongLatencyArrival (wave seq : Nat) (s : State) : Host.Outcome State Fault Refusal :=
  s.run (fun w => match (w.d.wave wave).bind (fun v => (v.rec_ seq).map (fun r => (v, r))) with
    | none => cannot "no such record entry"
    | some (v, r) => arrive w v r)

/-- R105, R227: a delivery fills its reserved inbox slot. -/
def execInboxDelivery (index : Nat) (s : State) : Host.Outcome State Fault Refusal :=
  s.run (fun w => match w.d.deliveries[index]? with
    | none => cannot "no such delivery"
    | some x => .ok (w.upd (fun d => { d.updWave x.wave (fun v => v.deliverInbox d.cc x.inbox x.key x.vals) with
        deliveries := d.deliveries.eraseIdx index })))

/-! ## Abacus banks (R250, R300 to R305) -/

/-- The keys of element i of a range of k-byte elements. -/
def elemKeys (keys : List Nat) (k i : Nat) : List Nat := (keys.drop (k * i)).take k

/-- R304: the elements of a range combined with those of a scratchpad array. -/
def bankUpdate (w : Work) (y : Storer) (o : AtomOp) (ty : Ty) (n : Nat) (keys : List Nat) (data : List Byte) : Work :=
  let k := atomBytes o ty
  let e := tyWidth ty / 8
  (List.range n).foldl (fun w i =>
    (atomAt w y o ty (elemKeys keys k i) (BitVec.ofNat 64 (ofBytes ((data.drop (e * i)).take e))) 0).2) w

/-- R305: the elements of a range combined left to right, and cleared. -/
def bankReduce (w : Work) (y : Storer) (o : AtomOp) (ty : Ty) (n : Nat) (clr : Bool) (keys : List Nat) : Word × Work :=
  let k := tyWidth ty / 8
  let xs := (List.range n).map (fun i => w.valueAt (elemKeys keys k i))
  let x := match xs with
    | [] => 0
    | a :: t => t.foldl (fun x y => atomNew o ty x y 0) (fit ty a)
  (x, if clr then w.stores y (keys.map (fun a => (a, 0))) else w)

/-- R250, R277: one access executed at its bank for a wave: its result words. -/
def bankExec (w : Work) (v : Option Wave) (op : RecOp) (a : Access) (k : Nat) : List (Word × Ty) × Work :=
  let keys := (List.range a.bytes).map (fun i => k + 8 * i)
  let y := (v.map Wave.storer).getD .none
  let w := match op, v with
    | .load _ _ _, some v | .atom _ _ true, some v => w.upd (fun d => noteFlags d v.uid keys)
    | .reduce _ _ _ _, some v => w.upd (fun d => noteFlags d v.uid keys)
    | _, _ => w
  match op with
  | .load ty n wd => ((List.range n).map (fun i => (extendTo ty wd (w.valueAt (elemKeys keys wd i)), ty)), w)
  | .store _ => ([], w.stores y (keys.zip a.data))
  | .atom o ty ret =>
    let (old, w) := atomAt w y o ty keys a.b a.c
    (if ret then atomResults o ty old else [], w)
  | .update o ty n => ([], bankUpdate w y o ty n keys a.data)
  | .reduce o ty n clr =>
    let (x, w) := bankReduce w y o ty n clr keys
    ([(x, ty)], w)
  | _ => ([], w)

/-- R293, R300: whether an operation at a bank is of class I2. -/
def bankI2 : RecOp → Bool
  | .load _ _ _ => false
  | .reduce _ _ _ clr => clr
  | _ => true

/-- R300: the tags of the results of a bank operation. -/
def bankTags : RecOp → List Ty
  | .load ty n _ => List.replicate n ty
  | .atom .xadd _ true => [.raw, .raw]
  | .atom _ ty true => [ty]
  | .reduce _ ty _ _ => [ty]
  | _ => []

/-- R305: the lanes that take the result of an access: of a reduction, every lane of the entry. -/
def resultLanes (d : Dev) (q : BankReq) (lane : Nat) : List Nat := match q.op with
  | .reduce _ _ _ _ => (match (d.wave q.wave).bind (fun v => v.rec_ q.seq) with
    | some r => lanesOf r.lanes
    | none => [lane])
  | _ => [lane]

/-- R301, R418: the lanes of a request executed in ascending order, each once: the results, and the entries to keep. -/
def bankLanes (w : Work) (q : BankReq) : List (Nat × List (Word × Ty)) × List Filter × Work :=
  let unit : UnitId := .bank (q.die * 64 + q.bank)
  let m := marked w.d q.ctx && bankI2 q.op
  q.accs.foldl (fun (acc : List (Nat × List (Word × Ty)) × List Filter × Work) a =>
    let (rs, fs, w) := acc
    let old := if m then findFilter w.d unit q.launchId q.tag 0 a.1.lane else none
    match old with
    | some f => (rs ++ (resultLanes w.d q a.1.lane).map (fun l => (l, f.result.zip (bankTags q.op))), fs, w)
    | none =>
      let (x, w) := bankExec w (w.d.wave q.wave) q.op a.1 a.2
      let f : Filter := {
        unit, ctx := q.ctx, launchId := q.launchId, task := q.task, tag := q.tag, step := 0, lane := a.1.lane,
        result := x.map Prod.fst, spilled := false }
      (rs ++ (resultLanes w.d q a.1.lane).map (fun l => (l, x)), if bankI2 q.op then fs ++ [f] else fs, w)) ([], [], w)

/-- The 64-byte sectors a bank request names. -/
def BankReq.sectors (q : BankReq) : List Nat :=
  q.accs.flatMap (fun a => distinct ((List.range a.1.bytes).map (fun i => sectorOf (a.2 + 8 * i))))

/-- The requests of an entry to the banks for the lanes that have neither a result nor a request under way. -/
def bankRest (d : Dev) (v : Wave) (r : Rec) : List BankReq :=
  let there (l : Nat) : Bool := r.results.any (fun x => x.1 == l) ||
    d.bankReqs.any (fun q => q.wave == v.uid && q.seq == r.seq && inMask q.lanes l)
  bankReqs (d.coreOf v) v r (r.todo.filter (fun a => keyRegion a.2 == 3 && !there a.1.lane))

/-- R418: the bank requests refused so far and not sent again. -/
def refusedReqs (d : Dev) : List BankReq := d.waves.flatMap (fun v => v.recs.flatMap (fun r => match r.state with
  | .refused _ => if r.frozen then [] else bankRest d v r
  | _ => []))

/-- R264, R358: an earlier request of the same core, under way or to be sent again, names a sector of this one. -/
def bankBehind (d : Dev) (q : BankReq) : Bool :=
  (d.bankReqs ++ refusedReqs d).any (fun r => r.src == q.src && decide (r.num < q.num) && r.sectors.any (fun s => q.sectors.contains s))

/-- R261: the lanes of a request that read an uncorrectable sector. -/
def bankBad (d : Dev) (q : BankReq) : List (Nat × Nat) :=
  if (match q.op with
    | .store _ => true
    | _ => false) then []
  else q.accs.filterMap (fun a =>
    ((List.range a.1.bytes).find? (fun i => lost d (a.2 + 8 * i))).map (fun i => (a.1.lane, a.2 + 8 * i)))

/-- R261: MEMERR against the wave of a request; its entry is dropped. -/
def bankTrap (d : Dev) (q : BankReq) (bad : List (Nat × Nat)) : Dev := match d.wave q.wave with
  | none => d
  | some v => match v.rec_ q.seq, bad with
    | some r, b :: _ => raise (d.updWave v.uid (fun v => v.dropRec q.seq))
        (lateTrap v r.split tMemerr r.pc (maskOf (bad.map Prod.fst)) (keyOffset b.2) 0 0)
    | _, _ => d

/-- R250, R418: an Abacus bank executes a request. -/
def execBankOperation (index : Nat) (s : State) : Host.Outcome State Fault Refusal :=
  s.run (fun w => match w.d.bankReqs[index]? with
    | none => cannot "no such request"
    | some q =>
      if bankBehind w.d q then cannot "an earlier request of the core comes first"
      else if uninjected w.d q.wave q.seq then cannot "the request waits to be injected"
      else
        let w := w.upd (fun d => { d with bankReqs := d.bankReqs.eraseIdx index })
        match bankBad w.d q with
        | b :: bs => .ok (w.upd (fun d => bankTrap d q (b :: bs)))
        | [] =>
          let (rs, fs, w') := bankLanes w q
          match keepFilters w'.d fs with
          | none => .ok (w.upd (fun d => refuse d q.wave q.seq))
          | some d =>
            let w' := { w' with d }
            match (if bankI2 q.op then orderGate w' true (q.die * 64 + q.bank) q.launchId q.tag else some w') with
            | none => cannot "the log has another operation first"
            | some w' => .ok (w'.upd (fun d => reply d q.wave q.seq rs)))

/-! ## Group units (R372 to R374) -/

/-- R374: a slot written: of several writes in one cc the one of the highest wave stands. -/
def Group.set (g : Group) (cc n slot : Nat) (v : Word) (tag : Ty) : Group :=
  let old := g.slots.getD slot (0, .n64)
  match g.sets.getD slot none with
  | some (c, m, v0, t0) =>
    if c = cc then
      if n < m then g
      else { g with slots := g.slots.set slot (v, tag), sets := g.sets.set slot (some (cc, n, v0, t0)) }
    else { g with slots := g.slots.set slot (v, tag), sets := g.sets.set slot (some (cc, n, old.1, old.2)) }
  | none => { g with slots := g.slots.set slot (v, tag), sets := g.sets.set slot (some (cc, n, old.1, old.2)) }

/-- R374: a slot read: the value before the writes of this cc. -/
def Group.get (g : Group) (cc slot : Nat) : Word × Ty := match g.sets.getD slot none with
  | some (c, _, v0, t0) => if c = cc then (v0, t0) else g.slots.getD slot (0, .n64)
  | none => g.slots.getD slot (0, .n64)

/-- R372: an arrival counted; the last one releases. -/
def Group.arrival (g : Group) : Group :=
  let g := { g with arrived := g.arrived + 1 }
  if g.arrived = g.count then g.release else g

/-- A group of a launch changed. -/
def updGroup (d : Dev) (ctx launchId e : Nat) (f : Group → Group) : Dev :=
  d.updLaunch ctx launchId (fun l => { l with groups := updAt l.groups e f })

/-- The group unit of a request (R370). -/
def GroupReq.unit (q : GroupReq) : UnitId := .group (q.entry % 8)

/-- R372, R374: a request executed at its group unit: what it returns. -/
def groupExec (d : Dev) (q : GroupReq) : List (Word × Ty) × Dev :=
  match q.op with
  | .arrival _ _ => ([], updGroup d q.ctx q.launchId q.entry Group.arrival)
  | .gset _ slot v tag => ([], updGroup d q.ctx q.launchId q.entry (fun g => g.set d.cc q.n slot v tag))
  | .gget _ slot => ([((d.launch q.ctx q.launchId).bind (fun l => (l.groups[q.entry]?).map (fun g => g.get d.cc slot))).getD (0, .n64)], d)
  | _ => ([], d)

/-- Whether a request is of class I2 (R369). -/
def groupI2 : RecOp → Bool
  | .gget _ _ => false
  | _ => true

/-- R372, R374, R418: a group unit executes a request. -/
def execGroupUnitRequest (index : Nat) (s : State) : Host.Outcome State Fault Refusal :=
  s.run (fun w => match w.d.groupReqs[index]? with
    | none => cannot "no such request"
    | some q =>
      if w.d.cc < q.at_ then cannot "the request is on its way"
      else if uninjected w.d q.wave q.seq then cannot "the request waits to be injected"
      else if (w.d.groupReqs.take index).any (fun r => r.wave == q.wave && r.entry == q.entry) then
        cannot "an earlier request of the wave comes first"
      else
        let d := { w.d with groupReqs := w.d.groupReqs.eraseIdx index }
        let lanes := match (d.wave q.wave).bind (fun v => v.rec_ q.seq) with
          | some r => lanesOf r.lanes
          | none => []
        let f : Filter := {
          unit := q.unit, ctx := q.ctx, launchId := q.launchId, task := q.task, tag := q.tag, step := 0, lane := 0,
          result := [], spilled := false }
        let done (w : Work) (d : Dev) (rs : List (Word × Ty)) : Except Refusal Work :=
          .ok { w with d := reply d q.wave q.seq (lanes.map (fun l => (l, rs))) }
        if !groupI2 q.op then
          let (rs, d) := groupExec d q
          done w d rs
        else if marked d q.ctx && (findFilter d q.unit q.launchId q.tag 0 0).isSome then done w d []
        else match keepFilters d [f] with
          | none => .ok { w with d := refuse d q.wave q.seq }
          | some d => match orderGate { w with d } false (q.entry % 8) q.launchId q.tag with
            | none => cannot "the log has another operation first"
            | some w => done w (groupExec w.d q).2 [])

/-! ## Acknowledgments and resends (R418) -/

/-- R418: an acknowledgment frees the entries of its operation at its unit. -/
def execFilterAcknowledgment (index : Nat) (s : State) : Host.Outcome State Fault Refusal :=
  s.run (fun w => match w.d.acks[index]? with
    | none => cannot "no such acknowledgment"
    | some a => .ok (w.upd (fun d => { d with
        acks := d.acks.eraseIdx index
        filters := d.filters.filter (fun f => !(f.unit == a.unit && f.launchId == a.launchId && f.tag == a.tag && f.step == a.step)) })))

/-- The refused record entries of the package. -/
def refusedRecs (d : Dev) : List (Wave × Rec × Nat) :=
  d.waves.flatMap (fun v => v.recs.filterMap (fun r => match r.state with
    | .refused c => if r.frozen then none else some (v, r, c)
    | _ => none))

/-- The operations that act at their unit at a cc of their own. -/
def isTimed : RecOp → Bool
  | .post _ _ _ | .sig _ _ | .pop _ _ | .pgcnt _ _ => true
  | _ => false

/-- R418, R422: the request of an entry sent again to the target it resolved to; a counter operation acts in the next cc, among
those of that cc (R344). -/
def resend (d : Dev) (v : Wave) (r : Rec) : Dev :=
  let d := d.updWave v.uid (fun v => v.updRec r.seq (fun r => { r with state := if isTimed r.op then .timed (d.cc + 1) else .sent }))
  match r.op with
  | .arrival k _ | .gset k _ _ _ => { d with groupReqs := d.groupReqs ++ [groupReq v r k d.cc] }
  | .launch a =>
    if d.launchReqs.any (fun q => q.wave == v.uid && q.seq == r.seq) then d
    else { d with
      launchReqs := d.launchReqs ++ [{ wave := v.uid, seq := r.seq, ctx := v.ctx, addr := a, waitsOn := none, resumed := false }] }
  | .post _ _ _ | .sig _ _ | .pop _ _ | .pgcnt _ _ => d
  | _ => { d with bankReqs := d.bankReqs ++ bankRest d v r }

/-- R418: a refused request is sent again 64 cc later. -/
def execRefusedI2RequestResend (index : Nat) (s : State) : Host.Outcome State Fault Refusal :=
  s.run (fun w => match (refusedRecs w.d)[index]? with
    | none => cannot "no such refused request"
    | some (v, r, c) =>
      if w.d.cc < c + 64 then cannot "64 cc have not passed"
      else .ok (w.upd (fun d => resend d v r)))

end Sys2Proof.Machine
end

