-- ==== Sys2Proof/Machine/MemorySteps.lean ====
section
/-! DEFINITION. The steps of the memory system that no instruction issues: boundaries (spec/10 R266, R267), phase numbers
(R275), heartbeats and sequentially consistent fences (R281, R282), walks and invalidations (spec/09 R256 to R258, R385),
access counters (R259, R386), fills and evictions (R241, R245), images spilled (R244), and soft errors (R261, R439). -/

namespace Sys2Proof.Machine

/-! ## Boundaries (R266, R267) -/

/-- The waves of a core. -/
def coreWaves (d : Dev) (core : Nat) : List Nat := (d.waves.filter (fun v => d.coreOf v == core)).map Wave.uid

/-- R282: the commit a `fencesc` waits for is complete in this cc. -/
def scCommitted (d : Dev) (core : Nat) (p : Split) : Split := match p.stage with
  | .scCommit b scope => if b ≤ (d.core core).committed then { p with stage := .scTick d.cc scope } else p
  | _ => p

/-! ## Replay (R416 to R422) -/

/-- R421: whether a task of a context is being saved, is saved, or replays. -/
def contextBusy (d : Dev) (ctx : Nat) : Bool :=
  d.tasks.any (fun t => t.ctx == ctx && (match t.state with
    | .settled | .saved | .restoring => true
    | .saving => d.waves.any (fun v => v.task == t.uid && v.stopped)
    | _ => false)) || d.waves.any (fun v => v.ctx == ctx && v.replaying)

/-- R421: the marks of the contexts with nothing saved or replaying are cleared. -/
def clearMarks (d : Dev) : Dev := { d with ctxs := d.ctxs.map (fun c => if contextBusy d c.id then c else { c with marked := false }) }

/-- R420, R421: a restored task whose waves await no entry and replay nothing is resident. -/
def endReplay (d : Dev) (task : Nat) : Dev :=
  if d.waves.any (fun v => v.task == task && (v.replaying || v.awaitsEntry)) then d
  else clearMarks (d.updTask task (fun t => { t with state := if t.state == .restoring then .resident else t.state }))

/-- R266, R416, R422: how an entry is issued again in a cc: towards memory anew, its unit anew, or left where it stands. -/
def replayRec (cc : Nat) (r : Rec) : Rec :=
  let r := { r with frozen := false, replaying := true, results := [], at_ := cc, late := none, direct := 0, injected := true, wasHeld := false }
  match r.op with
  | .load _ _ _ | .store _ | .atom _ _ _ | .update _ _ _ | .reduce _ _ _ _ =>
    if r.accesses.any (fun a => match a.target with
      | .virt _ => true
      | _ => false) then { r with state := .walk, phys := [] } else { r with state := .sent }
  | .discard _ _ | .wback _ _ | .inval _ _ => { r with state := .walk, phys := [], accesses := [] }
  | .post _ _ _ | .sig _ _ | .pop _ _ | .send _ _ => { r with state := .walk }
  | .arrival _ _ | .launch _ | .gset _ _ _ _ | .gget _ _ => if r.state == .walk then r else { r with state := .sent }
  | _ => r

/-- R421: an entry of a restored wave issued again at a group unit or the launch unit. -/
def replayUnit (w : Work) (u : Nat) (v : Wave) (r : Rec) : Work :=
  let group (k : Nat) : Work :=
    if r.state == .walk then w else w.upd (fun d => { d with groupReqs := d.groupReqs ++ [groupReq v r k d.cc] })
  match r.op with
  | .arrival k _ | .gset k _ _ _ | .gget k _ => group k
  | .launch _ =>
    if r.state == .walk then
      let (w, n) := requestBoundary w (w.d.coreOf v) false
      w.upd (fun d => d.updWave u (fun v => v.updRec r.seq (fun r => { r with phys := [n] })))
    else w.upd (fun d => resend d v r)
  | _ => w

/-- R400, R420 step 6, R421: the entries of a restored wave issued again, in the order of their record sequence, each counted. -/
def replayWave (w : Work) (u : Nat) : Work :=
  let w := w.upd (fun d => d.updWave u (fun v => { v with recs := v.recs.map (replayRec d.cc) }))
  match w.d.wave u with
  | none => w
  | some v =>
    let w := w.upd (fun d => v.recs.foldl (fun d _ => count d (d.coreOf v) v.ctx 16) d)
    settleWave (v.recs.foldl (fun w r => replayUnit w u v r) w) u

/-- R420, R421: restored waves whose core has had its entry replay; their tasks are resident where none has anything to replay. -/
def replayWaves (w : Work) (us : List Nat) : Work :=
  let tasks := distinct ((w.d.waves.filter (fun v => us.contains v.uid)).map Wave.task)
  (us.foldl replayWave w).upd (fun d => tasks.foldl endReplay d)

/-- The waves of a core that await its entry. -/
def awaitingEntry (d : Dev) (core : Nat) : List Nat :=
  ((sortBy Wave.n d.waves).filter (fun v => v.awaitsEntry && d.coreOf v == core)).map Wave.uid

/-- What follows when a commit or entry of a core completes; `before` are the restored waves that awaited its entry. -/
def afterBoundary (w : Work) (core : Nat) (before : List Nat) : Work :=
  let us := coreWaves w.d core
  let w := w.upd (fun d => { d with
    waves := updWhere (fun v => us.contains v.uid) (fun v => { v with splits := v.splits.map (scCommitted d core) }) d.waves })
  let w := us.foldl settleWave w
  replayWaves w (before.filter (fun u => !(awaitingEntry w.d core).contains u))

/-- R267, R268: the boundary that merged requests asked for starts, in a cc after the one before it completed; or one that the
device adds. -/
def execMergedBoundaryStart (core : Nat) (s : State) : Host.Outcome State Fault Refusal :=
  s.run (fun w => match startMerged w core with
    | some w => .ok w
    | none => cannot "a boundary is in progress, or was in this cc")

/-- R266: whether the commit of a core's boundary is still to be written. -/
def unwritten (d : Dev) (core : Nat) : Bool := match (d.core core).boundary with
  | some b => !b.written
  | none => false

/-- R270: the other cores whose commit completes with that of a core. -/
def jointCores (d : Dev) (core : Nat) : List Nat := match (d.core core).boundary with
  | some b => if b.done then [] else (commitCores d (commitGroup d b.serial)).filter (· != core)
  | none => []

/-- R266, R267, R270: the commit of a core's boundary is written, or completes, with those it completes with, or its entry; or the
entry that restored waves of the core await is performed. -/
def execCommitComplete (core : Nat) (s : State) : Host.Outcome State Fault Refusal :=
  s.run (fun w =>
    if unwritten w.d core then
      (if storesStand w.d core then .ok (tryCommit w core) else cannot "a store of the commit is on its way")
    else match completeBoundary w.d core with
      | some d =>
        let w' := afterBoundary { w with d } core (awaitingEntry w.d core)
        .ok ((jointCores w.d core).foldl (fun w c => afterBoundary w c []) w')
      | none => cannot "the boundary is not complete")

/-! ## Phase numbers (R275) -/

/-- R275, R287: a number received; a check of this cc still uses the one before. -/
def Nbr.receive (n : Nbr) (cc : Nat) (got : Option Nat) : Nbr := { num := got, at_ := cc, was := if n.at_ = cc then n.was else n.num }

/-- R275: a core of a task receives the present number of its neighbour up, left, right or down. -/
def execNeighbourNumberReceived (task core neighbour : Nat) (s : State) : Host.Outcome State Fault Refusal :=
  s.run (fun w => match w.d.task task with
    | none => cannot "no such task"
    | some t => match w.d.launch t.ctx t.launchId with
      | none => cannot "no such launch"
      | some l =>
        let (x, y, c) := (core / 4 % 12, core / 4 / 12, core % 4)
        if l.w ≤ x ∨ l.h ≤ y then cannot "no such core"
        else match (neighbours l.w l.h x y c).getD neighbour none with
          | none => cannot "no such neighbour"
          | some (nx, ny, nc) =>
            let got := coreNumber w.d task nx ny nc
            let cc := w.d.cc
            .ok (w.upd (fun d => d.updTask task (fun t => { t with
              cores := updAt t.cores ((y * l.w + x) * 4 + c) (fun k => { k with nbr := updAt k.nbr neighbour (fun n => n.receive cc got) }) }))))

/-! ## Heartbeats (R281, R282) -/

/-- The scope of `fencesc.pkg` (R276). -/
def scopePkg : Nat := 4

/-- R282: the split of a wave whose `fencesc` takes a tick: of those whose commit completed before, the first. -/
def tickTaker (v : Wave) (cc : Nat) (p : Nat → Bool) : Option Nat :=
  let due := v.splits.filter (fun q => match q.stage with
    | .scTick c scope => decide (c < cc) && p scope
    | _ => false)
  let key (q : Split) : Nat := match q.stage with
    | .scTick c _ => c * 65536 + q.created
    | _ => 0
  ((sortBy key due).head?).map Split.num

/-- R282: a `fencesc` performed at its tick: of package scope it enters; of a wider one its guard begins. -/
def takeTick (cc : Nat) (p : Split) : Split := match p.stage with
  | .scTick _ scope => { p with stage := if scope = scopePkg then .scEntry none else .scGuard cc }
  | _ => p

/-- R282: a tick seen by every wave. -/
def tickWaves (d : Dev) (p : Nat → Bool) : Dev :=
  { d with
    waves := d.waves.map (fun v => if v.stopped || v.replaying then v else match tickTaker v d.cc p with
      | some n => v.updSplit n (takeTick d.cc)
      | none => v) }

/-- R281, R447: the package heartbeat ticks. A new period governs from this tick on. -/
def execPackageTick (s : State) : Host.Outcome State Fault Refusal :=
  s.run (fun w =>
    if w.d.cc < w.d.hb.next then cannot "no tick falls in this cc"
    else .ok (w.upd (fun d =>
      let logP := d.hbPending.getD d.hb.logP
      let d := { d with
        hb := { d.hb with count := (d.hb.count + 1) % 2 ^ 64, since := d.hb.next, next := d.hb.next + 2 ^ logP, logP }, hbPending := none }
      tickWaves d (fun scope => scope == scopePkg || !d.hb.domRunning))))

/-- R281: a domain tick is observed. -/
def execDomainTick (s : State) : Host.Outcome State Fault Refusal :=
  s.run (fun w =>
    if !w.d.hb.domRunning then cannot "the domain heartbeat does not run"
    else if w.d.cc < w.d.hb.domNext then cannot "the next domain tick is not due"
    else .ok (w.upd (fun d =>
      tickWaves { d with
          hb := { d.hb with
          domCount := (d.hb.domCount + 1) % 2 ^ 64, domNext := d.hb.domNext + 16 * 2 ^ d.hb.logP } } (fun scope => scope != scopePkg))))

/-- R282: the guard of 1,024 cc ends. -/
def execFencescGuardExpiry (wave split : Nat) (s : State) : Host.Outcome State Fault Refusal :=
  s.run (fun w => match (w.d.wave wave).bind (fun v => v.split split) with
    | none => cannot "no such split"
    | some p => match p.stage with
      | .scGuard c =>
        if w.d.cc < c + 1024 then cannot "the guard has not ended"
        else .ok (w.upd (fun d => d.updWave wave (fun v => v.updSplit split (fun p => { p with stage := .scEntry none }))))
      | _ => cannot "no guard runs")

/-! ## Walks and invalidations (R256 to R258, R385) -/

/-- R256: the table walk of a record entry completes. -/
def execTableWalkComplete (wave seq : Nat) (s : State) : Host.Outcome State Fault Refusal :=
  s.run (fun w => match xlateRec (beginWalk w wave seq) wave seq false with
    | some w => .ok (settleWave w wave)
    | none => cannot "no walk of the entry can complete")

/-- R340: whether an invalidation ends a wait on an address: not before the XLATE entry that names it is written. -/
def Inval.ends (i : Inval) (a : VAddr) : Bool := i.covers a.toNat && !i.but.contains a.toNat

/-- R256, R258: the waits of a wave's entries that an invalidation ends. -/
def Inval.freeRec (i : Inval) (r : Rec) : Rec := match r.state with
  | .xlate a => if i.ends a then { r with state := .walk, walking := false } else r
  | .held a => if i.covers a.toNat then { r with state := .walk, walking := false } else r
  | _ => r

/-- R256: the fetch of a split no longer waits. -/
def Inval.freeSplit (i : Inval) (p : Split) : Split := match p.fetchWait with
  | some a => if i.ends a then { p with fetchWait := none, wait := none } else p
  | none => p

/-- R188: a step of a matrix operation no longer waits. -/
def Inval.freeSlot (i : Inval) (o : OpSlot) : OpSlot := match o.xlate with
  | some a => if i.ends a then { o with xlate := none } else o
  | none => o

/-- R256: a chain no longer waits. -/
def Inval.freeChain (i : Inval) (c : Chain) : Chain := match c.wait with
  | .xlate a => if c.ctx = i.ctx ∧ i.ends a then { c with wait := .none } else c
  | _ => c

/-- R40: acceptance may resume. -/
def Inval.frees (i : Inval) (ctx : Nat) (a : Option VAddr) : Bool := match a with
  | some a => ctx == i.ctx && i.ends a
  | none => false

/-- R448: the records that wait for a page of a released range are written. -/
def releaseRings (w : Work) (i : Inval) : Work :=
  let mine (x : RingWait) : Bool := x.ctx == i.ctx && i.ends x.on_
  let xs := w.d.ringWaits.filter mine
  let w := w.upd (fun d => { d with ringWaits := d.ringWaits.filter (fun x => !mine x) })
  xs.foldl (fun w x => match w.d.ctx x.ctx with
    | some c => ringPut w c 0xFFFFFFFF x
    | none => w) w

/-- R340: the addresses of a context whose XLATE entry is held. -/
def heldPages (c : Ctx) : List Nat := c.held.filterMap (fun h => match h.fin with
  | .xlate va _ => some va
  | _ => none)

/-- R340: the held XLATE entries whose page an invalidation has covered. -/
def Inval.mark (i : Inval) (h : HeldNotif) : HeldNotif := match h.fin with
  | .xlate va _ => if i.covers va then { h with fin := .xlate va true } else h
  | _ => h

/-- R256 to R258, R40, R381: what a completed invalidation releases. -/
def releaseRange (w : Work) (x : Inval) : Work :=
  let i := { x with but := ((w.d.ctx x.ctx).map heldPages).getD [] }
  let w := w.upd (fun d => d.updCtx i.ctx (fun c => { c with held := c.held.map i.mark }))
  let w := releaseRings w i
  let w := w.upd (fun d => { d with
    waves := updWhere (fun v => v.ctx == i.ctx) (fun v => { v with
      recs := v.recs.map i.freeRec, splits := v.splits.map i.freeSplit, slots := v.slots.map i.freeSlot }) d.waves
    quads := d.quads.map (fun q => { q with engines := q.engines.map (fun e => { e with chains := e.chains.map i.freeChain }) })
    queues := d.queues.map (fun q => if i.frees q.ctx q.waitsOn then { q with resumed := true } else q)
    launchReqs := d.launchReqs.map (fun q => if i.frees q.ctx q.waitsOn then { q with resumed := true } else q) })
  (w.d.launches.filter (fun l => l.ctx == i.ctx && l.statusPending && i.ends (BitVec.ofNat 57 (bits (l.d 12) 0 57)))).foldl
    (fun w l => writeStatus w l.ctx l.id) w

/-- R257: whether an access that an invalidation awaits has not reached its unit. -/
def notLanded (d : Dev) (e : Nat × Nat) : Bool := match (d.wave e.1).bind (fun v => v.rec_ e.2) with
  | none => false
  | some r => !r.frozen && (match r.state with
    | .refused _ => false
    | _ => true) && r.left.any (fun a => r.results.all (fun x => x.1 != a.lane))

/-- R257, R385: an invalidation completes when every access translated by an entry it removed has landed. -/
def execTlbinvComplete (index : Nat) (s : State) : Host.Outcome State Fault Refusal :=
  s.run (fun w => match w.d.invals[index]? with
    | none => cannot "no such invalidation"
    | some i =>
      if i.pending.any (notLanded w.d) then cannot "an access has not landed"
      else if (i.wave.map (fun x => uninjected w.d x.1 x.2)).getD false then cannot "the request waits to be injected"
      else
        let w := w.upd (fun d => { d with invals := d.invals.eraseIdx index })
        let w := w.upd (fun d => match i.wave with
          | some (u, q) => d.updWave u (fun v => v.dropRec q)
          | none => d)
        let w := releaseRange w i
        .ok (match i.wave with
          | some (u, _) => settleWave w u
          | none => w))

/-- R256: the host invalidates a range of a context's translations, in pages of 4 KiB; size 0 covers every page. -/
def execHostInvalidation (ctx : Nat) (va : VAddr) (size : Nat) (s : State) : Host.Outcome State Fault Refusal :=
  s.run (fun w =>
    if (w.d.ctx ctx).isNone then cannot "no such context"
    else if va.toNat % 4096 ≠ 0 ∨ size % 4096 ≠ 0 then cannot "the range is not of whole pages"
    else .ok (w.upd (fun d => startInval d ctx va.toNat size none)))

/-! ## Access counters (R259, R386) -/

/-- R386: the index of the entry replaced in a full table: the lowest count, then the lowest index. -/
def watchVictim (es : List WatchEntry) : Nat :=
  ((enum es).foldl (fun (b : Nat × Nat) ie => if ie.2.count < b.2 then (ie.1, ie.2.count) else b) (0, 65536)).1

/-- R386: an entry allocated for a page, with count 0. -/
def watchAdd (d : Dev) (e : WatchEntry) : Dev :=
  match (enum d.watch).find? (fun ie => !ie.2.valid) with
  | some (i, _) => { d with watch := d.watch.set i e }
  | none => if d.watch.length < 65536 then { d with watch := d.watch ++ [e] } else { d with watch := d.watch.set (watchVictim d.watch) e }

/-- R259: a counted request reaches its home: the page's counter, and the ACCESS notification at the threshold. -/
def countRequest (w : Work) (x : Counted) : Work :=
  let mine (e : WatchEntry) : Bool := e.valid && e.ctx == x.ctx && e.page == x.page && e.size == x.size
  let w := if w.d.watch.any mine then w
    else w.upd (fun d => watchAdd d { valid := true, size := x.size, ctx := x.ctx, count := 0, page := x.page })
  let old := ((w.d.watch.find? mine).map WatchEntry.count).getD 0
  let new := min 65535 (old + 1)
  let w := w.upd (fun d => { d with watch := updWhere mine (fun e => { e with count := new }) d.watch })
  match w.d.ctx x.ctx with
  | none => w
  | some c => if new = c.acThr ∧ old + 1 = c.acThr then
      post w .watchTable x.ctx (notif w.d nkAccess x.ctx 0 (BitVec.ofNat 64 x.page) (BitVec.ofNat 64 new)) .none else w

/-- R387: a reset of a page's counter that is due in this cc, which comes before the requests counted in it. -/
def resetDue (d : Dev) (x : Counted) : Bool := d.waves.any (fun v => v.ctx == x.ctx && v.recs.any (fun r => match r.op, r.state with
  | .pgcnt a true, .timed c => !r.frozen && decide (c ≤ d.cc) && decide (x.page ≤ a.toNat) && decide (a.toNat < x.page + x.size)
  | _, _ => false))

/-- R259, R387: the oldest counted request of no page whose counter is to be reset first reaches an LLC slice or the host bridge. -/
def execCountedRequest (s : State) : Host.Outcome State Fault Refusal :=
  s.run (fun w => match (enum w.d.counted).find? (fun ix => !resetDue w.d ix.2) with
    | none => cannot "no counted request"
    | some (i, x) => .ok (countRequest (w.upd (fun d => { d with counted := d.counted.eraseIdx i })) x))

/-! ## Fills and evictions (R240, R241, R245) -/

/-- R240: a record entry that one of its fills reaches: it goes on with the last of them. -/
def Rec.filled (r : Rec) (last : Bool) : Rec := if r.state != .fill then r else { r with state := if last then .sent else .fill }

/-- R241: a fill arrives: it serves its requests, and is installed unless its core entered a phase since. -/
def execL1Fill (core line : Nat) (s : State) : Host.Outcome State Fault Refusal :=
  s.run (fun w => match (w.d.core core).misses.find? (fun m => m.line == line) with
    | none => cannot "no fill of the line is awaited"
    | some m => .ok (w.upd (fun d =>
        let now := decide (m.epoch = (d.core core).epoch)
        let d := d.updCore core (fun c => { c with
          misses := c.misses.filter (fun x => x.line != line)
          l1 := if now then l1Install c.l1 line else c.l1 })
        let waits (u q : Nat) : Bool := (d.core core).misses.any (fun x => x.joined.contains (u, q))
        m.joined.foldl (fun d j => d.updWave j.1 (fun v => v.updRec j.2 (fun r => r.filled (!waits j.1 j.2)))) d)))

/-- R245, R247, R261: a line is evicted: of a home line, the copies it records are invalidated, and its dirty bytes are written
back. -/
def execLlcEviction (line : Nat) (s : State) : Host.Outcome State Fault Refusal :=
  s.run (fun w =>
    if !w.d.dirs.any (fun x => x.line == line) && !w.d.dirty.any (fun c => lineOf c.key == line) &&
      !w.d.visitors.any (fun x => x.line == line) then cannot "the line is not held"
    else .ok (w.upd (fun d => writeBack { d with
      dirs := d.dirs.filter (fun x => x.line != line), visitors := d.visitors.filter (fun x => x.line != line) } (· == line))))

/-! ## Images in the Toybox (R244) -/

/-- R244, R413: the bytes of the images in the Toybox. -/
def toyboxUsed (d : Dev) : Nat :=
  (d.tasks.map (fun t => match t.image with
    | some i => 256 * (i.size - i.spilled)
    | none => 0)).sum

/-- R244: the 256-byte units of an image that its next slice holds: of 128 equal parts, what is still there (log 78). -/
def slicePart (i : Image) : Nat := min ((i.size + 127) / 128) (i.size - i.spilled)

/-- R244, R25: while the images do not fit in the Toybox, a slice's part of one is written to HBM. An uncorrectable sector of the
image raises MEMERR (R261). -/
def execToyboxSpill (task : Nat) (s : State) : Host.Outcome State Fault Refusal :=
  s.run (fun w => match (w.d.task task).bind (fun t => t.image.map (fun i => (t, i))) with
    | none => cannot "the task has no image"
    | some (t, i) =>
      if i.size ≤ i.spilled || toyboxUsed w.d ≤ 2097152 * (w.d.toyboxPending.getD w.d.toybox) then cannot "the image fits"
      else .ok (w.upd (fun d =>
        let d := d.updTask task (fun t => { t with image := some { i with spilled := i.spilled + slicePart i } })
        if i.bad then taskTrap d t.uid tMemerr (kImage t.uid) else d)))

/-! ## Soft errors (R261, R439) -/

/-- R439: a corrected error of a unit, and how many it has had within 2^43 cc. -/
def countError (m : Mgmt) (part : Part) (cc : Nat) : Mgmt × Nat :=
  let old := ((m.errs.find? (fun e => e.part == part)).map UnitErr.times).getD []
  let times := cc :: old.filter (fun c => decide (cc < c + 2 ^ 43))
  ({ m with errs := { part, times } :: m.errs.filter (fun e => e.part != part) }, times.length)

/-- R439: a unit marked failing: REPLACE is set, and a quad or slice will be mapped out. A position mapped onto its die's
spare can fail again; a slice mapped out stays so. -/
def markFailing (m : Mgmt) (part : Part) : Mgmt :=
  let out := match part with
    | .quad _ => false
    | _ => m.mappedOut.contains part
  { m with
    replace := true
    failing := if m.failing.contains part || out then m.failing else m.failing ++ [part] }

/-- R242, R249: whether a unit may hold a byte that a soft error names. -/
def partHolds (part : Part) (k : Nat) : Bool := match part with
  | .stack die i => keyRegion k == 0 && homeDie k == die && homeStack k == i
  | .bank die i => keyRegion k == 3 && abacusDie k == die && bankOf k == i
  | _ => true

/-- R439: whether a unit can be mapped out. -/
def mappable : Part → Bool
  | .quad _ | .slice _ _ => true
  | _ => false

/-- R261, R439: a soft error is corrected and counted, or is uncorrectable: the sector of its key, or its word at an Abacus bank, is bad from then on. -/
def execSoftErrorCorrection (part : Part) (addr : Nat) (correctable : Bool) (s : State) : Host.Outcome State Fault Refusal :=
  s.run (fun w => if !correctable && !partHolds part addr then cannot "the unit does not hold the byte" else .ok (w.upd (fun d =>
    if correctable then
      let (m, n) := countError { d.mg with ceCount := (d.mg.ceCount + 1) % 2 ^ 64 } part d.cc
      { d with mg := if mappable part && 256 ≤ n then markFailing m part else m }
    else
      let m := { d.mg with ueCount := (d.mg.ueCount + 1) % 2 ^ 64 }
      let d := { d with mg := if mappable part then m else { m with replace := true } }
      if keyRegion addr = 7 then d.updTask (keyOffset addr) (fun t => { t with image := t.image.map (fun i => { i with bad := true }) })
      else { d with bad := if d.bad.contains (eccUnit addr) then d.bad else eccUnit addr :: d.bad })))

end Sys2Proof.Machine
end

