-- ==== Sys2Proof/Machine/MatrixEvents.lean ====
section
/-! DEFINITION. The later steps of matrix operations: leave (spec/07 R192, spec/18 R441, spec/15 R398), the K steps of `mma` and
`mmas` and their completion (R188 to R191, R193), the join of a gang (R195), and the transfers of `astr` and `ald` (R202). -/

namespace Sys2Proof.Machine

/-! ## Leave (R192, R334, R398, R441) -/

/-- R398: a leave grant counted at a core, with its wait. -/
def countGrant (d : Dev) (core ctx asked : Nat) : Dev :=
  (count d core ctx 14).updCore core (fun c => { c with
    leaveGrants := (c.leaveGrants + 1) % 2 ^ 64, leaveCc := (c.leaveCc + (d.cc - asked)) % 2 ^ 64 })

/-- R192: leave granted to an operation of a wave, named by its order. -/
def grantSlot (d : Dev) (u order : Nat) : Dev :=
  match (d.wave u).bind (fun v => (v.slots.find? (fun o => o.order == order && !o.granted)).map (fun o => (v, o))) with
  | some (v, o) => (countGrant d (d.coreOf v) v.ctx (o.asked.getD d.cc)).updWave u (fun v => { v with
      slots := updWhere (fun o => o.order == order) (fun o => { o with asked := none, granted := true }) v.slots })
  | none => d

/-- R334: leave granted to a chain, named by its engine and sequence number. -/
def grantChain (d : Dev) (pos u key : Nat) : Dev :=
  let mine (c : Chain) : Bool := c.wave == u && c.seq == key % 65536 && c.leaveAsked.isSome && !c.leaveDone
  match ((d.quad pos).engines[key / 65536]?).bind (fun e => e.chains.find? mine) with
  | none => d
  | some c =>
    let d := match d.wave u with
      | some v => countGrant d (d.coreOf v) c.ctx (c.leaveAsked.getD d.cc)
      | none => d
    let give (e : Engine) : Engine := { e with chains := updWhere mine (fun c => { c with leaveDone := true, wait := .none }) e.chains }
    d.updQuad pos (fun q => { q with engines := updAt q.engines (key / 65536) give })

/-- R192, R441: a quad's governor grants the oldest leave request. -/
def execLeaveGrant (quad : Nat) (s : State) : Host.Outcome State Fault Refusal :=
  s.run (fun w =>
    if w.d.gov.held || w.d.gov.hot then cannot "the governor holds grants back"
    else match (w.d.quad quad).leaveQueue with
      | [] => cannot "no leave request"
      | (chain, u, k) :: t => .ok (w.upd (fun d =>
          let d := d.updQuad quad (fun q => { q with leaveQueue := t })
          if chain then grantChain d quad u k else grantSlot d u k)))

/-! ## The engine's own reads and writes (R184, R188, R202) -/

/-- Where an engine's access goes, or what stops it. -/
inductive EngineWay where
  | key (k : Nat) (t : Option Xlat)
  | fault (code addr : Nat)
  | absent (va : VAddr)
  | blocked (va : VAddr)
deriving DecidableEq, Repr

/-- R188: where `n` bytes at an operand address lie: in the share of the wave's quad, or by the context's translation. -/
def engineWay (w : Work) (v : Wave) (useCache scratch store : Bool) (a n : Nat) : EngineWay :=
  if scratch then
    (if shareSize w.d v v.x v.y < a + n then .fault tBounds 0
     else match (if store then none else lostIn w.d (kShare v.task v.place a) n) with
      | some k => .fault tMemerr (keyOffset k)
      | none => .key (kShare v.task v.place a) none)
  else match w.d.ctx v.ctx with
    | none => .fault tProt 0
    | some c =>
      let va : VAddr := BitVec.ofNat 57 a
      match pageWay w c (w.d.coreOf v) useCache va with
      | .absent => .absent va
      | .denied => .fault tProt va.toNat
      | .lost k => .fault tMemerr (keyOffset k)
      | .ok t =>
        if !(if store then pteW t.pte else pteRd t.pte) then .fault tProt va.toNat
        else if store && pteWb t.pte then .blocked va
        else if !store && lost w.d (t.key va) then .fault tMemerr (keyOffset (t.key va))
        else .key (t.key va) (some t)

/-- The first way of a list that is no key. -/
def firstStop (ws : List EngineWay) : Option EngineWay := ws.find? (fun x => match x with
  | .key _ _ => false
  | _ => true)

/-- The key of a way. -/
def EngineWay.at_ : EngineWay → Nat
  | .key k _ => k
  | _ => 0

/-- R259: the lines that some ways reach, with their translations. -/
def wayLines (ws : List EngineWay) : List (Xlat × Nat) := ws.filterMap (fun x => match x with
  | .key k (some t) => some (t, lineOf k)
  | _ => none)

/-- R248: the sectors of uncached host memory that some ways reach, and the host lines that a home slice may hold for them. -/
def uncachedSectors (ws : List EngineWay) : List Nat := distinct (ws.filterMap (fun x => match x with
  | .key k (some t) => if keyRegion k == 1 && pteCache t.pte == 2 then some (sectorOf k) else none
  | _ => none))
def cachedHostLines (ws : List EngineWay) : List Nat := distinct (ws.filterMap (fun x => match x with
  | .key k (some t) => if keyRegion k == 1 && pteCache t.pte != 2 then some (lineOf k) else none
  | _ => none))

/-- R184: a byte of a share or of the Abacus memory as of a numbered write: what the first later one replaced, else what it holds. -/
def byteSince (w : Work) (n k : Nat) : Byte :=
  match (w.d.pipeLog.filter (fun p => p.key == k && decide (n < p.num))).getLast? with
  | some p => p.old
  | none => w.byte k

/-- R184, R248, R269: `n` bytes of an operand read as one element by the load pipes of a wave: phased memory as its last `mfence` let
them see it, or newer, and uncached host memory as it is; any other byte as of a write since then, free. -/
def engineRead (w : Work) (u n : Nat) (x : EngineWay) : Nat × Work :=
  let k := x.at_
  let keys := (List.range n).map (fun i => k + 8 * i)
  match w.d.wave u with
  | none => (0, w)
  | some v =>
    if keyPhased k then
      let w := w.upd (fun d => holdLines d (cachedHostLines [x]))
      let (bs, w) := loadElement w { v.pipeView w.d with direct := uncachedSectors [x] } keys
      (ofBytes bs, w)
    else
      let (f, w) := w.free
      let at_ := v.pipes.num + f % (w.d.pipeNum - v.pipes.num + 1)
      (ofBytes (keys.map (byteSince w at_)), w)

/-- Elements read one after another. -/
def engineReads (w : Work) (u n : Nat) (ws : List EngineWay) : List Nat × Work :=
  ws.foldl (fun (acc : List Nat × Work) y => let (x, w) := engineRead acc.2 u n y; (acc.1 ++ [x], w)) ([], w)

/-- The operation of an order of a wave changed. -/
def Wave.updSlot (v : Wave) (order : Nat) (f : OpSlot → OpSlot) : Wave :=
  { v with slots := updWhere (fun o => o.order == order) f v.slots }

/-- What a stop does to an operation: a fatal trap at its own instruction, or a wait for a translation. -/
def stopSlot (w : Work) (v : Wave) (o : OpSlot) : EngineWay → Work
  | .fault code addr => w.upd (fun d => raise d (slotTrap v o code addr))
  | .absent va => postXlate (w.upd (fun d => d.updWave v.uid (fun v => v.updSlot o.order (fun o => { o with xlate := some va })))) (.core (w.d.coreOf v)) v.ctx v.n va
  | .blocked va => w.upd (fun d => d.updWave v.uid (fun v => v.updSlot o.order (fun o => { o with xlate := some va })))
  | .key _ _ => w

/-- R181, R182: the operation of an order completes: its slot is free, and its tile is undefined where a synchronous form met
the operation. -/
def slotDone (d : Dev) (u order : Nat) : Dev :=
  let n := d.freeCtr
  { d.updWave u (fun v => match v.slots.find? (fun o => o.order == order) with
    | none => v
    | some o =>
      let t := { v.tile o.tile with open_ := true, stamp := n }
      { v.setTile o.tile (if o.spoiled then t.lose n else t) with slots := v.slots.filter (fun p => p.order != order) }) with
    freeCtr := n + 1 }

/-! ## K steps (R173, R187 to R190) -/

/-- R187: the bytes of an element, CB4 aside. -/
def matBytes (ty : Nat) : Nat := if ty = 1 ∨ ty = 2 then 2 else 1

/-- R187: the block passes per cc. -/
def matRate (ty : Nat) : Nat := if ty = 1 ∨ ty = 2 ∨ ty = 7 then 4 else 8

/-- R187: the value of an element of a type. -/
def matVal (ty x : Nat) : FV := match ty with
  | 1 => fval .f16 x
  | 2 | 7 => fval .bf16 x
  | 3 => fval .e4m3 x
  | 4 => fval .e5m2 x
  | 5 => let i := sbits (BitVec.ofNat 8 x) 0 8; .fin (decide (i < 0)) i.natAbs 0
  | _ => .fin false x 0

/-- R173: a product divided by 2^E and rounded; none of an infinity or a NaN. -/
def matProduct (e : Int) (a b : FV) : Option Int := match a, b with
  | .fin s m x, .fin t n y =>
    let k := Int.ofNat (roundAt .rne (s != t) (m * n) (x + y) e false).1
    some (if s != t then -k else k)
  | _, _ => none

/-- R173: an element after a step: its addend, and its flag where a product was no number. -/
def stepElem (e : Int) (as bs : List FV) (x : Elem) : Elem :=
  let ps := (as.zip bs).map (fun p => matProduct e p.1 p.2)
  let x := if ps.any Option.isNone then { x with ovf := true } else x
  x.add ((ps.map (fun p => p.getD 0)).foldl (· + ·) 0)

/-- R188: where the elements of A and B of a step begin: the address and byte count of each row's part of A, and of each
element of B by k then j. -/
def rowAddr (o : OpSlot) (s i : Nat) : Nat := o.a.toNat + i * opAstr o.operand + (if opAt o.operand = 7 then 4 * s else 8 * s * matBytes (opAt o.operand))
def colAddr (o : OpSlot) (s k j : Nat) : Nat :=
  let z := matBytes (opBt o.operand)
  o.b.toNat + (if opTb o.operand then j * opBstr o.operand + (8 * s + k) * z else (8 * s + k) * opBstr o.operand + j * z)

/-- R188, R149: the elements of a row's part of A: eight of them, or four bytes of codes. -/
def rowParts (o : OpSlot) (s i : Nat) : List Nat :=
  let z := matBytes (opAt o.operand)
  if opAt o.operand = 7 then (List.range 4).map (fun k => rowAddr o s i + k) else (List.range 8).map (fun k => rowAddr o s i + k * z)

/-- R149, R187: the eight values of a row's part as read. -/
def rowVals (o : OpSlot) (xs : List Nat) : List FV :=
  if opAt o.operand = 7 then (List.range 8).map (fun k =>
    let code := xs.getD (k / 2) 0 / 16 ^ (k % 2) % 16
    matVal 7 (bookEntry o.book code))
  else xs.map (matVal (opAt o.operand))

/-- R190: the address of the bitmap's byte of a step. -/
def mapAddr (o : OpSlot) (s : Nat) : Nat := o.bitmap.toNat + s / 2

/-- R190: the row-blocks whose pass is skipped in a step, by the bitmap's byte. -/
def skipped (s byte r : Nat) : Bool := byte.testBit (4 * (s % 2) + r)

/-- R189: the tile after a step, from the values of A by row (none where the block is skipped) and of B by column. -/
def stepTile (t : Tile) (rows : List (Option (List FV))) (cols : List (List FV)) : Tile :=
  { t with
    data := .vals ((enum t.elems).map (fun ix => match rows.getD (ix.1 / 32) none with
      | none => ix.2
      | some as => stepElem t.anchor as (cols.getD (ix.1 % 32) []) ix.2)) }

/-- R190: what a member of an operation reads of its bitmap in a step. -/
inductive MapByte where
  | byte (n : Nat)
  | stop (x : EngineWay)
deriving DecidableEq, Repr

/-- R190: the bitmap's byte of a step of a member; of an `mma`, a byte that skips nothing. -/
def mapByte (w : Work) (v : Wave) (o : OpSlot) (useCache : Bool) (s : Nat) : MapByte × Work :=
  if o.kind != .mmas then (.byte 0, w)
  else match engineWay w v useCache (opAsp o.operand) false (mapAddr o s) 1 with
    | .key k t =>
      let (x, w) := engineRead w v.uid 1 (.key k t)
      (.byte x, w)
    | x => (.stop x, w)

/-- R190: the rows of A of a member that a step does not skip. -/
def liveRows (s byte : Nat) : List Nat := (List.range 32).filter (fun i => !skipped s byte (i / 8))

/-- R188: where the elements of a member's rows lie, row by row. -/
def rowWays (w : Work) (v : Wave) (o : OpSlot) (useCache : Bool) (s byte : Nat) : List (List EngineWay) :=
  let z := if opAt o.operand = 7 then 1 else matBytes (opAt o.operand)
  (liveRows s byte).map (fun i => (rowParts o s i).map (fun a => engineWay w v useCache (opAsp o.operand) false a z))

/-- R188: where the elements of B lie, column by column. -/
def colWays (w : Work) (v : Wave) (o : OpSlot) (useCache : Bool) (s : Nat) : List (List EngineWay) :=
  (List.range 32).map (fun j => (List.range 8).map (fun k =>
    engineWay w v useCache (opBsp o.operand) false (colAddr o s k j) (matBytes (opBt o.operand))))

/-- Lists of elements read one after another for a wave. -/
def readWays (w : Work) (u z : Nat) (wss : List (List EngineWay)) : List (List Nat) × Work :=
  wss.foldl (fun (acc : List (List Nat) × Work) ws =>
    let (xs, w) := engineReads acc.2 u z ws
    (acc.1 ++ [xs], w)) ([], w)

/-- R189, R191, R400: a member's tile after a step, with its progress, its passes and the events it counts. -/
def applyStep (w : Work) (v : Wave) (o : OpSlot) (s byte : Nat) (xs : List (List Nat)) (cols : List (List FV)) : Work :=
  let rows := (List.range 32).map (fun i => ((enum (liveRows s byte)).find? (fun p => p.2 == i)).map (fun p => rowVals o (xs.getD p.1 [])))
  let passes := ((List.range 4).filter (fun r => !skipped s byte r)).length
  w.upd (fun d =>
    let events (d : Dev) (n ev : Nat) : Dev := (List.range n).foldl (fun d _ => count d (d.coreOf v) v.ctx ev) d
    let d := events (events d passes 10) (4 - passes) 11
    let t := stepTile (v.tile o.tile) rows cols
    { d.updWave v.uid (fun v => { v.setTile o.tile { t with progress := s + 1, stamp := d.freeCtr } with
        slots := updWhere (fun p => p.order == o.order) (fun p => { p with passes := p.passes + passes }) v.slots }) with
      freeCtr := d.freeCtr + 1 })

/-- R188: a step of some members stopped where one of the ways of a member has no key. -/
def stopStep (w : Work) : List (Wave × OpSlot × List EngineWay) → Option Work
  | [] => none
  | (v, o, ws) :: t => match firstStop ws with
    | some x => some (stopSlot w v o x)
    | none => stopStep w t

/-- R189, R195: one step of the members of an operation performed: B is read once, by the first, and each member's own A by
itself. A step that meets an absent page, or a fault, changes no tile. -/
def kStepAt (w : Work) (ms : List (Wave × OpSlot)) (useCache : Bool) (s : Nat) : Work :=
  let (bs, w) := ms.foldl (fun (acc : List MapByte × Work) m =>
    let (b, w) := mapByte acc.2 m.1 m.2 useCache s
    (acc.1 ++ [b], w)) ([], w)
  let byteOf (b : MapByte) : Nat := match b with
    | .byte n => n
    | .stop _ => 0
  let mbs := ms.zip bs
  let mapStops := mbs.map (fun m => (m.1.1, m.1.2, match m.2 with
    | .byte _ => []
    | .stop x => [x]))
  match stopStep w mapStops with
  | some w => w
  | none =>
    let aWays := mbs.map (fun m => rowWays w m.1.1 m.1.2 useCache s (byteOf m.2))
    let bWays := match ms with
      | (v, o) :: _ => if aWays.all List.isEmpty then [] else colWays w v o useCache s
      | [] => []
    let lead := ms.head?.map (fun m => (m.1, m.2, bWays.flatten))
    match stopStep w ((mbs.zip aWays).map (fun m => (m.1.1.1, m.1.1.2, m.2.flatten)) ++ lead.toList) with
    | some w => w
    | none =>
      let (ys, w) := match ms with
        | (v, o) :: _ => readWays w v.uid (matBytes (opBt o.operand)) bWays
        | [] => ([], w)
      let cols := match ms with
        | (_, o) :: _ => ys.map (fun c => c.map (matVal (opBt o.operand)))
        | [] => []
      (mbs.zip aWays).foldl (fun w m =>
        let (v, o) := m.1.1
        let (xs, w) := readWays w v.uid (if opAt o.operand = 7 then 1 else matBytes (opAt o.operand)) m.2
        applyStep w v o s (byteOf m.1.2) xs cols) w

/-- R188: the addresses in memory whose pages a step of an operation touches. -/
def stepPages (o : OpSlot) (s : Nat) : List VAddr :=
  ((if opAsp o.operand then [] else (List.range 32).map (rowAddr o s) ++ (if o.kind == .mmas then [mapAddr o s] else [])) ++
   (if opBsp o.operand then [] else (List.range 32).flatMap (fun j => (List.range 8).map (fun k => colAddr o s k j)))).map (BitVec.ofNat 57)

/-- R189, R190: the next K step of the operation in a slot, with the members of its gang. -/
def execMatrixKstepComplete (wave slot : Nat) (s : State) : Host.Outcome State Fault Refusal :=
  s.run (fun w => match (w.d.wave wave).bind (fun v => (v.slots[slot]?).map (fun o => (v, o))) with
    | none => cannot "no such operation"
    | some (v, o) =>
      let n := (v.tile o.tile).progress
      if o.kind == .astr || o.kind == .ald then cannot "the slot holds no matrix operation"
      else if !slotRuns w.d v o || !o.begun then cannot "the operation does not run"
      else if opKs o.operand ≤ n then cannot "every step is done"
      else
        let (b, w) := w.freeBit
        let ms := partners w.d v o
        .ok (kStepAt (ms.foldl (fun w m => walkPages w m.1 (stepPages m.2 n)) w) ms b n))

/-- R191, R193: the operation in a slot completes with the members of its gang, its steps done and its engine time past: the
passes of the members add up (R195). -/
def execMatrixOpComplete (wave slot : Nat) (s : State) : Host.Outcome State Fault Refusal :=
  s.run (fun w => match (w.d.wave wave).bind (fun v => (v.slots[slot]?).map (fun o => (v, o))) with
    | none => cannot "no such operation"
    | some (v, o) =>
      let r := matRate (opAt o.operand)
      let ms := partners w.d v o
      let passes := (ms.map (fun m => m.2.passes)).sum
      if o.kind == .astr || o.kind == .ald then cannot "the slot holds no matrix operation"
      else if !slotRuns w.d v o || !o.begun || ms.any (fun m => decide ((m.1.tile m.2.tile).progress < opKs m.2.operand)) then
        cannot "the operation's steps are not done"
      else if w.d.cc < o.begunAt + 32 + (passes + r - 1) / r then cannot "the engine is still busy with it"
      else .ok (ms.foldl (fun w m => settleWave (w.upd (fun d => slotDone d m.1.uid m.2.order)) m.1.uid) w))

/-! ## The join of a gang (R195) -/

/-- The oldest arrival of a wave in a latch. -/
def firstArrival (c : TaskCore) (u : Nat) : Option LatchArrival := c.latch.find? (fun a => a.wave == u)

/-- R195: whether two arrivals agree in everything the join compares: the gang set, KS, BT, BSTR, TB, BSP and B. -/
def arrivalsAgree (a b : LatchArrival) : Bool :=
  a.set == b.set && a.b == b.b && opKs a.operand == opKs b.operand && opBt a.operand == opBt b.operand &&
  opBstr a.operand == opBstr b.operand && opTb a.operand == opTb b.operand && opBsp a.operand == opBsp b.operand

/-- The waves a gang set names on a core of a task, by their index. -/
def gangWaves (d : Dev) (task x y c set : Nat) : List (Option Wave) :=
  ((List.range 16).filter (fun j => set.testBit j)).map (fun j => d.waves.find? (fun u =>
    u.task == task && u.x == x && u.y == y && u.core == c && u.handler.isNone && u.j == j))

/-- R195: the first gang whose members have all arrived: an arrival of it, and each member's oldest arrival. -/
def readyGang (d : Dev) (task x y c : Nat) (k : TaskCore) : Option (List LatchArrival) :=
  k.latch.findSome? (fun a =>
    let got := (gangWaves d task x y c a.set).map (fun u => u.bind (fun u => firstArrival k u.uid))
    if got.all Option.isSome && !got.isEmpty then some (got.filterMap id) else none)

/-- R195: every member of a gang on a core of a task has issued its operation: they run jointly, or a mismatch raises ILLEGAL
in every member. `core` is the core's place in the rectangle, 4 (x + 12y) + c. -/
def execGangJoin (task core : Nat) (s : State) : Host.Outcome State Fault Refusal :=
  s.run (fun w => match w.d.task task with
    | none => cannot "no such task"
    | some t => match w.d.launch t.ctx t.launchId with
      | none => cannot "no such launch"
      | some l =>
        let (x, y, c) := (core / 4 % 12, core / 4 / 12, core % 4)
        let i := (y * l.w + x) * 4 + c
        if l.w ≤ x ∨ l.h ≤ y then cannot "no such core"
        else match (t.cores[i]?).bind (readyGang w.d task x y c) with
          | none => cannot "a member has not arrived"
          | some as =>
            let mine (a : LatchArrival) (o : OpSlot) : Bool := o.order == a.order
            let d := w.d.updTask task (fun t => { t with
              cores := updAt t.cores i (fun k => { k with latch := k.latch.filter (fun a => !as.contains a) }) })
            let joint := w.d.uid + 1
            let d := { d with uid := joint }
            let same := match as with
              | [] => true
              | a :: bs => bs.all (arrivalsAgree a)
            .ok { w with
              d := as.foldl (fun d a => match d.wave a.wave with
              | none => d
              | some v =>
                if same then d.updWave a.wave (fun v => { v with slots := updWhere (mine a) (fun o => { o with joined := true, joint := some joint }) v.slots })
                else match v.slots.find? (mine a) with
                  | some o => raise d (slotTrap v o tIllegal 0)
                  | none => d) d })

/-! ## Tile transfers (R202) -/

/-- R202: the image of a tile. -/
def imageOf (t : Tile) (canonical : Bool) : List Byte :=
  let es := t.elems
  if canonical then es.flatMap (fun e => wordBytes (BitVec.ofInt 64 e.resolved))
  else
    es.flatMap (fun e => wordBytes e.s) ++ es.flatMap (fun e => wordBytes e.c) ++
    (List.range 256).map (fun i => BitVec.ofNat 8 ((List.range 4).foldl (fun n k =>
      n + (((es[4 * i + k]?).map (fun e => e.g.toNat)).getD 0) * 4 ^ k) 0))

/-- A little-endian dword at a place in some bytes. -/
def dwordAt (bs : List Byte) (o : Nat) : Word := BitVec.ofNat 64 (ofBytes ((bs.drop o).take 8))

/-- R202: an element with what 256 bytes from `o` on of an image hold of it; its flag is cleared. -/
def fillElem (canonical : Bool) (o : Nat) (bs : List Byte) (n : Nat) (e : Elem) : Elem :=
  let here (a : Nat) : Bool := decide (o ≤ a) && decide (a < o + 256)
  if canonical then (if here (8 * n) then Elem.ofInt (dwordAt bs (8 * n - o)).toInt false else e)
  else if here (8 * n) then { e with s := dwordAt bs (8 * n - o), ovf := false }
  else if here (8192 + 8 * n) then { e with c := dwordAt bs (8192 + 8 * n - o), ovf := false }
  else if here (16384 + n / 4) then
    { e with g := BitVec.ofNat 2 ((bs.getD (16384 + n / 4 - o) 0).toNat / 4 ^ (n % 4)), ovf := false }
  else e

/-- R202: the elements of a tile with 256 bytes of an image filled in. -/
def fillElems (canonical : Bool) (o : Nat) (bs : List Byte) (es : List Elem) : List Elem :=
  (enum es).map (fun ne => fillElem canonical o bs ne.1 ne.2)

/-- Whether a tile holds canonical elements only. -/
def tileResolved (t : Tile) : Bool := t.elems.all (fun e => e == Elem.ofInt (BitVec.toInt e.s) e.ovf)

/-- R202: the 8-byte units of an image from an address. -/
def imageUnits (o : OpSlot) : List Nat := (List.range (imageBytes o.canonical / 8)).map (fun i => o.a.toNat + 8 * i)

/-- R185, R202: the 8-byte units of the next 256 bytes of an image. -/
def chunkUnits (o : OpSlot) : List Nat := ((imageUnits o).drop (o.bytes / 8)).take 32

/-- R185, R205: 256 bytes of an image are moved. -/
def chunkMoved (d : Dev) (v : Wave) (o : OpSlot) : Dev :=
  d.updWave v.uid (fun v => v.updSlot o.order (fun o => { o with bytes := o.bytes + 256, begunAt := d.cc }))

/-- R182, R202: the image that an `astr` stores; free where a synchronous form met the operation. -/
def storedImage (d : Dev) (v : Wave) (o : OpSlot) : List Byte :=
  if o.spoiled then (List.range (imageBytes o.canonical)).map (fun i => (Config.freeResult d.freeCtr i).setWidth 8)
  else imageOf (v.tile o.tile) o.canonical

/-- Where the 8-byte units of an image at some addresses lie. -/
def unitWays (w : Work) (v : Wave) (o : OpSlot) (useCache : Bool) (units : List Nat) : List EngineWay :=
  units.map (fun a => engineWay w v useCache o.scratch (o.kind == .astr) a 8)

/-- R185, R202: an `astr` whose image is moved completes: its bytes are stores of the wave of this cc, in the class of their
address. They wait where no version has room. -/
def storeImage (w : Work) (v : Wave) (o : OpSlot) (ways : List EngineWay) : Option Work :=
  let core := w.d.coreOf v
  let keys := (ways.map EngineWay.at_).flatMap (fun k => (List.range 8).map (fun j => k + 8 * j))
  if !versionRoom w.d core v.task w.d.cc (keys.filter keyPhased) then askRoom w core
  else
    let bs := keys.zip (storedImage w.d v o)
    let w := w.upd (fun d => { d with freeCtr := d.freeCtr + 1 })
    let w := (List.range ways.length).foldl (fun w i =>
      let e := (bs.drop (8 * i)).take 8
      if e.any (fun b => keyPhased b.1) then w.upd (fun d => storeVersion d core v.ctx v.task v.uid d.cc v.fenceAt e)
      else w.stores v.storer e) w
    some (settleWave (w.upd (fun d => slotDone d v.uid o.order)) v.uid)

/-- R202: 256 bytes of an image loaded: E is kept, and every flag is clear. -/
def loadChunk (w : Work) (v : Wave) (o : OpSlot) (ways : List EngineWay) : Work :=
  let (xs, w) := engineReads w v.uid 8 ways
  let bs := xs.flatMap (fun x => toBytes 8 x)
  let t := v.tile o.tile
  w.upd (fun d => { d.updWave v.uid (fun v => v.setTile o.tile { t with
    data := .vals (fillElems o.canonical o.bytes bs t.elems), stamp := d.freeCtr }) with freeCtr := d.freeCtr + 1 })

/-- R185, R202, R259: a transfer whose image is moved completes; the stores of an `astr` once those that count are counted. -/
def transferEnd (w : Work) (v : Wave) (o : OpSlot) (useCache : Bool) : Except Refusal Work :=
  if o.kind != .astr then .ok (settleWave (w.upd (fun d => slotDone d v.uid o.order)) v.uid)
  else if counting w.d (.op v.uid o.order) then cannot "a counted request is on its way"
  else
    let ways := unitWays w v o useCache (imageUnits o)
    match firstStop ways with
    | some x => .ok (stopSlot w v o x)
    | none => match storeImage w v o ways with
      | some w => .ok w
      | none => cannot "no version has room"

/-- R185, R202: the next 256 bytes of an `astr` or `ald` are moved, one such block per cc; with the last one it completes. -/
def execTileTransferComplete (wave slot : Nat) (s : State) : Host.Outcome State Fault Refusal :=
  s.run (fun w => match (w.d.wave wave).bind (fun v => (v.slots[slot]?).map (fun o => (v, o))) with
    | none => cannot "no such operation"
    | some (v, o) =>
      let t := v.tile o.tile
      let need := 1 + (if o.kind == .astr && o.canonical && o.bytes == 0 && !tileResolved t then 24 else 0)
      let (b, w) := w.freeBit
      if o.kind != .astr && o.kind != .ald then cannot "the slot holds no transfer"
      else if !slotRuns w.d v o || !o.begun then cannot "the operation does not run"
      else if imageBytes o.canonical ≤ o.bytes then transferEnd w v o b
      else if w.d.cc < o.begunAt + need then cannot "the transfer goes on"
      else
        let w := if o.scratch then w else walkPages w v ((chunkUnits o).map (BitVec.ofNat 57))
        let ways := unitWays w v o b (chunkUnits o)
        match firstStop ways with
        | some x => .ok (stopSlot w v o x)
        | none =>
          let w := (if o.kind == .astr then w.upd (fun d => countLines d v.ctx (.op v.uid o.order) (wayLines ways))
            else loadChunk w v o ways).upd (fun d => chunkMoved d v o)
          let o := { o with bytes := o.bytes + 256 }
          if o.bytes < imageBytes o.canonical then .ok w
          else match transferEnd w v o b with
            | .ok w => .ok w
            | .error _ => .ok w)

end Sys2Proof.Machine
end

