-- ==== Sys2Proof/Machine/Engines.lean ====
section
/-! DEFINITION. The copy engines (spec/12 R329 to R336): the entries of a chain, MOVE and GATHER, the landing of slots; and the
enlargement of a buffer by a stalled quad (R321 to R323). -/

namespace Sys2Proof.Machine

/-! ## Chains -/

/-- R335, R345: the chain an engine of a quad works on: its first that may go on. -/
def chainOf (d : Dev) (quad ei : Nat) : Option Chain := ((d.quad quad).engines[ei]?).bind (fun e => e.chains.find? (chainRuns d))

/-- A chain of an engine changed. -/
def updChain (d : Dev) (quad ei : Nat) (c : Chain) (f : Chain → Chain) : Dev :=
  let mine (x : Chain) : Bool := x.wave == c.wave && x.seq == c.seq
  let give (e : Engine) : Engine := { e with chains := updWhere mine f e.chains }
  d.updQuad quad (fun q => { q with engines := updAt q.engines ei give })

/-- R335: the handle of a chain. -/
def chainHandle (ei : Nat) (c : Chain) : Nat := ei * 65536 + c.seq

/-- R335, R276, R279: whether the accesses the wave made before the `copy` are performed, as by `fence.core` and a release. -/
def chainOpen (d : Dev) (c : Chain) : Bool := match d.wave c.wave with
  | none => false
  | some v => match v.rec_ c.rec_ with
    | none => false
    | some r => (before v r.seq).all (fun e => !awaited d v 2 e) && releaseOk v r &&
        v.slots.all (fun o => o.kind != .astr)

/-- R336: a chain leaves its engine with a final state; its status is kept. -/
def closeChain (d : Dev) (quad ei : Nat) (c : Chain) (state : Nat) : Dev :=
  let x := statusWord state (c.entry - c.head) c.written
  let give (e : Engine) : Engine := { e with
    chains := e.chains.filter (fun y => !(y.wave == c.wave && y.seq == c.seq)), done := ((c.seq, x) :: e.done).take 16 }
  d.updQuad quad (fun q => { q with engines := updAt q.engines ei give })

/-- R403: the trap of a chain: at its `copy`, against its wave. -/
def chainTrap (d : Dev) (ei : Nat) (c : Chain) (code addr : Nat) : Option Trap := (d.wave c.wave).map (fun v =>
  match v.rec_ c.rec_ with
  | some r => if v.exited then { lateTrap v r.split code c.pc 0 addr (chainHandle ei c) (c.entry - c.head) with split := none }
      else lateTrap v r.split code c.pc 0 addr (chainHandle ei c) (c.entry - c.head)
  | none => { lateTrap v 0 code c.pc 0 addr (chainHandle ei c) (c.entry - c.head) with split := none })

/-- R335, R336: the completion word of a chain on its way to the inbox slot it reserved. -/
def sendWord (d : Dev) (c : Chain) (state : Nat) : Dev := { d with
  deliveries := d.deliveries ++ (match c.inbox with
    | some k => [{ wave := c.wave, inbox := k, key := c.rec_, vals := List.replicate 32 (statusWord state (c.entry - c.head) c.written, .n64) }]
    | none => []) }

/-- R329, R336: a fault in an entry stops the task. -/
def stopChain (w : Work) (quad ei : Nat) (c : Chain) (code addr : Nat) : Work :=
  w.upd (fun d => match chainTrap d ei c code addr with
    | some t => sendWord (closeChain (raise d t) quad ei c 6) c 6
    | none => d)

/-- A chain goes on at an entry, not read yet. -/
def Chain.goto (c : Chain) (e : Nat) : Chain :=
  { c with
    entry := e, words := [], lines := [], used := [], index := none, moved := 0, taken := [], landed := false, wait := .none, running := true }

/-- The next entry. -/
def advance (w : Work) (quad ei : Nat) (c : Chain) : Work :=
  w.upd (fun d => updChain d quad ei c (fun c => c.goto (c.entry + 32)))

/-- R329: the entry a chain stands at, read once when it is reached, if it is of the kind: what it does with its words w0 to w2. -/
def chainStep (w : Work) (quad ei kind : Nat) (k : Chain → Wave → Word → Word → Word → Except Refusal Work) : Except Refusal Work :=
  match chainOf w.d quad ei with
  | none => cannot "the engine has no chain that runs"
  | some c => match w.d.wave c.wave with
    | none => cannot "the chain's wave is gone"
    | some v =>
      let share := match taskQuad w.d c.task c.pos with
        | some q => q.share
        | none => 0
      let ws := if c.words.isEmpty then (List.range 4).map (fun i => shareWord w c.task c.pos (c.entry + 8 * i)) else c.words
      let word (i : Nat) : Word := ws.getD i 0
      if !c.running && !chainOpen w.d c then cannot "an earlier access of the wave is not performed"
      else if c.landed then cannot "the entry's bytes are landing"
      else if (match c.wait with
        | .leave | .xlate _ => true
        | _ => false) then cannot "the chain waits"
      else if kind != 1 && kind != 2 && counting w.d (.chain c.wave c.rec_) then cannot "a counted request is on its way"
      else if share < c.entry + 32 then .ok (stopChain w quad ei c tBounds 0)
      else match (if c.words.isEmpty then lostIn w.d (kShare c.task c.pos c.entry) 32 else none) with
      | some k => .ok (stopChain w quad ei c tMemerr (keyOffset k))
      | none =>
      if 7 ≤ ceKind (word 0) ∨ word 3 ≠ 0 then .ok (stopChain w quad ei c tIllegal 0)
      else if ceKind (word 0) ≠ kind then cannot "the entry is of another kind"
      else k { c with words := ws } v (word 0) (word 1) (word 2)

/-! ## END, LOOP, IF, WAITCB (R330) -/

/-- R330, R335: END: the chain completes, its record entry retires, and its inbox slot is filled. -/
def endChain (w : Work) (quad ei : Nat) (c : Chain) : Work :=
  settleWave (w.upd (fun d => sendWord ((closeChain d quad ei c 5).updWave c.wave (fun v => v.dropRec c.rec_)) c 5)) c.wave

/-- R330: an END entry. -/
def execChainEnd (quad engine : Nat) (s : State) : Host.Outcome State Fault Refusal :=
  s.run (fun w => chainStep w quad engine 0 (fun c _ w0 w1 w2 =>
    if bits w0 0 60 ≠ 0 ∨ w1 ≠ 0 ∨ w2 ≠ 0 then .ok (stopChain w quad engine c tIllegal 0)
    else .ok (endChain w quad engine c)))

/-- R330: the loop stack with this entry on top; none where four levels are held. -/
def enterLoop (c : Chain) (n : Nat) : Option (List LoopLevel) :=
  let fresh : LoopLevel := { entry := c.entry, count := n, total := n }
  match c.loops with
  | l :: ls => if l.entry = c.entry then some (l :: ls) else if ls.length < 3 then some (fresh :: l :: ls) else none
  | [] => some [fresh]

/-- R330: a LOOP: the chain after it, or none where it raises ILLEGAL. -/
def loopStep (c : Chain) (n back : Nat) (advs advd : Int) : Option Chain :=
  match enterLoop c n with
  | none => none
  | some [] => none
  | some (l :: ls) =>
    let k := l.count - 1
    if k = 0 then some { c.goto (c.entry + 32) with
      os := c.os - (n - 1) * advs, od := c.od - (n - 1) * advd, loops := ls }
    else if c.entry < c.head + 32 * back ∨ ls.any (fun x => decide (c.entry ≤ x.entry + 32 * back ∧ x.entry < c.entry)) then none
    else some { c.goto (c.entry - 32 * back) with os := c.os + advs, od := c.od + advd, loops := { l with count := k } :: ls }

/-- R330: a LOOP entry. -/
def execChainLoop (quad engine : Nat) (s : State) : Host.Outcome State Fault Refusal :=
  s.run (fun w => chainStep w quad engine 3 (fun c _ w0 w1 w2 =>
    let (n, back) := (bits w0 44 16, bits w0 32 12)
    match if n = 0 ∨ back = 0 ∨ bits w0 0 32 ≠ 0 then none else loopStep c n back w1.toInt w2.toInt with
    | none => .ok (stopChain w quad engine c tIllegal 0)
    | some c' => .ok (w.upd (fun d => updChain d quad engine c (fun _ => c')))))

/-- R329: the conditions of IF. -/
def ifHolds (cc x y : Nat) : Bool := match cc with
  | 0 => x == y | 1 => x != y | 2 => decide (x < y) | _ => decide (y ≤ x)

/-- R330: an IF entry tests a counter or a ring phase as it stands. -/
def execChainIf (quad engine : Nat) (s : State) : Host.Outcome State Fault Refusal :=
  s.run (fun w => chainStep w quad engine 4 (fun c _ w0 w1 w2 =>
    let (src, idx, skip, val) := (bits w0 58 2, bits w0 52 6, bits w0 38 12, bits w0 0 32)
    let stop (code : Nat) : Except Refusal Work := .ok (stopChain w quad engine c code 0)
    let test (x : Nat) : Except Refusal Work := .ok (w.upd (fun d => updChain d quad engine c (fun c =>
      c.goto (c.entry + (if ifHolds (bits w0 50 2) x val then 32 else 32 * (1 + skip))))))
    if src = 3 ∨ skip = 0 ∨ bits w0 32 6 ≠ 0 ∨ w1 ≠ 0 ∨ w2 ≠ 0 ∨ (src = 2 ∧ 1 < val) ∨ (src < 2 ∧ 32 ≤ idx) then stop tIllegal
    else if src = 2 then match ringAt w.d c.task c.pos (idx / 8) with
      | none => stop tProt
      | some r => test (if (r.slots.getD (idx % 8) (false, 0)).1 then 1 else 0)
    else match bufAt w.d c.task c.pos idx with
      | none => stop tProt
      | some b => if b.unready then cannot "the buffer's reset is under way" else test (if src = 0 then b.filled else b.free)))

/-- R330: a WAITCB entry: satisfied, or the chain waits in it. -/
def execChainWaitcb (quad engine : Nat) (s : State) : Host.Outcome State Fault Refusal :=
  s.run (fun w => chainStep w quad engine 6 (fun c _ w0 w1 w2 =>
    let n := bits w0 0 32
    if bits w0 57 2 ≠ 0 ∨ bits w0 32 20 ≠ 0 ∨ w1 ≠ 0 ∨ w2 ≠ 0 ∨ n = 0 ∨ 256 < n then .ok (stopChain w quad engine c tIllegal 0)
    else match bufAt w.d c.task c.pos (bits w0 52 5) with
      | none => .ok (stopChain w quad engine c tProt 0)
      | some b =>
        if b.unready then cannot "the buffer's reset is under way"
        else if !b.bound then .ok (stopChain w quad engine c tBounds 0)
        else if n ≤ (if w0.getLsbD 59 then b.free else b.filled) then .ok (advance w quad engine c)
        else if c.wait == .waitcb then cannot "the counter has not reached n"
        else .ok (w.upd (fun d => updChain d quad engine c (fun _ => { c with wait := .waitcb, running := true })))))

/-! ## SIGNAL (R330, R253, R343) -/

/-- R344: the place in the order of a cc of a chain's landing or SIGNAL on an engine. -/
def Chain.place (c : Chain) (rank ei : Nat) : Nat := counterPlace rank c.n (1 + ei)

/-- R343, R418: the filter entry of a SIGNAL at a quad. -/
def signalFilter (c : Chain) (v : Wave) (pos : Nat) : Filter :=
  { unit := .bufUnit c.task pos, ctx := c.ctx, launchId := c.launchId, task := c.task, tag := tagOf v c.rec_, step := c.step, lane := 0,
    result := [], spilled := false }

/-- R319, R324: a SIGNAL at one quad, as `cbsig` or `spost` there. None where its counter cannot take it. -/
def signalOnce (d : Dev) (ei : Nat) (c : Chain) (ring : Bool) (idx : Nat) (x : Word) (pos : Nat) : Option Dev :=
  if ring then match ringAt d c.task pos (idx / 8) with
    | none => none
    | some _ => some (updTaskQuad d c.task pos (fun q => { q with rings := updAt q.rings (idx / 8) (fun g => g.post (idx % 8) x) }))
  else match bufAt d c.task pos idx with
    | none => none
    | some b => if b.unsent.length < x.toNat then none
        else some (updBuf d c.task pos idx (fun b => (b.signal x.toNat).act d.cc (c.place 0 ei)))

/-- R343, R418: a SIGNAL at one quad, once: the quad keeps its entry until it is acknowledged. None where its counter cannot take
it, or the filter has no room. -/
def signalAt (d : Dev) (ei : Nat) (c : Chain) (v : Wave) (ring : Bool) (idx : Nat) (x : Word) (pos : Nat) : Option Dev :=
  let f := signalFilter c v pos
  if marked d c.ctx && (findFilter d f.unit f.launchId f.tag f.step 0).isSome then some d
  else (signalOnce d ei c ring idx x pos).bind (fun d => (keepFilters d [f]).map (fun d => { d with
    acks := d.acks ++ [{ unit := f.unit, launchId := f.launchId, tag := f.tag, step := f.step }] }))

/-- R330: a SIGNAL entry, after the writes of the entries before it. A post waits for the posts of this cc (R325). -/
def execChainSignal (quad engine : Nat) (s : State) : Host.Outcome State Fault Refusal :=
  s.run (fun w => chainStep w quad engine 5 (fun c v w0 w1 w2 =>
    let (ring, idx, mc, x) := (w0.getLsbD 59, bits w0 52 6, w0.getLsbD 51, bits w0 0 32)
    let stop (code : Nat) : Except Refusal Work := .ok (stopChain w quad engine c code 0)
    let buf (p : Nat) : Option Buf := if ring then none else bufAt w.d c.task p idx
    if w0.getLsbD 58 || bits w0 32 19 != 0 || w2 != 0 || (if mc then bits w1 32 32 != 0 || bits w1 0 7 != 0 else w1 != 0) ||
        (!ring && (decide (32 ≤ idx) || x == 0 || decide (256 < x))) then stop tIllegal
    else match if mc then maskPlaces w.d v w1 else some [c.pos] with
      | none => stop tProt
      | some ps =>
        if ps.any (fun p => if ring then (ringAt w.d c.task p (idx / 8)).isNone else (buf p).isNone) then stop tProt
        else if ring && ps.any (fun p => !(dueOn w.d c.task p (1, idx)).isEmpty) then cannot "a post of this cc comes first"
        else if ring && ps.any (fun p => ((ringAt w.d c.task p (idx / 8)).map (fun g => g.waited.contains (idx % 8, w.d.cc))).getD false) then
          cannot "an swait of this cc is satisfied"
        else if ps.any (fun p => ((buf p).map Buf.unready).getD false) then cannot "the buffer's reset is under way"
        else if ps.any (fun p => ((buf p).map (fun b => !b.inOrder w.d.cc (c.place 0 engine))).getD false) then
          cannot "a later operation of this cc has acted"
        else if ps.any (fun p => ((buf p).map (fun b => decide (b.unsent.length < x))).getD false) then stop tBounds
        else match ps.foldl (fun (d : Option Dev) p => d.bind (fun d => signalAt d engine c v ring idx (BitVec.ofNat 64 x) p)) (some w.d) with
          | none => cannot "the filter of a buffer unit is full"
          | some d => .ok ({ w with d }.upd (fun d => updChain d quad engine c (fun c =>
              { c.goto (c.entry + 32) with step := (c.step + 1) % 65536 })))))

/-! ## MOVE and GATHER (R328, R331 to R334) -/

/-- R331: the elements of the first `r` dimensions of a descriptor. -/
def descCount (x : List Word) (r : Nat) : Nat := (List.range r).foldl (fun n i => n * descExtent x i) 1

/-- R331: the byte offset of element `n` of the first `r` dimensions, dimension 0 fastest. -/
def elemOffset (x : List Word) (r n : Nat) : Int :=
  ((List.range r).foldl (fun (a : Int × Nat) i => (a.1 + (a.2 % descExtent x i : Nat) * descStride x i, a.2 / descExtent x i)) (0, n)).1

/-- A sealed descriptor of a chain's quad. -/
inductive DescAt where
  | image (x : List Word)
  | fault (code : Nat)
deriving DecidableEq, Repr

/-- R313, R328: the descriptor an entry names: PROT past the task's count, ILLEGAL where none is sealed. -/
def descAt (d : Dev) (c : Chain) (i : Nat) : DescAt := match (taskQuad d c.task c.pos).bind (fun q => q.descs[i]?) with
  | none => .fault tProt
  | some (_, none) => .fault tIllegal
  | some (_, some x) => .image x

/-- A slot taken by an entry: where it begins in the share, and its bytes. -/
structure SlotRange where
  off : Nat
  bytes : Nat
deriving DecidableEq, Repr

/-- R261: a way that is read: a fault where its byte is lost. -/
def EngineWay.readable (d : Dev) : EngineWay → EngineWay
  | .key k t => if lost d k then .fault tMemerr (keyOffset k) else .key k t
  | x => x

/-- R328: the bytes of an element at an address of a descriptor's space, in a quad of the rectangle: each byte's way. -/
def elemWays (w : Work) (c : Chain) (v : Wave) (useCache store : Bool) (x : List Word) (pos : Nat) (slot : SlotRange) (a : Int) :
    List EngineWay :=
  let n := descElem x
  let all (f : Nat → EngineWay) : List EngineWay := (List.range n).map (fun i => if store then f i else (f i).readable w.d)
  match descSpace x with
  | 0 =>
    let lo := (descBase x : Int) + descLo x
    if a < lo ∨ lo + descLimit x < a + n then [.fault tBounds (BitVec.ofInt 57 a).toNat]
    else all (fun i => engineWay w v useCache false store (BitVec.ofInt 57 (a + i)).toNat 1)
  | 1 =>
    let share := match taskQuad w.d c.task pos with
      | some q => q.share
      | none => 0
    if a < 0 ∨ (share : Int) < a + n then [.fault tBounds 0] else all (fun i => .key (kShare c.task pos (a.toNat + i)) none)
  | _ => if a < 0 ∨ (slot.bytes : Int) < a + n then [.fault tBounds 0] else all (fun i => .key (kShare c.task pos (slot.off + a.toNat + i)) none)

/-- A source element: a zero of a gather, an index out of range, or an address. -/
inductive SrcElem where
  | zero
  | range
  | at_ (a : Int)
deriving DecidableEq, Repr

/-- A transfer checked: its descriptors, its first addresses, how many elements it has, the elements of a slice, and the
quads written, each with its slot. -/
structure Transfer where
  sd : List Word
  dd : List Word
  id : Option (List Word)
  src : Int
  dst : Int
  count : Nat
  slice : Nat
  /-- R332, R333: each source line is read once. -/
  once : Bool
  quads : List (Nat × SlotRange)
deriving DecidableEq, Repr

/-- What the check of a transfer entry finds. -/
inductive Planned where
  | go (t : Transfer)
  | fault (code : Nat)
  | slots (places : List Nat) (buf : Nat)
deriving DecidableEq, Repr

/-- R329, R331 to R333: the reserved fields and rules of a MOVE or GATHER entry. -/
def transferForm (gather : Bool) (w0 : Word) : Bool :=
  (gather || bits w0 42 6 == 0) && bits w0 32 2 == 0 && bits w0 0 7 == 0 && (ceMc w0 || bits w0 7 25 == 0) && (ceCbd w0 || !ceHold w0)

/-- R331 to R333: what two descriptors and the index descriptor of an entry must be. -/
def spacesOk (w0 : Word) (sd dd : List Word) (id : Option (List Word)) : Bool :=
  descSpace sd != 2 && ((descSpace dd == 2) == ceCbd w0) && descElem sd == descElem dd &&
  (!ceMc w0 || (descSpace sd == 0 && descSpace dd != 0)) &&
  (match id with
   | some x => descRank x == 1 && descElem x == 4 && descSpace x != 2
   | none => true)

/-- R332: the buffers of the quads an entry writes, its slots taken or not. -/
def slotRanges (d : Dev) (c : Chain) (buf : Nat) : List (Nat × SlotRange) := c.taken.map (fun t =>
  (t.1, { off := t.2.2, bytes := ((bufAt d c.task t.1 buf).map Buf.slotBytes).getD 0 }))

/-- R329 to R333: a MOVE or GATHER entry checked. -/
def planTransfer (w : Work) (c : Chain) (v : Wave) (gather : Bool) (w0 w1 w2 : Word) : Planned :=
  let id := if gather then descAt w.d c (ceId w0) else .image []
  if !transferForm gather w0 then .fault tIllegal
  else match descAt w.d c (ceSd w0), descAt w.d c (ceDd w0), id with
    | .fault e, _, _ | _, .fault e, _ | _, _, .fault e => .fault e
    | .image sd, .image dd, .image ix =>
      let id := if gather then some ix else none
      let slice := if gather then descCount sd (descRank sd - 1) else descCount sd (descRank sd)
      let count := if gather then descExtent ix 0 * slice else slice
      if !spacesOk w0 sd dd id || descCount dd (descRank dd) != count then .fault tIllegal
      else match if ceMc w0 then maskPlaces w.d v w0 else some [c.pos] with
        | none => .fault tProt
        | some ps =>
          if ceCbd w0 && ps.any (fun p => (bufAt w.d c.task p (ceCbn w0)).isNone) then .fault tProt
          else if ceCbd w0 && c.taken.isEmpty && !ps.isEmpty then .slots ps (ceCbn w0)
          else .go {
            sd, dd, id, count, slice, once := gather || ceMc w0
            src := descBase sd + w1.toInt + c.os, dst := descBase dd + w2.toInt + c.od
            quads := if ceCbd w0 then slotRanges w.d c (ceCbn w0) else ps.map (fun p => (p, { off := 0, bytes := 0 })) }

/-- R332, R344: a slot of the buffer taken in each quad, once each has one free and it is the chain's turn. -/
def takeSlots (d : Dev) (quad ei : Nat) (c : Chain) (ps : List Nat) (buf : Nat) : Option Dev :=
  let bs := ps.map (fun p => (p, (bufAt d c.task p buf).getD (Buf.unbound 0)))
  let place := c.place 3 ei
  if bs.any (fun b => b.2.free == 0 || !(dueOn d c.task b.1 (0, buf)).isEmpty || !b.2.inOrder d.cc place ||
      takesFirst d c.task b.1 buf place b.2) then none
  else
    let d := ps.foldl (fun d p => updBuf d c.task p buf (fun b => b.take.act d.cc place)) d
    some (updChain d quad ei c (fun _ => { c with
      taken := bs.map (fun b => (b.1, b.2.slotAt b.2.write, b.2.offsetAt b.2.write)), wait := .none, running := true }))

/-- Why a run of elements ended. -/
inductive MoveEnd where
  | done
  | way (x : EngineWay)
  | room
deriving DecidableEq, Repr

/-- R331: a byte undefined: a free one. -/
def Work.freeByte (w : Work) : Byte × Work := (Config.freeByte w.d.freeCtr, w.upd (fun d => { d with freeCtr := d.freeCtr + 1 }))

/-- R331: the bytes with those at the named keys undefined. -/
def blur (w : Work) (keys : List Nat) (bad : List Nat) (bs : List Byte) : List Byte × Work :=
  (keys.zip bs).foldl (fun (acc : List Byte × Work) kb =>
    if bad.contains kb.1 then let (x, w) := acc.2.freeByte; (acc.1 ++ [x], w) else (acc.1 ++ [kb.2], acc.2)) ([], w)

/-- R248, R269, R284: bytes read at once by an engine for a wave, by some ways, and where those of phased memory came from. -/
def copyRead (w : Work) (v : Wave) (ws : List EngineWay) (keys : List Nat) : List Byte × List (Nat × Origin) × Work :=
  let w := w.upd (fun d => holdLines d (cachedHostLines ws))
  let x := { ((w.d.wave v.uid).getD v).view w.d with direct := uncachedSectors ws }
  let ph := keys.filter keyPhased
  let (views, w) := sectorViews w x ph
  let (bs, os, w) := readPhased w x views ph
  (keys.map (fun k => (((ph.zip bs).find? (fun e => e.1 == k)).map Prod.snd).getD (w.byte k)), ph.zip os, w)

/-- The same, of bytes that are then used: they bind the wave's later loads (R269). -/
def copyLoad (w : Work) (v : Wave) (ws : List EngineWay) : List Byte × Work :=
  let (bs, os, w) := copyRead w v ws (ws.map EngineWay.at_)
  (bs, w.upd (fun d => noteReads d v.uid (d.coreOf v) (os.map Prod.snd)))

/-- R264, R284: an element written by an engine at once: into the issuing core's version, or at its bank, where a home watch may
match. -/
def enginePut (w : Work) (v : Wave) (cs : List Host.Cell) : Work :=
  let core := w.d.coreOf v
  let ph := cs.filter (fun c => keyPhased c.1)
  let w := if ph.isEmpty then w else w.upd (fun d => storeVersion d core v.ctx v.task 0 d.cc 0 ph)
  (cs.filter (fun c => !keyPhased c.1)).foldl (fun w c =>
    let w := w.store 0 0 c.1 c.2
    if keyRegion c.1 = 3 then homeWatch w v.ctx c.1 else w) w

/-- R259: the lines of an element's ways counted, but for those of the element before it (log 81). -/
def countWays (w : Work) (c : Chain) (ws before : List EngineWay) : Work :=
  let old := (wayLines before).map Prod.snd
  w.upd (fun d => countLines d c.ctx (.chain c.wave c.rec_) ((distinct (wayLines ws)).filter (fun l => !old.contains l.2)))

/-- R333: the index of a slice, read once. -/
def gatherIndex (w : Work) (c : Chain) (v : Wave) (useCache : Bool) (id : List Word) (j : Nat) : Except EngineWay (Chain × Work) :=
  let ways (j : Nat) : List EngineWay := elemWays w c v useCache false id c.pos { off := 0, bytes := 0 } (descBase id + j * descStride id 0)
  match c.index with
  | some (k, i) => if k = j then .ok ({ c with index := some (j, i) }, w) else read ways
  | none => read ways
where
  /-- The element read and counted. -/
  read (ways : Nat → List EngineWay) : Except EngineWay (Chain × Work) :=
    match firstStop (ways j) with
    | some x => .error x
    | none =>
      let (bs, w) := copyLoad w v (ways j)
      .ok ({ c with index := some (j, sbits (BitVec.ofNat 64 (ofBytes bs)) 0 32) },
        countWays w c (ways j) (if j = 0 then [] else ways (j - 1)))

/-- R331, R333: the source of element `n`; `i` is the index of its slice. -/
def Transfer.source (t : Transfer) (i : Int) (n : Nat) : SrcElem :=
  match t.id with
  | none => .at_ (t.src + elemOffset t.sd (descRank t.sd) n)
  | some _ =>
    let r := descRank t.sd - 1
    if i < 0 ∨ (descExtent t.sd r : Int) ≤ i then (if descOob t.sd then .range else .zero)
    else .at_ (t.src + elemOffset t.sd r (n % t.slice) + i * descStride t.sd r)

/-- The ways of a source element. -/
def srcWays (w : Work) (c : Chain) (v : Wave) (useCache : Bool) (t : Transfer) : SrcElem → List EngineWay
  | .at_ a => elemWays w c v useCache false t.sd c.pos { off := 0, bytes := 0 } a
  | .range => [.fault tBounds 0]
  | .zero => []

/-- The ways of a destination element in every quad. -/
def dstWays (w : Work) (c : Chain) (v : Wave) (useCache : Bool) (t : Transfer) (n : Nat) : List (List EngineWay) :=
  t.quads.map (fun q => elemWays w c v useCache true t.dd q.1 q.2 (t.dst + elemOffset t.dd (descRank t.dd) n))

/-- The keys of the ways that have one. -/
def wayKeys (ws : List EngineWay) : List Nat := if (firstStop ws).isSome then [] else ws.map EngineWay.at_

/-- The keys of a line. -/
def lineKeys (line : Nat) : List Nat := (List.range 128).map (fun i => (line / 8 * 128 + i) * 8 + line % 8)

/-- R332, R333: the bytes of a source element, each 128-byte line of which the entry reads, and counts, once. -/
def gatherRead (w : Work) (c : Chain) (v : Wave) (ws : List EngineWay) : List Byte × Chain × Work :=
  let keys := ws.map EngineWay.at_
  let new := (distinct (keys.map lineOf)).filter (fun l => c.lines.all (fun e => lineOf e.1 != l))
  let (c, w) := new.foldl (fun (acc : Chain × Work) l =>
    let way (k : Nat) : EngineWay := ((ws.find? (fun x => lineOf x.at_ == l)).map (fun x => match x with
      | .key _ t => .key k t
      | x => x)).getD (.key k none)
    let (bs, os, w) := copyRead acc.2 v ((lineKeys l).map way) (lineKeys l)
    let used := os.filter (fun o => keys.contains o.1)
    ({ acc.1 with lines := acc.1.lines ++ (lineKeys l).zip bs },
      w.upd (fun d => noteReads d v.uid (d.coreOf v) (used.map Prod.snd)))) (c, w)
  let w := w.upd (fun d => countLines d c.ctx (.chain c.wave c.rec_) ((distinct (wayLines ws)).filter (fun l => new.contains l.2)))
  (keys.map (fun k => ((c.lines.find? (fun e => e.1 == k)).map Prod.snd).getD 0), { c with used := keys ++ c.used }, w)

/-- R331, R333: the bytes of a source element; `before` are the ways of the one before it. -/
def readSource (w : Work) (c : Chain) (v : Wave) (t : Transfer) (ws before : List EngineWay) : List Byte × Chain × Work :=
  if ws.isEmpty then (List.replicate (descElem t.sd) 0, c, w)
  else if t.once then gatherRead w c v ws
  else
    let (bs, w) := copyLoad w v ws
    (bs, c, countWays w c ws before)

/-- R331: the bytes an entry has written and then reads as source are undefined: what memory holds there from now on. -/
def spoilWritten (w : Work) (v : Wave) (keys : List Nat) : Work :=
  keys.foldl (fun w k => let (x, w) := w.freeByte; enginePut w v [(k, x)]) w

/-- The keys an entry has read and those it has written so far. -/
structure Touched where
  read : List Nat
  written : List Nat

/-- R331, R333: one element read and written whole. Bytes both read and written by the entry are undefined. -/
def moveElem (w : Work) (c : Chain) (v : Wave) (useCache : Bool) (t : Transfer) (x : Touched) (n : Nat) :
    MoveEnd × Touched × Chain × Work :=
  match (match t.id with
    | some id => gatherIndex w c v useCache id (n / t.slice)
    | none => .ok (c, w)) with
  | .error s => (.way s, x, c, w)
  | .ok (c, w) =>
    let i := (c.index.map Prod.snd).getD 0
    let ss := srcWays w c v useCache t (t.source i n)
    let outs := dstWays w c v useCache t n
    match firstStop (ss ++ outs.flatten) with
    | some s => (.way s, x, c, w)
    | none =>
      let keys := outs.flatMap (fun ws => ws.map EngineWay.at_)
      if !versionRoom w.d (w.d.coreOf v) v.task w.d.cc (keys.filter keyPhased) then (.room, x, c, w)
      else
        let sk := ss.map EngineWay.at_
        let x := { x with read := sk ++ x.read }
        let (bs, c, w) := readSource w c v t ss (if n = 0 then [] else srcWays w c v useCache t (t.source i (n - 1)))
        let (bs, w) := if sk.isEmpty then (bs, w) else blur w sk x.written bs
        let w := spoilWritten w v (sk.filter x.written.contains)
        let w := outs.foldl (fun w ws =>
          let (bs, w) := blur w (ws.map EngineWay.at_) x.read bs
          enginePut w v ((ws.map EngineWay.at_).zip bs)) w
        let w := countWays w c outs.flatten (if n = 0 then [] else (dstWays w c v useCache t (n - 1)).flatten)
        (.done, { x with written := keys ++ x.written }, { c with moved := n + 1 }, w)

/-- R331: elements one after another, up to the first that cannot be moved. -/
def moveElems (w : Work) (c : Chain) (v : Wave) (useCache : Bool) (t : Transfer) (x : Touched) : List Nat → MoveEnd × Chain × Work
  | [] => (.done, c, w)
  | n :: ns => match moveElem w c v useCache t x n with
    | (.done, x, c, w) => moveElems w c v useCache t x ns
    | (e, _, c, w) => (e, c, w)

/-- R331: what an entry has read and written before the next of its elements. -/
def touched (w : Work) (c : Chain) (v : Wave) (t : Transfer) : Touched :=
  let past := List.range c.moved
  { read := if t.once then c.used else past.flatMap (fun n => wayKeys (srcWays w c v false t (t.source 0 n)))
    written := past.flatMap (fun n => (dstWays w c v false t n).flatMap wayKeys) }

/-- R334, R343: the elements of an entry up to the end of its 128-byte block. -/
def blockEnd (c : Chain) (t : Transfer) : Nat :=
  let e := descElem t.sd
  min t.count ((c.moved * e / 128 + 1) * 128 / e)

/-- R334: a chain that has written 64 KiB asks for leave, once. -/
def askLeave (d : Dev) (quad ei : Nat) (c : Chain) : Dev :=
  let d := updChain d quad ei c (fun c => { c with leaveAsked := some d.cc, wait := .leave })
  d.updQuad quad (fun q => { q with leaveQueue := q.leaveQueue ++ [(true, c.wave, ei * 65536 + c.seq)] })

/-- R332, R334: an entry whose elements are all written: it lands its slots, or the chain goes on. -/
def transferDone (d : Dev) (quad ei : Nat) (c : Chain) : Dev :=
  updChain d quad ei c (fun c => if c.taken.isEmpty then c.goto (c.entry + 32) else { c with landed := true })

/-- What ends a run of elements, done to the chain. -/
def transferStop (w : Work) (quad ei : Nat) (c : Chain) (v : Wave) (moved : Bool) : MoveEnd → Except Refusal Work
  | .done => .ok w
  | .way (.fault code addr) => .ok (stopChain w quad ei c code addr)
  | .way (.absent va) =>
    .ok (postXlate (w.upd (fun d => updChain d quad ei c (fun c => { c with wait := .xlate va }))) (.quad quad) v.ctx v.n va)
  | .way (.blocked va) => .ok (w.upd (fun d => updChain d quad ei c (fun c => { c with wait := .xlate va })))
  | .way (.key _ _) => .ok w
  | .room => match askRoom w (w.d.coreOf v) with
    | some w => .ok w
    | none => if moved then .ok w else cannot "no version has room"

/-- R331 to R334: the elements of an entry moved, from those already moved to the end of the block or to what stops it. -/
def runTransfer (w : Work) (quad ei : Nat) (c : Chain) (v : Wave) (t : Transfer) : Except Refusal Work :=
  let (b, w) := w.freeBit
  let (e, c', w) := moveElems w c v b t (touched w c v t) ((List.range (blockEnd c t)).drop c.moved)
  let k := c'.moved - c.moved
  let c' := { c' with written := c.written + k * descElem t.sd, wait := .none, running := true }
  let w := w.upd (fun d => (updChain d quad ei c (fun _ => c')).updQuad quad (fun q => { q with moved := q.moved || decide (0 < k) }))
  let w := if t.count ≤ c'.moved then w.upd (fun d => transferDone d quad ei c') else w
  let w := if !c'.leaveDone && decide (65536 ≤ c'.written) then w.upd (fun d => askLeave d quad ei c') else w
  transferStop w quad ei c' v (decide (0 < k)) e

/-- R331, R333: a MOVE or GATHER entry. -/
def transferStep (w : Work) (quad ei : Nat) (gather : Bool) : Except Refusal Work :=
  chainStep w quad ei (if gather then 2 else 1) (fun c v w0 w1 w2 =>
    match planTransfer w c v gather w0 w1 w2 with
    | .fault code => .ok (stopChain w quad ei c code 0)
    | .go t => runTransfer w quad ei c v t
    | .slots ps buf =>
      let bs := ps.filterMap (fun p => bufAt w.d c.task p buf)
      if bs.any Buf.unready then cannot "the buffer's reset is under way"
      else if bs.any (fun b => !b.bound) then .ok (stopChain w quad ei c tBounds 0)
      else match takeSlots w.d quad ei c ps buf with
        | some d => .ok { w with d }
        | none =>
          if c.wait == .slot then cannot "no slot is free"
          else .ok (w.upd (fun d => updChain d quad ei c (fun _ => { c with wait := .slot, running := true }))))

/-- R331, R332: a MOVE. It takes its slots in a step of its own. -/
def execChainMove (quad engine : Nat) (s : State) : Host.Outcome State Fault Refusal := s.run (fun w => transferStep w quad engine false)

/-- R333: a GATHER. -/
def execChainGather (quad engine : Nat) (s : State) : Host.Outcome State Fault Refusal := s.run (fun w => transferStep w quad engine true)

/-- R332, R317: the slots of an entry whose bytes have landed are published, unless HOLD is set. -/
def execSlotLanding (quad engine : Nat) (s : State) : Host.Outcome State Fault Refusal :=
  s.run (fun w => match chainOf w.d quad engine with
    | none => cannot "the engine has no chain that runs"
    | some c =>
      let w0 := c.words.headD 0
      let place := c.place 0 engine
      let late (t : Nat × Nat × Nat) : Bool := ((bufAt w.d c.task t.1 (ceCbn w0)).map (fun b => !b.inOrder w.d.cc place)).getD false
      if !c.landed || (c.leaveAsked.isSome && !c.leaveDone) then cannot "no slot has landed"
      else if !ceHold w0 && c.taken.any late then cannot "a later operation of this cc has acted"
      else if counting w.d (.chain c.wave c.rec_) then cannot "a counted request is on its way"
      else
        let w := if ceHold w0 then w
          else w.upd (fun d => c.taken.foldl (fun d t => updBuf d c.task t.1 (ceCbn w0) (fun b => (b.publish t.2.1).act d.cc place)) d)
        .ok (advance w quad engine c))

/-! ## A stalled quad (R321, R322) -/

/-- R321: the buffer a stalled quad enlarges: the one with the fewest bytes, then the lowest physical index. -/
def smallestFull (d : Dev) (bs : List (Task × Nat × Nat)) : Option (Task × Nat × Nat) :=
  let buf (b : Task × Nat × Nat) : Buf := (bufAt d b.1.uid b.2.1 b.2.2).getD (Buf.unbound 0)
  (sortBy (fun b => (buf b).count * (buf b).slotBytes * 64 + (buf b).phys) bs).head?

/-- R322, R323: a buffer enlarged by `e` slots, and the GROW notification. The bytes of the extension hold no stated value. -/
def enlarge (w : Work) (quad : Nat) (t : Task) (pos n e : Nat) (b : Buf) : Work :=
  let bytes := (e * b.slotBytes + 8191) / 8192 * 8192
  let start := shareAt w.d t.uid pos
  let w := (List.range bytes).foldl (fun w i => let (x, w) := w.freeByte; w.put (kShare t.uid pos (start + i)) x) w
  let w := w.upd (fun d => (updTaskQuad (updBuf d t.uid pos n (fun b => b.grow e start bytes)) t.uid pos
    (fun q => { q with share := q.share + bytes })).updQuad quad (fun q => { q with spare := q.spare - bytes, stallRun := 0 }))
  post w (.quad quad) t.ctx (notif w.d nkGrow t.ctx (n % 32 * 2 ^ 27 + quad % 256 * 65536 + t.index % 65536)
    (BitVec.ofNat 64 (t.launchId % 2 ^ 32 * 2 ^ 32 + e)) (BitVec.ofNat 64 (w.d.quad quad).spare)) .none
where
  /-- The share's size in a quad of the rectangle. -/
  shareAt (d : Dev) (task pos : Nat) : Nat := ((taskQuad d task pos).map TaskQuad.share).getD 0

/-- R322: the chains of a task whose engine waits on a buffer, each with its engine. -/
def waitingChains (d : Dev) (task : Nat) : List (Nat × Chain) :=
  d.quads.flatMap (fun q => (enum q.engines).flatMap (fun ie => (ie.2.chains.filter (fun c => c.task == task &&
    (c.wait == .slot || c.wait == .waitcb))).map (fun c => (ie.1, c))))

/-- R322: the traps a stalled task receives: one for each split that waits, or one for the waiting chain. -/
def deadlockTraps (w : Work) (task : Nat) : List Trap :=
  let splits := (w.d.waves.filter (fun v => v.task == task)).flatMap (fun v =>
    (v.splits.filter (waitsOnPeer w v)).map (fun p => splitTrap v p tDeadlock p.pc 0 0 0))
  if splits.isEmpty then ((waitingChains w.d task).take 1).filterMap (fun c => chainTrap w.d c.1 c.2 tDeadlock 0) else splits

/-- R322, R340: the waiting tasks of a stalled quad stopped with DEADLOCK, and a DEADLOCK notification of each, with which it ends. -/
def deadlock (w : Work) (quad : Nat) : Work :=
  let ts := ((quadTasks w.d quad).map Prod.fst).filter (fun t => !(deadlockTraps w t.uid).isEmpty)
  let traps := ts.flatMap (fun t => deadlockTraps w t.uid)
  let w := deliverTraps (w.upd (fun d => (traps.foldl raise d).updQuad quad (fun q => { q with stallRun := 0 })))
  ts.foldl (fun w t => post w (.quad quad) t.ctx (notif w.d nkDeadlock t.ctx (quad % 256 * 65536 + t.index % 65536)
    (BitVec.ofNat 64 (t.launchId % 2 ^ 32 * 2 ^ 32)) 0) (.endTask t.uid)) w

/-- R321, R322: a quad stalled for 4,096 cc enlarges its smallest full buffer, or its waiting tasks are deadlocked. -/
def execQuadStallEnlarge (quad : Nat) (s : State) : Host.Outcome State Fault Refusal :=
  s.run (fun w =>
    if (w.d.quad quad).stallRun < 4096 then cannot "the quad is not stalled"
    else match smallestFull w.d (fullAwaited w.d quad) with
      | none => cannot "no full buffer is awaited"
      | some (t, pos, n) => match bufAt w.d t.uid pos n with
        | none => cannot "no such buffer"
        | some b =>
          let e := growSlots b (w.d.quad quad).spare
          .ok (if e = 0 then deadlock w quad else enlarge w quad t pos n e b))

end Sys2Proof.Machine
end

