-- ==== Sys2Proof/Machine/Messages.lean ====
section
/-! DEFINITION. Active messages and their handlers (spec/12 R341, R342, spec/04 R100), the notification queue (R338, R340), and
the writes of context registers (spec/18 R448). -/

namespace Sys2Proof.Machine

/-! ## Messages (R341) -/

/-- R341: a message enters its core's queue. -/
def enqueue (d : Dev) (core : Nat) (m : Msg) : Dev := d.updCore core (fun c => { c with messages := c.messages ++ [m] })

/-- R418: the filter entry of a message at its receiver. -/
def messageFilter (q : MsgReq) (tag : Nat) : Filter :=
  { unit := .receiver q.msg.task q.core, ctx := q.msg.ctx, launchId := q.msg.launchId, task := q.msg.task, tag, step := 0,
    lane := q.msg.lane, result := [], spilled := false }

/-- R341, R418: a message taken by its receiver: refused where the queue or the filter store is full, answered without a
second entry where it was taken before. -/
def receive (w : Work) (index : Nat) (q : MsgReq) (t : Task) : Work :=
  let core := rectCore t q.core
  let tag := match w.d.wave q.wave with
    | some v => tagOf v q.seq
    | none => 0
  let f := messageFilter q tag
  let refused (d : Dev) : Dev := { d with msgReqs := updAt d.msgReqs index (fun q => { q with refusedAt := some d.cc }) }
  let taken (d : Dev) : Dev := reply { d with msgReqs := d.msgReqs.eraseIdx index } q.wave q.seq [(q.msg.lane, [])]
  w.upd (fun d =>
    if marked d q.msg.ctx && (findFilter d f.unit f.launchId f.tag 0 f.lane).isSome then taken d
    else if 16 ≤ (d.core core).messages.length then refused d
    else match keepFilters d [f] with
      | none => refused d
      | some d => taken (enqueue d core q.msg))

/-- R341: a message reaches the core it names. -/
def execMessageAccept (index : Nat) (s : State) : Host.Outcome State Fault Refusal :=
  s.run (fun w => match w.d.msgReqs[index]? with
    | none => cannot "no such message"
    | some q =>
      if q.refusedAt.isSome then cannot "the message was refused and is not sent again yet"
      else if uninjected w.d q.wave q.seq then cannot "the request waits to be injected"
      else match w.d.task q.msg.task with
        | none => .ok (w.upd (fun d => { d with msgReqs := d.msgReqs.eraseIdx index }))
        | some t =>
          if t.holds then .ok (receive w index q t)
          else if t.state == .ended then .ok (w.upd (fun d => { d with msgReqs := d.msgReqs.eraseIdx index }))
          else cannot "the task is not placed")

/-- R341: a refused message is sent again, 64 cc after its refusal. -/
def execMessageResend (index : Nat) (s : State) : Host.Outcome State Fault Refusal :=
  s.run (fun w => match w.d.msgReqs[index]? with
    | none => cannot "no such message"
    | some q => match q.refusedAt with
      | none => cannot "the message is not refused"
      | some c =>
        if w.d.cc < c + 64 then cannot "64 cc have not passed"
        else .ok (w.upd (fun d => { d with msgReqs := updAt d.msgReqs index (fun q => { q with refusedAt := none }) })))

/-! ## Handlers (R342) -/

/-- R342, R48: the lowest free handler slot of a context on a core. -/
def handlerSlot (d : Dev) (core ctx : Nat) : Option Nat :=
  [0, 1].find? (fun s => d.waves.all (fun v => v.ctx != ctx || d.coreOf v != core || (match v.handler with
    | some h => h.slot != s
    | none => true)))

/-- Whether a handler of a message's task may start: the task is placed, and nothing stops it. -/
def mayHandle (d : Dev) (m : Msg) : Bool :=
  (match d.task m.task with
   | some t => t.state == .resident || t.state == .saving
   | none => false) &&
  d.waves.all (fun v => v.task != m.task || !v.stopped) && d.traps.all (fun t => t.task != m.task || !fatal t.code)

/-- The place of a task's rectangle that a linear core is. -/
def coreInRect (t : Task) (core : Nat) : Nat × Nat × Nat := (core / 4 % 12 - t.ox, core / 4 / 12 - t.oy, core % 4)

/-- R100: lane 0 of a handler: the payload, in the ages it had at the sender. -/
def handlerLane (payload : List (Word × Ty)) : Lane :=
  { Lane.reset with
      q := payload.map (fun x => ({ val := x.1, tag := x.2, pend := .clear } : Entry)) ++
      List.replicate (16 - payload.length) Entry.empty }

/-- R100, R342, R417: a handler wave. -/
def handlerWave (d : Dev) (l : Launch) (t : Task) (core slot : Nat) (pc : VAddr) (m : Msg) : Wave :=
  let (x, y, c) := coreInRect t core
  let seq := ((d.core core).handlerSeq.find? (fun e => e.1 == m.ctx && e.2.1 == slot)).map (fun e => e.2.2)
  let v := newWave d l t x y c l.nm
  { v with
    n := m.sender, role := .v, j := 0, tiles := [], gids := gidsOf [] 0
    handler := some { slot, sender := m.sender, taskPos := 4 * (y * l.w + x) + c }
    lanes := handlerLane m.payload :: List.replicate 31 Lane.reset
    splits := [{ Split.first pc 1 with readyAt := d.cc }]
    recSeq := seq.getD 0 }

/-- R342, R403: the fault of a message's handler index, recorded against the sending wave. -/
def messageTrap (d : Dev) (t : Task) (m : Msg) : Trap := match d.wave m.senderUid with
  | some v => if v.exited then { lateTrap v m.split tProt m.pc 0 0 0 0 with split := none } else lateTrap v m.split tProt m.pc 0 0 0 0
  | none => {
      code := tProt, ctx := m.ctx, launchId := m.launchId, task := m.task, taskIndex := t.index, n := m.sender, wave := none,
      split := none, age := 0, pc := m.pc, lanes := 0, d2 := 0, addr := 0, handle := 0, offset := 0, safePoints := 0, edited := false, site := none }

/-- R342: the oldest message of a core that has a free handler slot spawns its handler, or stops its task. -/
def execHandlerSpawn (core : Nat) (s : State) : Host.Outcome State Fault Refusal :=
  s.run (fun w => match (enum (w.d.core core).messages).find? (fun im => mayHandle w.d im.2 && (handlerSlot w.d core im.2.ctx).isSome) with
    | none => cannot "no message has a free handler slot"
    | some (i, m) => match handlerSlot w.d core m.ctx, w.d.task m.task, w.d.launch m.ctx m.launchId, w.d.ctx m.ctx with
      | some slot, some t, some l, some c =>
        let w := w.upd (fun d => d.updCore core (fun c => { c with messages := c.messages.eraseIdx i }))
        let e := c.marion.getD m.handler 0
        if !e.getLsbD 63 then .ok (w.upd (fun d => raise d (messageTrap d t m)))
        else .ok (w.upd (fun d => addWave d (handlerWave d l t core slot (BitVec.ofNat 57 (bits e 0 57)) m)))
      | _, _, _, _ => cannot "the message's task is gone")

/-! ## The notification queue (R338, R340) -/

/-- R256, R340: an XLATE entry is written: what waits on its page goes on where an invalidation has covered it since. -/
def xlateWritten (w : Work) (ctx : Nat) : Finish → Work
  | .xlate va true => releaseRange w { num := 0, ctx, lo := va, size := 1, all := false, but := [], wave := none, pending := [] }
  | _ => w

/-- R340: the oldest held notification of a context is written, or dropped for want of W, and what waited for it is done. -/
def execHeldNotificationWrite (ctx : Nat) (s : State) : Host.Outcome State Fault Refusal :=
  s.run (fun w => match w.d.ctx ctx with
    | none => cannot "no such context"
    | some c => match c.held with
      | [] => cannot "no notification is held"
      | h :: t =>
        let pop (w : Work) : Work := w.upd (fun d => d.updCtx ctx (fun c => { c with held := t }))
        let go (w : Work) : Work := xlateWritten (finish (pop w) h.fin) ctx h.fin
        match writeNotif w c h.entry with
        | .written w => .ok (go w)
        | .dropped w => .ok (go w)
        | .wait => cannot "the ring has no room, or its page is unmapped")

/-! ## Context registers (R448) -/

/-- R448: the context a block names. -/
def blockCtx (d : Dev) (block : Nat) : Option Ctx := d.ctxs.find? (fun c => c.block == block)

/-- R448: whether a context has a saved task. -/
def hasSaved (d : Dev) (ctx : Nat) : Bool := d.tasks.any (fun t => t.ctx == ctx && t.state == .saved)

/-- R10, R26, R435, R448: the host writes a register of a context's block. `saved` says whether the register may be written
while the context has a saved task. -/
def ctxWrite (w : Work) (block off : Nat) (value : Word) (saved ok : Bool) (k : Work → Ctx → Work) : Except Refusal Work :=
  match inputGate w (.mmio (blockOffset block + off) value) with
  | none => cannot "the log has another input first"
  | some w => match blockCtx w.d block with
    | none => .ok (regWrite w (blockOffset block + off) false id)
    | some c => .ok (regWrite w (blockOffset block + off) (ok && (saved || !hasSaved w.d c.id)) (fun w => k w c))

/-- R338, R448: CX_NQHEAD: the head of a context's ring advances. -/
def nqheadWrite (w : Work) (block : Nat) (value : Word) : Except Refusal Work :=
  let h := bits value 0 32
  let ok := match blockCtx w.d block with
    | some c => decide ((c.nqTail + 2 ^ 32 - h) % 2 ^ 32 ≤ c.nqCount)
    | none => false
  ctxWrite w block 0x010 value true (bits value 32 32 == 0 && ok) (fun w c =>
    w.upd (fun d => d.updCtx c.id (fun c => { c with nqHead := h })))

/-- R338: the host advances the head of a context's ring. -/
def execCxNqheadWrite (block : Nat) (value : Word) (s : State) : Host.Outcome State Fault Refusal := s.run (fun w => nqheadWrite w block value)

end Sys2Proof.Machine
end

