-- ==== Sys2Proof/Machine/Preempt.lean ====
section
/-! DEFINITION. Traps delivered and waves resumed (spec/16 R405 to R408), and pre-emption: the save of a task (R409 to R415), its
restore (R420, R422) and its replay (R416 to R421). -/

namespace Sys2Proof.Machine

/-! ## Traps (R405, R407, R408) -/

/-- R407, R408: the traps raised in this cc are delivered. -/
def execTrapDelivery (s : State) : Host.Outcome State Fault Refusal :=
  s.run (fun w => if w.d.traps.isEmpty then cannot "no trap is raised" else .ok ((deliverTraps w).upd clearMarks))

/-- R405, R448: CX_RESUME: a halted wave resumes. Naming any other has no effect. -/
def resumeWrite (w : Work) (block : Nat) (value : Word) : Except Refusal Work :=
  ctxWrite w block 0x028 value true (bits value 48 16 == 0) (fun w c =>
    w.upd (fun d => resume d c.id (bits value 16 32) (bits value 0 16)))

/-- R405: the host resumes a halted wave. -/
def execCxResumeWrite (block : Nat) (value : Word) (s : State) : Host.Outcome State Fault Refusal := s.run (fun w => resumeWrite w block value)

/-! ## The save (R409 to R415) -/

/-- R410, R306, R192: what a split was about to do is given up, to be issued again, but for an arrival already sent. -/
def Stage.saved : Stage → Stage
  | .arriving q => .arriving q
  | .entering _ => .entering none
  | .tlbinv n => .tlbinv n
  | _ => .idle

/-- R398, R410: the waves of a task stop at their next issue slot, and give up their leave requests, to make them again. -/
def stopWave (v : Wave) : Wave :=
  { v with
    stopped := true, splits := v.splits.map (fun p => { p with stage := p.stage.saved, wait := none })
    slots := v.slots.map (fun o => { o with asked := none }) }

/-- R158: an FPE raised as its wave is pre-empted is kept with the wave. -/
def holdFpe (d : Dev) (t : Task) : Dev :=
  let held (x : Trap) : Bool := x.task == t.uid && x.code == tFpe && x.wave.isSome
  { d with
    traps := d.traps.filter (fun x => !held x)
    waves := updWhere (fun v => v.task == t.uid) (fun v => { v with
      heldTraps := v.heldTraps ++ d.traps.filter (fun x => held x && x.wave == some v.uid) }) d.waves }

/-- R398: a chain's leave request is given up, to be made again. -/
def stopLeave (c : Chain) : Chain := if c.leaveDone then c else { c with leaveAsked := none, wait := if c.wait == .leave then .none else c.wait }

/-- R410, R343: issue stops, engines stop, leave requests are given up, and the context's mark is set. -/
def startSave (d : Dev) (t : Task) : Dev :=
  let mine (u : Nat) : Bool := d.waves.any (fun v => v.uid == u && v.task == t.uid)
  let chains (e : Engine) : Engine := { e with chains := updWhere (fun c => c.task == t.uid) stopLeave e.chains }
  let d := holdFpe d t
  { d with
    waves := updWhere (fun v => v.task == t.uid) stopWave d.waves
    quads := d.quads.map (fun q => { q with engines := q.engines.map chains, leaveQueue := q.leaveQueue.filter (fun r => !mine r.2.1) })
    ctxs := updWhere (fun c => c.id == t.ctx) (fun c => { c with marked := true }) d.ctxs }

/-- R410: a task chosen for pre-emption stops. -/
def execPreemptionStart (task : Nat) (s : State) : Host.Outcome State Fault Refusal :=
  s.run (fun w => match w.d.task task with
    | none => cannot "no such task"
    | some t =>
      if t.state != .saving then cannot "the task is not chosen for pre-emption"
      else if w.d.waves.any (fun v => v.task == task && v.stopped) then cannot "the task has stopped"
      else if w.d.traps.any (fun x => x.task == task && fatal x.code) then cannot "a fatal trap wins"
      else if w.d.toyboxPending.isSome then cannot "a Toybox change holds new saves back"
      else .ok (w.upd (fun d => startSave d t)))

/-- R111: an entry of fixed latency that is not written yet. -/
def Entry.unwritten (cc : Nat) (e : Entry) : Bool := match e.pend with
  | .fixed c | .tagged c _ => decide (cc < c)
  | _ => false

/-- R111, R158, R205: whether the results of fixed latency a wave has issued are written, and its synchronous forms are done. -/
def wroteAll (cc : Nat) (v : Wave) : Bool :=
  v.lanes.all (fun l => l.q.all (fun e => !e.unwritten cc) && l.f.all (fun e => !e.unwritten cc) && l.p.all (fun p => decide (p.ready ≤ cc))) &&
  v.levels.all (fun l => l.queues.all (fun q => q.all (fun e => !e.unwritten cc))) && v.tiles.all (fun t => decide (t.busyUntil ≤ cc))

/-- R111: an entry as an image holds it: a result of fixed latency is no longer pending. -/
def Entry.frozen (e : Entry) : Entry := match e.pend with
  | .fixed _ | .tagged _ _ => { e with pend := .clear }
  | _ => e

/-- R111: a wave whose results of fixed latency are written, as its image holds it. -/
def freezeWave (v : Wave) : Wave :=
  { v with
    lanes := v.lanes.map (fun l => { q := l.q.map Entry.frozen, f := l.f.map Entry.frozen, p := l.p.map (fun p => { p with ready := 0 }) })
    levels := v.levels.map (fun l => { l with queues := l.queues.map (fun q => q.map Entry.frozen) })
    recs := v.recs.map (fun r => { r with frozen := true }) }

/-- R410: whether the request of an entry goes to its unit, which has neither accepted nor refused it: a counter or table operation
that is to be performed, or a store that waits for nothing before it. -/
def onWay (w : Work) (v : Wave) (r : Rec) : Bool := !r.frozen && (match r.state, r.op with
  | .timed _, _ => true
  | .sent, .ptset _ _ _ _ _ => true
  | .sent, .store _ => !r.here.isEmpty && !behindOwn w v r && !behindSource w.d v r
  | _, _ => false)

/-- R410, R111, R315: whether every request of a task's entries has landed or was refused, every result of fixed latency is
written, and every buffer a `cbinit` has named is reset. -/
def settled (w : Work) (task : Nat) : Bool :=
  let d := w.d
  let mine (u : Nat) : Bool := d.waves.any (fun v => v.uid == u && v.task == task)
  d.waves.all (fun v => v.task != task || wroteAll d.cc v) &&
  (match d.task task with
   | some t => t.quads.all (fun q => q.bufs.all (fun b => b.binds.isEmpty))
   | none => true) &&
  d.bankReqs.all (fun q => q.task != task) && d.groupReqs.all (fun q => q.task != task) &&
  d.msgReqs.all (fun q => q.msg.task != task || q.refusedAt.isSome) && d.deliveries.all (fun x => !mine x.wave) &&
  d.launchReqs.all (fun q => !mine q.wave || q.waitsOn.isSome) &&
  d.waves.all (fun v => v.task != task || v.recs.all (fun r => !onWay w v r))

/-- R412: a number of bytes in 256-byte units. -/
def units256 (n : Nat) : Nat := (n + 255) / 256

/-- R412: the units of a section whose instances take these units: an index where they are several, then the instances. -/
def sectionUnits (us : List Nat) : Nat := (if us.length ≤ 1 then 0 else units256 (4 * us.length)) + us.sum

/-- R412: the entries of a wave's queues and frames that are not EMPTY. -/
def filledEntries (v : Wave) : Nat :=
  (v.lanes.map (fun l => ((l.q ++ l.f).filter (fun e => e.tag != .empty)).length)).sum

/-- The elements of `n` bytes in some bytes, each as a dword. -/
def elemWords (n : Nat) (bs : List Byte) : List Word :=
  (List.range (bs.length / max 1 n)).map (fun i => BitVec.ofNat 64 (ofBytes ((bs.drop (n * i)).take n)))

/-- R412, R455: the store data or operands of a lane of an entry. -/
def laneOperands (op : RecOp) (a : Access) : List Word := match op with
  | .store n => elemWords n a.data
  | .atom .cas _ _ | .atom .xadd _ _ => [a.b, a.c]
  | .atom _ _ _ => [a.b]
  | _ => []

/-- R412: the operands of an entry that belong to no lane. -/
def waveOperands (r : Rec) : List Word := match r.op with
  | .update _ ty _ => r.accesses.flatMap (fun a => elemWords (tyWidth ty / 8) a.data)
  | .post _ _ x | .gset _ _ x _ => [x]
  | .ptset _ _ _ m x => [BitVec.ofNat 64 m, x]
  | _ => []

/-- R412, R455: the payload of an entry in the image: operand k of lane l at dword 32 k + l, then what belongs to no lane. -/
def payloadDwords (r : Rec) : List Word :=
  let lanes := r.accesses.map (fun a => (a.lane, laneOperands r.op a)) ++ r.messages.map (fun m => (m.1, m.2.map Prod.fst))
  let n := (lanes.map (fun x => x.2.length)).foldl max 0
  (List.range n).flatMap (fun k => (List.range 32).map (fun l =>
    ((lanes.find? (fun x => x.1 == l)).bind (fun x => x.2[k]?)).getD 0)) ++ waveOperands r

/-- R412: the units that the instances of each of the nine sections after the header of a task's image take, in their order. Four
waves' group arrivals share a unit. -/
def sectionInstances (d : Dev) (t : Task) (canonical : Bool) : List (List Nat) :=
  let vs := sortBy Wave.n (d.waves.filter (fun v => v.task == t.uid))
  let each (f : Wave → Nat) (u : Nat) : List Nat := vs.flatMap (fun v => List.replicate (f v) u)
  [each (fun _ => 1) 16, vs.map (fun v => units256 (1536 + 8 * filledEntries v)), each (fun v => v.levels.length) 19,
   each (fun v => (v.inboxes.map List.length).sum) 2,
   vs.map (fun v => units256 (768 + 8 * (v.recs.map (fun r => (payloadDwords r).length)).sum)),
   each (fun v => v.tiles.length) (if canonical then 33 else 66), t.cores.map (fun _ => 2),
   t.quads.map (fun q => units256 (q.share + 65536)), (enum vs).map (fun v => if v.1 % 4 = 0 then 1 else 0)]

/-- R412: the units of the nine sections after the header of a task's image, in their order. -/
def sectionSizes (d : Dev) (t : Task) (canonical : Bool) : List Nat := (sectionInstances d t canonical).map sectionUnits

/-- R412, R413: the size of a task's image in 256-byte units. -/
def imageUnits256 (d : Dev) (t : Task) (canonical : Bool) : Nat := 1 + (sectionSizes d t canonical).sum

/-- R413: the header of a task's image at the freeze. -/
def headerOf (d : Dev) (t : Task) : Image :=
  let policy := match d.ctx t.ctx with
    | some c => c.policy
    | none => 0
  { codeBase := match d.launch t.ctx t.launchId with
      | some l => l.codeBase
      | none => 0
    tick := d.hb.count, policy, edited := d.waves.any (fun v => v.task == t.uid && v.edited)
    size := imageUnits256 d t (policy.getLsbD 0), spilled := 0, bad := false }

/-- R410, R411: the record of every wave is frozen, and the refused messages are saved as not executed. -/
def freeze (d : Dev) (t : Task) : Dev :=
  let d := { d with
    waves := updWhere (fun v => v.task == t.uid) freezeWave d.waves
    msgReqs := d.msgReqs.filter (fun q => q.msg.task != t.uid) }
  d.updTask t.uid (fun x => { x with state := .settled, image := some (headerOf d t) })

/-- R410: the requests have landed: the in-flight record is frozen. -/
def execSettleComplete (task : Nat) (s : State) : Host.Outcome State Fault Refusal :=
  s.run (fun w => match w.d.task task with
    | none => cannot "no such task"
    | some t =>
      if t.state != .saving || w.d.waves.any (fun v => v.task == task && !v.stopped) then cannot "the task has not stopped"
      else if w.d.traps.any (fun x => x.task == task && fatal x.code) then cannot "a fatal trap wins"
      else if !settled w task then cannot "a request has not landed"
      else .ok (w.upd (fun d => freeze d t)))

/-- Where the waves and versions of a saved task are counted: a place outside the grid. -/
def nowhere : Nat := 10000

/-- R359: whether an endpoint of a task's cores holds an incomplete packet of its context. -/
def reassembling (d : Dev) (t : Task) : Bool :=
  let held (m : MeshState) (core : Nat) : Bool := match m.endpoints[coreEndpoint core]? with
    | some e => e.reasm.any (fun r => r.ctx == t.ctx)
    | none => false
  (taskCores d t).any (fun c => held d.meshReq c || held d.meshReply c)

/-- R414: the tiles of a wave as an image keeps them. -/
def savedTiles (resolve : Bool) (v : Wave) : Wave := if resolve then { v with tiles := v.tiles.map resTile } else v

/-- R343, R412: the chains of a task taken off its engines, each with its engine. -/
def savedChains (d : Dev) (task : Nat) : List (Nat × Chain) :=
  d.quads.flatMap (fun q => (enum q.engines).flatMap (fun ie => (ie.2.chains.filter (fun c => c.task == task)).map (fun c => (ie.1, c))))

/-- R343, R412: the unspawned messages of a task, each with its core in the rectangle. -/
def savedMsgs (d : Dev) (t : Task) : List (Nat × Msg) :=
  (enum d.cores).flatMap (fun ic => (ic.2.messages.filter (fun m => m.task == t.uid)).map (fun m =>
    let (x, y, c) := coreInRect t ic.1
    (4 * (x + 12 * y) + c, m)))

/-- The core of a version of a task that moves from one origin to another. -/
def movedCore (ox oy nx ny core : Nat) : Nat :=
  let p := core / 4
  4 * (12 * (p / 12 - oy + ny) + (p % 12 - ox + nx)) + core % 4

/-- R266, R272: whether a commit under way on a core of a task, which may cover its versions, is not complete. -/
def commitsUnderWay (d : Dev) (t : Task) : Bool := (taskCores d t).any (fun c => (d.core c).boundary.any (fun b => !b.done))

/-- R272, R410: the task's places are free, and it waits. Its waves, its shares and its versions stay with it. -/
def leavePlaces (d : Dev) (t : Task) : Dev :=
  let w := match d.launch t.ctx t.launchId with
    | some l => l.w
    | none => 1
  let resolve := match t.image with
    | some i => i.policy.getLsbD 0
    | none => false
  let chains := savedChains d t.uid
  let msgs := savedMsgs d t
  let d := freeSpare d t w
  let drop (e : Engine) : Engine := { e with chains := e.chains.filter (fun c => c.task != t.uid) }
  let dropQ (q : Quad) : Quad := { q with engines := q.engines.map drop }
  let dropM (c : Core) : Core := { c with messages := c.messages.filter (fun m => m.task != t.uid) }
  let away (x : VerByte) : VerByte :=
    let (c, p) := (x.core % 4, x.core / 4)
    { x with core := 4 * (nowhere + (p % 12 - t.ox) + 12 * (p / 12 - t.oy)) + c }
  let d := { d with
    quads := d.quads.map dropQ, cores := d.cores.map dropM
    waves := updWhere (fun v => v.task == t.uid) (savedTiles resolve) d.waves
    vers := updWhere (fun (x : VerByte) => x.task == t.uid) away d.vers }
  d.updTask t.uid (fun t => { t with
    state := .saved, ox := 12 * nowhere, oy := 12 * nowhere, waitSince := d.cc, chains, msgs })

/-- R410: the image is written: the task's places are free, and it becomes waiting. -/
def execSaveComplete (task : Nat) (s : State) : Host.Outcome State Fault Refusal :=
  s.run (fun w => match w.d.task task with
    | none => cannot "no such task"
    | some t =>
      if t.state != .settled then cannot "the record is not frozen"
      else if w.d.traps.any (fun x => x.task == task && fatal x.code) then cannot "a fatal trap wins"
      else if reassembling w.d t then cannot "a packet for the task is incomplete"
      else if commitsUnderWay w.d t then cannot "a commit of its versions is under way"
      else .ok (w.upd (fun d => leavePlaces d t)))

/-! ## The restore (R420) -/

/-- R420: the buffers, rings and descriptors of a quad under their new physical indices. -/
def rebind (old new : TaskQuad) : TaskQuad :=
  { old with
    bufs := (old.bufs.zip new.bufs).map (fun p => { p.1 with phys := p.2.phys })
    rings := (old.rings.zip new.rings).map (fun p => { p.1 with phys := p.2.phys })
    descs := (old.descs.zip new.descs).map (fun p => (p.2.1, p.1.2)) }

/-- R420: the PCs of a wave moved. -/
def moveWavePcs (k : VAddr) (v : Wave) : Wave :=
  { v with
    splits := v.splits.map (fun p => { p with pc := p.pc + k, rejoinAt := p.rejoinAt + k })
    levels := v.levels.map (fun c => { c with retPc := c.retPc + k })
    slots := v.slots.map (fun o => { o with pc := o.pc + k })
    heldTraps := v.heldTraps.map (fun t => { t with pc := t.pc + k })
    recs := v.recs.map (fun r => { r with pc := r.pc + k }) }

/-- R375, R53: the splits of a restored wave: the oldest loaded, the others to be loaded as entries are free. -/
def reloadSplits (v : Wave) (cc : Nat) : Wave :=
  let ns := (sortBy Split.created v.splits).map Split.num
  let out (p : Split) : Split := { p with loaded := false, ageing := 0, wait := none, fetchWait := none }
  let v := { v with
    splits := v.splits.map out
    spilled := ns, spillHead := 1, spillCount := 0, swapDue := false }
  v.loadNext cc

/-- R398: the leave requests a pre-emption abandoned made again. -/
def askAgain (d : Dev) (u : Nat) : Dev := match d.wave u with
  | none => d
  | some v => (v.slots.filter (fun o => !o.granted)).foldl (fun d o =>
      askSlotLeave (d.updWave u (fun v => v.updSlot o.order (fun o => { o with asked := some d.cc }))) v o.order) d

/-- R49, R53, R158, R267, R398, R420, R428: a wave of a restored task takes its place on its new core, whose entry it awaits; what waited
for its resume is raised and asked for again. -/
def landWave (d : Dev) (u : Nat) (k : VAddr) (edited : Bool) : Dev :=
  match d.wave u with
  | none => d
  | some v =>
    let core := d.coreOf v
    let sched := schedFor d core
    let v := reloadSplits (moveWavePcs k v) d.cc
    let d := d.updWave u (fun _ => { v with
      sched, slot := slotFor d core sched, residentAt := d.cc, stopped := false, replaying := !v.recs.isEmpty, awaitsEntry := true, edited := v.edited || edited, seen := [], seenStores := []
      slots := updWhere (fun o => o.kind == .astr || o.kind == .ald) (fun o => { o with begunAt := d.cc }) v.slots
      heldTraps := [] })
    askAgain { d with traps := d.traps ++ v.heldTraps } u

/-- R231, R272, R359, R412, R420: what a task holds in the quads, engines and queues of its new place, where the L1 lines and the
translations its context had there are invalid; its versions belong to the next boundary of the core that holds them, and its saved
packets are handed on. -/
def landTask (d : Dev) (l : Launch) (t : Task) (ox oy : Nat) : Dev :=
  let quads := (t.quads.zip (rectAt l.w l.h (ox, oy))).map (fun p => rebind p.1 (bindQuad d l p.2))
  let t' := { t with
    ox, oy, quads, state := .restoring, residentSince := d.cc, image := none, chains := [], msgs := [], packets := [], claim := none
    handlers := (match d.ctx t.ctx with
      | some c => marionValid c.marion
      | none => false)
    cores := t.cores.map (fun c => { c with nbr := List.replicate 4 Nbr.zero }) }
  let d := (enum quads).foldl (fun d iq => d.updQuad (t'.pos (iq.1 % l.w) (iq.1 / l.w)) (fun q => { q with
    spare := q.spare - (iq.2.share - iq.2.placed) })) (d.updTask t.uid (fun _ => t'))
  let d := (taskCores d t').foldl (fun d i => { d.updCore i (fun c => { c with tlb := c.tlb.filter (fun e => e.ctx != t.ctx), l1 := [] }) with
    xcache := updAt d.xcache (dieOf (i / 4)) (List.filter (fun e => e.ctx != t.ctx)) }) d
  let add (c : Chain) (e : Engine) : Engine := { e with chains := e.chains ++ [{ c with wait := .none }] }
  let d := t.chains.foldl (fun d ic => d.updQuad (t'.pos (ic.2.pos % 12) (ic.2.pos / 12)) (fun q => { q with
    engines := updAt q.engines ic.1 (add ic.2) })) d
  let d := t.msgs.foldl (fun d cm => enqueue d (rectCore t' cm.1) cm.2) d
  { d with
    vers := updWhere (fun (x : VerByte) => x.task == t.uid && decide (4 * nowhere ≤ x.core)) (fun x =>
      let p := x.core / 4 - nowhere
      let core := 4 * t'.pos (p % 12) (p / 12) + x.core % 4
      { x with core, at_ := nextGen d core, restored := true }) d.vers
    waves := updWhere (fun v => v.task == t.uid) (fun v => { v with sched := 8 }) d.waves }

/-- R420: the PCs of a task's chains and messages moved. -/
def moveTaskPcs (k : VAddr) (t : Task) : Task :=
  { t with
    chains := t.chains.map (fun c => (c.1, { c.2 with pc := c.2.pc + k }))
    msgs := t.msgs.map (fun m => (m.1, { m.2 with pc := m.2.pc + k })) }

/-- R420 steps 2 to 6: a saved task at an origin: each of its cores takes an entry, as soon as it can, and then its waves replay. -/
def restoreTask (w : Work) (l : Launch) (t : Task) (i : Image) (ox oy : Nat) : Work :=
  let k := l.codeBase - i.codeBase
  let w := w.upd (fun d => landTask d l (moveTaskPcs k t) ox oy)
  let us := (sortBy Wave.n (w.d.waves.filter (fun v => v.task == t.uid))).map Wave.uid
  let w := w.upd (fun d => us.foldl (fun d u => landWave d u k i.edited) d)
  let t' := (w.d.task t.uid).getD t
  let w := w.upd fillTables
  let w := w.upd (fun d => (taskCores d t').foldl (fun d c => (requestEntry d c).1) d)
  replayWaves w (us.filter (fun u => !((w.d.wave u).map Wave.awaitsEntry).getD true))

/-- R420, R415, R21: a saved task, the next in placement order, is restored where it fits; under integrity-strict an edited image
raises PROT, and an image with an uncorrectable sector raises MEMERR. -/
def execRestore (task : Nat) (s : State) : Host.Outcome State Fault Refusal :=
  s.run (fun w => if w.d.mg.safe then cannot "the safe state" else match nextPlacement w.d with
    | none => cannot "no waiting task fits"
    | some (t, ox, oy) => match t.image, w.d.launch t.ctx t.launchId, w.d.ctx t.ctx with
      | some i, some l, some c =>
        if t.uid ≠ task then cannot "another task comes first"
        else if w.d.traps.any (fun x => x.task == task) then cannot "the image has been refused"
        else if w.d.toyboxPending.isSome then cannot "a Toybox change holds new restores back"
        else if i.bad then .ok (w.upd (fun d => taskTrap d task tMemerr (kImage task)))
        else if c.policy.getLsbD 1 && i.edited then .ok (w.upd (fun d => taskTrap d task tProt 0))
        else .ok (restoreTask w l t i ox oy)
      | _, _, _ => cannot "the next task is not a saved one")

/-! ## The end of replay (R421) -/

/-- Whether an entry is of class I2 whatever its page will be. -/
def recI2 (r : Rec) : Bool := r.cls == 2 || (match r.op with
  | .atom _ _ _ | .update _ _ _ => true
  | .reduce _ _ _ clr => clr
  | _ => false)

/-- R418: whether a filter entry was kept for an entry of a wave's record. -/
def filterOf (v : Wave) (f : Filter) : Bool :=
  f.launchId == v.launchId && f.ctx == v.ctx && (match v.handler with
    | some _ => f.tag / 32 == tagOf v 0 / 32
    | none => f.tag / 32768 == tagOf v 0 / 32768 && f.step == 0)

/-- R421, R418: a wave whose replayed entries are issued again and, of class I2, answered may issue new instructions. -/
def execReplayComplete (wave : Nat) (s : State) : Host.Outcome State Fault Refusal :=
  s.run (fun w => match w.d.wave wave with
    | none => cannot "no such wave"
    | some v =>
      if !v.replaying then cannot "the wave does not replay"
      else if v.stopped then cannot "the wave is stopped"
      else if v.awaitsEntry then cannot "the entry of its core is not performed"
      else if v.recs.any (fun r => r.replaying && (r.state == .walk || recI2 r)) then cannot "an entry is not replayed"
      else
        let w := w.upd (fun d => { d.updWave wave (fun v => { v with
            replaying := false, recs := v.recs.map (fun r => { r with replaying := false }) }) with
          filters := d.filters.filter (fun f => !filterOf v f) })
        .ok (settleWave (w.upd (fun d => clearMarks (endReplay d v.task))) wave))

/-! ## Suspension (R409, R447, R448) -/

/-- R409: every resident task of a context is chosen for pre-emption. -/
def chooseAll (d : Dev) (ctx : Nat) : Dev := ((d.tasks.filter (fun t => t.ctx == ctx)).map Task.uid).foldl choose d

/-- R448: CX_SUSPEND: HOLD set pre-empts the tasks of a context and holds them; cleared, they wait again. Bit 1 is read-only. -/
def suspendWrite (w : Work) (block : Nat) (value : Word) : Except Refusal Work :=
  ctxWrite w block 0x080 value true (bits value 2 62 == 0) (fun w c =>
    let hold := value.getLsbD 0
    let w := w.upd (fun d => d.updCtx c.id (fun c => { c with hold }))
    if hold then w.upd (fun d => chooseAll d c.id)
    else w.upd (fun d => { d with
      tasks := updWhere (fun t => t.ctx == c.id && c.hold && (t.state == .waiting || t.state == .saved)) (fun t => { t with waitSince := d.cc }) d.tasks }))

/-- R448: the host writes CX_SUSPEND. -/
def execCxSuspendWrite (block : Nat) (value : Word) (s : State) : Host.Outcome State Fault Refusal := s.run (fun w => suspendWrite w block value)

/-- R447: DC_SUSPEND: every task of a context is pre-empted. -/
def dcSuspendWrite (w : Work) (value : Word) : Work :=
  regWrite w 0x00020018 (bits value 16 48 == 0) (fun w => w.upd (fun d => chooseAll d (bits value 0 16)))

/-- R447: firmware pre-empts every task of a context. -/
def execDcSuspendWrite (value : Word) (s : State) : Host.Outcome State Fault Refusal := s.run (fun w => .ok (dcSuspendWrite w value))

end Sys2Proof.Machine
end

