-- ==== Sys2Proof/Machine/Mesh.lean ====
section
/-! DEFINITION. The two meshes and the links to other packages (spec/13): injection, routing, acceptance, reassembly,
throttling and drain (R347 to R361), and Mojor (R362, R363). The mesh moves flits; what a packet asks of its unit is
the step of that unit (log 15). -/

namespace Sys2Proof.Machine

/-! ## The grid (R347, R349) -/

def Dev.mesh (d : Dev) : Mesh → MeshState
  | .request => d.meshReq
  | .reply => d.meshReply

def Dev.updMesh (d : Dev) (m : Mesh) (f : MeshState → MeshState) : Dev := match m with
  | .request => { d with meshReq := f d.meshReq }
  | .reply => { d with meshReply := f d.meshReply }

def MeshState.endpoint (m : MeshState) (e : Nat) : Endpoint := m.endpoints.getD e Endpoint.reset
def MeshState.updEndpoint (m : MeshState) (e : Nat) (f : Endpoint → Endpoint) : MeshState :=
  { m with endpoints := updAt m.endpoints e f }

/-- R347: the router of an endpoint. -/
def routerOf (e : Nat) : Nat × Nat :=
  if e < 448 then (e % 32, e / 32)
  else
    let die := (e - 448) / 2
    (8 * (die % 4) + 3 + (e - 448) % 2, 7 * (die / 4) + 3)

/-- R347: whether a router carries a bridge endpoint. -/
def hasBridge (x y : Nat) : Bool := y % 7 == 3 && (x % 8 == 3 || x % 8 == 4)

/-- R347: the endpoint at a router's local port, or at its bridge port. -/
def endpointAt (x y : Nat) (bridge : Bool) : Nat :=
  if bridge then 448 + 2 * (x / 8 + 4 * (y / 7)) + (x % 8 - 3) else y * 32 + x

/-- The core at a router, where one is (log 15). -/
def coreAt (x y : Nat) : Option Nat := (List.range 288).find? (fun i => coreEndpoint i == y * 32 + x)

/-- R347: the router across a port; row 0 is the northmost (log 42, DESIGN CHOICE). -/
def across (x y : Nat) : Port → Option (Nat × Nat)
  | .north => if y = 0 then none else some (x, y - 1)
  | .south => if y = 13 then none else some (x, y + 1)
  | .west => if x = 0 then none else some (x - 1, y)
  | .east => if x = 31 then none else some (x + 1, y)
  | .here | .bridge => none

/-- The port by which a flit that left by a port arrives. -/
def Port.facing : Port → Port
  | .north => .south
  | .south => .north
  | .east => .west
  | .west => .east
  | p => p

/-- R349: the cc a hop takes: 4 across a die seam. -/
def hopCc (x y x' y' : Nat) : Nat := if x / 8 = x' / 8 ∧ y / 7 = y' / 7 then 1 else 4

/-! ## Routing (R350, R351) -/

/-- The port toward a column, and toward a row. -/
def portX (f : Flit) (x : Nat) : Option Port := if x < f.dx then some .east else if f.dx < x then some .west else none
def portY (f : Flit) (y : Nat) : Option Port := if y < f.dy then some .south else if f.dy < y then some .north else none

/-- R350: the productive port of a flit at a router. -/
def productive (m : Mesh) (f : Flit) (x y : Nat) : Port :=
  let last : Port := if f.br then .bridge else .here
  match m with
  | .request => (portX f x).getD ((portY f y).getD last)
  | .reply => (portY f y).getD ((portX f x).getD last)

/-- R351: the ports a deflected flit tries, in order. -/
def deflections (m : Mesh) (f : Flit) (x y : Nat) (came : Port) : List Port :=
  let other := match m with
    | .request => if (portX f x).isSome then portY f y else none
    | .reply => if (portY f y).isSome then portX f x else none
  other.toList ++ ([Port.north, .east, .south, .west].filter (· != came)) ++
    (if came == .here || came == .bridge then [] else [came])

/-- R348: AGE in this cc, saturating. -/
def Moving.age (f : Moving) (cc : Nat) : Nat := min 4095 (f.flit.age + (cc - f.at_))

/-- R355: whether a flit's AGE is saturated in this cc. Between two routers its AGE is that of its arrival less the way
still to go. -/
def Moving.saturated (f : Moving) (cc : Nat) : Bool := decide (4095 + f.at_ ≤ f.flit.age + cc)

/-- R351: the rank: AGE descending, then SRC, PKT and IDX. -/
def Moving.rank (cc : Nat) (f : Moving) : Nat :=
  (4095 - f.age cc) * 2 ^ 32 + f.flit.src * 2 ^ 16 + f.flit.pkt % 256 * 8 + f.flit.idx

/-- R355: whether a saturated flit remains. -/
def MeshState.anySaturated (m : MeshState) (cc : Nat) : Bool :=
  m.flits.any (fun f => f.saturated cc) || m.offered.any (fun f => f.1.saturated cc)

/-- R355: the cc in which a flit's AGE saturates, or has. -/
def Moving.saturates (f : Moving) : Nat := f.at_ + (4095 - f.flit.age)

/-- R355: a flit leaves the mesh: outside drain, the saturation of its AGE is not forgotten. -/
def MeshState.noteAge (m : MeshState) (cc : Nat) (f : Moving) : MeshState :=
  if !m.drain && f.saturated cc then { m with aged := some (min f.saturates (m.aged.getD f.saturates)) } else m

/-- R355: whether a drain is due of a flit whose AGE was saturated in a cc. -/
def MeshState.drainDue (m : MeshState) (cc : Nat) : Bool := m.anySaturated cc || m.aged.any (fun c => decide (c ≤ cc))

/-- R355: since when no saturated flit remains. -/
def MeshState.tidy (m : MeshState) (cc : Nat) : MeshState :=
  if m.drain then { m with drainClear := if m.anySaturated cc then none else some (m.drainClear.getD cc) } else m

/-- R351: whether an output of a router is free in this cc. -/
def MeshState.portFree (m : MeshState) (cc x y : Nat) (p : Port) : Bool :=
  (match p with
   | .here => true
   | .bridge => hasBridge x y
   | p => (across x y p).isSome) && !(m.takenAt == cc && m.taken.contains (x, y, p))

/-- R351: an output of a router taken in this cc. -/
def MeshState.take (m : MeshState) (cc x y : Nat) (p : Port) : MeshState :=
  { m with taken := (x, y, p) :: (if m.takenAt = cc then m.taken else []), takenAt := cc }

/-- R352: the reassembly slot a flit may use: its packet's, or a free one. -/
def slotOf (m : MeshState) (e : Endpoint) (f : Flit) : Option Nat :=
  match e.reasm.find? (fun r => r.src == f.src && r.pkt == f.pkt) with
  | some r => some r.slot
  | none => (List.range (if m.drain then 64 else 63)).find? (fun i => e.reasm.all (fun r => r.slot != i))

/-- R352: whether a destination accepts a flit. -/
def mayAccept (m : MeshState) (x y : Nat) (bridge : Bool) (f : Flit) : Bool :=
  f.cnt == 0 || (slotOf m (m.endpoint (endpointAt x y bridge)) f).isSome

/-- A flit leaves by a port: it is offered to an endpoint, or crosses to the next router. -/
def MeshState.leave (m : MeshState) (cc x y : Nat) (p : Port) (f : Flit) (came : Port) : MeshState :=
  let m := m.take cc x y p
  match across x y p with
  | none => { m with offered := m.offered ++ [({ flit := f, x, y, came, at_ := cc }, p == .bridge)] }
  | some (x', y') =>
    let n := hopCc x y x' y'
    { m with flits := m.flits ++ [{ flit := { f with age := f.age + n }, x := x', y := y', came := p.facing, at_ := cc + n }] }

/-- R354, R400: a deflection at a router, counted by its endpoints and its core. -/
def countDeflection (d : Dev) (m : Mesh) (x y : Nat) (ctx : Nat) : Dev :=
  let add (e : Endpoint) : Endpoint := { e with deflections := e.deflections + 1 }
  let d := d.updMesh m (fun s =>
    let s := s.updEndpoint (endpointAt x y false) add
    if hasBridge x y then s.updEndpoint (endpointAt x y true) add else s)
  match coreAt x y with
  | some i => count d i ctx 12
  | none => d

/-- R351, R352: one arriving flit sent to an output. -/
def sendFlit (m : Mesh) (x y : Nat) (d : Dev) (f : Moving) : Dev :=
  let s := d.mesh m
  let g := { f.flit with age := f.flit.age + (d.cc - f.at_) }
  let p := productive m f.flit x y
  let ok := s.portFree d.cc x y p && (match p with
    | .here => mayAccept s x y false f.flit
    | .bridge => mayAccept s x y true f.flit
    | _ => true)
  let gone (s : MeshState) : MeshState := { s with flits := s.flits.filter (· != f) }
  if ok then d.updMesh m (fun s => (gone s).leave d.cc x y p g f.came)
  else match (deflections m f.flit x y f.came).find? (s.portFree d.cc x y) with
    | some p => countDeflection (d.updMesh m (fun s => (gone s).leave d.cc x y p g f.came)) m x y f.flit.ctx
    | none => d

/-- The flits that have arrived at a router and not left it. -/
def MeshState.arrived (m : MeshState) (cc x y : Nat) : List Moving :=
  m.flits.filter (fun f => f.x == x && f.y == y && decide (f.at_ ≤ cc))

/-- R350, R351: a router sends every flit that arrived to some output, in rank order. -/
def execFlitRoute (mesh : Mesh) (x y : Nat) (s : State) : Host.Outcome State Fault Refusal :=
  s.run (fun w =>
    let fs := (w.d.mesh mesh).arrived w.d.cc x y
    if w.d.mg.safe then cannot "the meshes are held in reset"
    else if fs.isEmpty then cannot "no flit has arrived"
    else .ok (w.upd (fun d =>
      let d := (sortBy (Moving.rank d.cc) fs).foldl (sendFlit mesh x y) d
      d.updMesh mesh (fun m => m.tidy d.cc))))

/-! ## Injection (R353, R354) -/

/-- R348: the payload bytes of a flit. -/
def payloadBytes : Mesh → Nat
  | .request => 12
  | .reply => 66

/-- R348: a header an endpoint may send. -/
def flitOk (m : Mesh) (f : Flit) : Bool :=
  decide (f.dx < 32) && decide (f.dy < 14) && decide (f.src < 464) && f.age == 0 && decide (f.pkt < 256) &&
  decide (f.cnt < 8) && decide (f.idx ≤ f.cnt) && (!f.br || hasBridge f.dx f.dy) && f.payload.length == payloadBytes m

/-- R353: whether a flit is the next of its packet. -/
def inOrder (e : Endpoint) (f : Flit) : Bool :=
  if f.idx = 0 then f.pkt == e.pkt else e.begun.contains (f.pkt, f.idx)

/-- R353: what an injection leaves at its endpoint. -/
def Endpoint.inject (e : Endpoint) (cc : Nat) (f : Flit) : Endpoint :=
  let rest := e.begun.filter (fun b => b.1 != f.pkt)
  { e with
    undelivered := e.undelivered + 1
    injected := cc :: e.injected.filter (fun c => decide (cc < c + 8))
    pkt := if f.idx = 0 then (e.pkt + 1) % 256 else e.pkt
    begun := if f.idx < f.cnt then (f.pkt, f.idx + 1) :: rest else rest }

/-- R353, R354: an endpoint injects a flit into its free productive output, once the arrived flits have left. -/
def execFlitInject (mesh : Mesh) (flit : Flit) (s : State) : Host.Outcome State Fault Refusal :=
  s.run (fun w =>
    let m := w.d.mesh mesh
    let e := m.endpoint flit.src
    let (x, y) := routerOf flit.src
    let p := productive mesh flit x y
    let room := match p with
      | .here => mayAccept m x y false flit
      | .bridge => mayAccept m x y true flit
      | _ => true
    if w.d.mg.safe then cannot "the meshes are held in reset"
    else if !flitOk mesh flit then cannot "no endpoint sends this header"
    else if !mayInject m e w.d.cc then cannot "injection waits"
    else if !inOrder e flit then cannot "not the next flit of its packet"
    else if !(m.arrived w.d.cc x y).isEmpty || !m.portFree w.d.cc x y p || !room then cannot "the productive output is taken"
    else .ok (w.upd (fun d =>
      let came : Port := if flit.src < 448 then .here else .bridge
      let d := d.updMesh mesh (fun m => (m.updEndpoint flit.src (fun e => e.inject d.cc flit)).leave d.cc x y p flit came)
      match coreAt x y with
      | some i => count d i flit.ctx 13
      | none => d)))

/-- R354: the throttle level after a window. -/
def throttleLevel (n : Nat) : Nat :=
  if n < 32 then 0 else if n < 64 then 1 else if n < 128 then 2 else if n < 192 then 3 else if n < 256 then 4
  else if n < 384 then 5 else if n < 512 then 6 else 7

/-- R354: a window of 256 cc ends at an endpoint. -/
def execThrottleWindow (mesh : Mesh) (endpoint : Nat) (s : State) : Host.Outcome State Fault Refusal :=
  s.run (fun w =>
    if 464 ≤ endpoint then cannot "no such endpoint"
    else if w.d.cc < ((w.d.mesh mesh).endpoint endpoint).windowAt + 256 then cannot "the window goes on"
    else .ok (w.upd (fun d => d.updMesh mesh (fun m => m.updEndpoint endpoint (fun e =>
      { e with level := throttleLevel e.deflections, lastWindow := e.deflections, deflections := 0, windowAt := d.cc })))))

/-! ## Drain (R355) -/

/-- R355: a mesh enters drain. -/
def execDrainEntry (mesh : Mesh) (s : State) : Host.Outcome State Fault Refusal :=
  s.run (fun w =>
    if (w.d.mesh mesh).drain then cannot "the mesh is in drain"
    else if !(w.d.mesh mesh).drainDue w.d.cc then cannot "no flit's AGE has saturated"
    else .ok (w.upd (fun d => (d.updMesh mesh (fun m => { m with drain := true, drainClear := none, aged := none }.tidy d.cc)).updMg
      (fun g => { g with drains := g.drains + 1 }))))

/-- R355: a mesh leaves drain 64 cc after no saturated flit remains. -/
def execDrainExit (mesh : Mesh) (s : State) : Host.Outcome State Fault Refusal :=
  s.run (fun w =>
    let m := w.d.mesh mesh
    match m.drainClear with
    | some c =>
      if !m.drain || m.anySaturated w.d.cc || decide (w.d.cc < c + 64) || !m.offered.isEmpty then cannot "the mesh stays in drain"
      else .ok (w.upd (fun d => d.updMesh mesh (fun m => { m with drain := false, drainClear := none })))
    | none => cannot "the mesh stays in drain")

/-! ## Acceptance and reassembly (R352, R359, R360) -/

/-- R352, R359: a flit put into its packet's slot. -/
def Endpoint.insert (e : Endpoint) (slot cc : Nat) (f : Flit) : Endpoint :=
  if e.reasm.any (fun r => r.slot == slot) then
    { e with reasm := updWhere (fun r => r.slot == slot) (fun r => { r with flits := r.flits ++ [f], last := cc }) e.reasm }
  else
    { e with reasm := { slot, src := f.src, pkt := f.pkt, cnt := f.cnt, ctx := f.ctx, flits := [f], since := cc, last := cc } :: e.reasm }

/-- R361: whether an endpoint discards a flit: a reply that reaches it during a containment reset, or that set out before its end. -/
def discards (mesh : Mesh) (e : Endpoint) (cc : Nat) (f : Moving) : Bool :=
  mesh == .reply && (e.stopped || decide (cc - f.age cc < e.resetAt))

/-- R362, R363: a packet leaves by a bridge endpoint, over a working port of its route. -/
def leavePort (d : Dev) (endpoint : Nat) : Dev :=
  if endpoint < 448 then d
  else match (enum d.ports).find? (fun ip => ip.2.working) with
    | some (i, _) => { d with ports := updAt d.ports i (fun p => { p with sent := p.sent + 1 }) }
    | none => d

/-- R352, R353: an endpoint accepts the flit its port holds; its source counts it as delivered. A flit that finds no slot it may
use goes back to its router, to be deflected in this cc. -/
def execFlitAccept (mesh : Mesh) (x y : Nat) (bridge : Bool) (s : State) : Host.Outcome State Fault Refusal :=
  s.run (fun w =>
    let m := w.d.mesh mesh
    let here (o : Moving × Bool) : Bool := o.1.x == x && o.1.y == y && o.2 == bridge
    match m.offered.find? here with
    | none => cannot "no flit is offered"
    | some (f, _) =>
      let e := endpointAt x y bridge
      let taken (m : MeshState) : MeshState := m.updEndpoint f.flit.src (fun e => { e with undelivered := e.undelivered - 1 })
      .ok (w.upd (fun d => (if f.flit.cnt = 0 && mesh == .request then leavePort d e else d).updMesh mesh (fun m =>
        let m := { m with offered := m.offered.eraseP here }.noteAge d.cc f
        (if f.flit.cnt = 0 || discards mesh (m.endpoint e) d.cc f then taken m
         else match slotOf m (m.endpoint e) f.flit with
          | some i => taken (m.updEndpoint e (fun e => e.insert i w.d.cc f.flit))
          | none => { m with flits := m.flits ++ [f] }).tidy d.cc))))

/-- R359: whether a slot holds every flit of its packet. -/
def Reasm.complete (r : Reasm) : Bool := (List.range (r.cnt + 1)).all (fun i => r.flits.any (fun f => f.idx == i))

/-- A reassembly slot freed. -/
def freeSlot (d : Dev) (mesh : Mesh) (endpoint slot : Nat) : Dev :=
  d.updMesh mesh (fun m => m.updEndpoint endpoint (fun e => { e with reasm := e.reasm.filter (fun r => r.slot != slot) }))

/-- R359: a complete packet for a task of its context that is being saved goes into the task's image. -/
def keepPacket (d : Dev) (endpoint : Nat) (r : Reasm) : Dev :=
  let core (t : Task) : Option Nat := (enum (taskCores d t)).findSome? (fun ic => if coreEndpoint ic.2 == endpoint then some ic.1 else none)
  { d with
    tasks := d.tasks.map (fun t => match core t with
      | some i => if t.ctx == r.ctx && (t.state == .saving || t.state == .settled) then
          { t with packets := t.packets ++ [(i, r.flits)] } else t
      | none => t) }

/-- R359, R362: a complete packet is handed to its unit, or kept for its task, and its slot is free. -/
def execPacketReassembled (mesh : Mesh) (endpoint slot : Nat) (s : State) : Host.Outcome State Fault Refusal :=
  s.run (fun w => match ((w.d.mesh mesh).endpoint endpoint).reasm.find? (fun r => r.slot == slot) with
    | none => cannot "the slot is free"
    | some r => if r.complete then .ok (w.upd (fun d =>
        keepPacket (freeSlot (if mesh == .request then leavePort d endpoint else d) mesh endpoint slot) endpoint r))
      else cannot "flits are missing")

/-- R360: an incomplete slot is freed after 1,048,576 cc, counted, and its context notified. -/
def execReassemblyTimeout (mesh : Mesh) (endpoint slot : Nat) (s : State) : Host.Outcome State Fault Refusal :=
  s.run (fun w => match ((w.d.mesh mesh).endpoint endpoint).reasm.find? (fun r => r.slot == slot) with
    | none => cannot "the slot is free"
    | some r =>
      if r.complete || decide (w.d.cc < r.since + 1048576) then cannot "the packet may still complete"
      else
        let w := w.upd (fun d => (freeSlot d mesh endpoint slot).updMg (fun g => { g with reasm := g.reasm + 1 }))
        .ok (post w (.endpoint endpoint) r.ctx (notif w.d nkReassembly r.ctx endpoint (BitVec.ofNat 64 (2 ^ slot)) 0) .none))

/-! ## Mojor (R362, R363) -/

/-- R362: a frame that fails its CRC is sent again; no program sees it. -/
def execMojorLinkRetry (port : Nat) (s : State) : Host.Outcome State Fault Refusal :=
  s.run (fun w => match w.d.ports[port]? with
    | none => cannot "no such port"
    | some p =>
      if !p.working then cannot "the port has failed"
      else .ok (w.upd (fun d => { d with ports := updAt d.ports port (fun p => { p with retries := p.retries + 1 }) })))

/-- R363: a port fails: its packages are reached by the other ports their routes list, or not at all. -/
def execMojorPortFailure (port : Nat) (s : State) : Host.Outcome State Fault Refusal :=
  s.run (fun w => match w.d.ports[port]? with
    | none => cannot "no such port"
    | some _ => .ok (w.upd (fun d => { d with ports := updAt d.ports port (fun p => { p with working := false }) })))

/-- The core number under which the versions of a source in another package are held. -/
def remoteCore (src : Nat) : Nat := 512 + src

/-- R358, R362: the next request of a source for a sector, counted; none where an earlier one comes first. -/
def remoteTurn (d : Dev) (src num k : Nat) : Option Dev :=
  let s := sectorOf k
  let n := ((d.remote.find? (fun x => x.1 == src && x.2.1 == s)).map (fun x => x.2.2)).getD 0
  if num != n then none
  else some { d with remote := (src, s, n + 1) :: d.remote.filter (fun x => !(x.1 == src && x.2.1 == s)) }

/-- R273, R362: the versions a source in another package holds here are committed: written home in store order, under one serial;
visitor copies go (R246) and home watches match (R431). -/
def remoteCommit (w : Work) (src : Nat) : Work :=
  let mine (v : VerByte) : Bool := v.core == remoteCore src
  let vs := sortBy VerByte.serial (w.d.vers.filter mine)
  let s := w.d.commitSerial + 1
  let lines := vs.map (fun v => lineOf v.addr)
  let w := w.upd (fun d => { d with
      commitSerial := s, vers := d.vers.filter (fun v => !mine v)
      dirs := d.dirs.map (fun (x : Dir) => if lines.contains x.line then { x with presence := 0 } else x) })
  vs.foldl (fun w v => homeWatch (w.home (.plain s 288 v.addr) none v.val) v.ctx v.addr) w

/-- R273, R362: a packet of another package reaches its home: a store stands in its version, a commit is written, an operation
executes at its bank. None where an earlier request of its source for the sector comes first (R358). -/
def inbound (w : Work) (p : Packet) : Option Work := match p with
  | .store src num addr bytes => (remoteTurn w.d src num (kHbm addr)).map (fun d =>
    let (n, w) := { w with d }.free
    let cells := (enum bytes).map (fun ib => (kHbm (addr + ib.1), ib.2))
    w.upd (fun d => storeVersion d (remoteCore src) (n % 65536) (2 ^ 64) 0 d.cc 0 cells))
  | .commit src => some (remoteCommit w src)
  | .bank src num addr op ty b c => (remoteTurn w.d src num (kAbacus addr)).map (fun d =>
    let (n, w) := { w with d }.free
    let keys := (List.range (atomBytes op ty)).map (fun i => kAbacus (addr + i))
    keys.foldl (fun w k => homeWatch w (n % 65536) k) (atomAt w .none op ty keys b c).2)

/-- R362, R435, R438: a packet arrives over a Mojor port. -/
def execMojorInboundPacket (packet : Packet) (s : State) : Host.Outcome State Fault Refusal :=
  s.run (fun w =>
    if w.d.mg.safe then cannot "the memory is held in reset"
    else match inputGate w (.inbound packet) with
      | none => cannot "the log has another input first"
      | some w => match inbound w packet with
        | some w => .ok w
        | none => cannot "an earlier request of the source comes first")

end Sys2Proof.Machine
end

