-- ==== Sys2Proof/Machine/Debug.lean ====
section
/-! DEFINITION. Debug state written by the host (spec/17): edits of a halted wave (R432) and the debug right (R433). -/

namespace Sys2Proof.Machine

/-! ## Edits (R432) -/

/-- R427, R432: whether an item of a halted wave is live: at the stop site where the split of its lane stopped. `emask` and the
sticky flags always are. -/
def itemLive (v : Wave) (item : DebugItem) : Bool :=
  let at_ (lane : Nat) (f : StopSite → Bool) : Bool := v.haltSites.any (fun x => inMask x.1 lane && f x.2)
  match item with
  | .queue lane age => at_ lane (fun s => decide (1 ≤ age) && s.q.getLsbD (age - 1))
  | .frame lane slot => at_ lane (fun s => s.f.getLsbD slot)
  | .pred lane p => at_ lane (fun s => s.p.getLsbD p)
  | .emask _ | .fpFlags | .intFlag => true

/-- R432: whether an item is live and can take a value. DESIGN CHOICE (log 93): no write gives an entry or slot the tag EMPTY, of
which R95 and R432 say nothing. -/
def editOk (v : Wave) (item : DebugItem) (value : Word) (tag : Ty) : Bool := itemLive v item && (match item with
  | .queue _ _ | .frame _ _ => tag != .empty
  | .pred _ _ | .intFlag => decide (value.toNat < 2)
  | .emask split => match v.split split with
    | some p => bits value 32 32 == 0 && value.setWidth 32 &&& ~~~p.home == 0
    | none => false
  | .fpFlags => decide (value.toNat < 32))

/-- R432: what the host reads of a halted wave: the value and tag of a live item; none of what it may not read. A pending entry
reads as it stands. -/
def debugRead (d : Dev) (v : Wave) (item : DebugItem) : Option (Word × Ty) :=
  let entry (e : Option Entry) : Option (Word × Ty) := e.map (fun e => (e.val, e.tag))
  let bit (b : Bool) : Word × Ty := (if b then 1 else 0, .n32)
  if !((d.ctx v.ctx).map Ctx.debug).getD false || !v.halted || !residentWave d v || !itemLive v item then none
  else match item with
  | .queue lane age => entry (v.lane lane).q[age - 1]?
  | .frame lane slot => entry (v.lane lane).f[slot]?
  | .pred lane p => ((v.lane lane).p[p]?).map (fun x => bit x.val)
  | .emask n => (v.split n).map (fun p => (p.emask.setWidth 64, .n32))
  | .fpFlags => some (v.fpFlags.setWidth 64, .n32)
  | .intFlag => some (bit v.intFlag)

/-- R432: a written entry: the value stands, and what an access still brings is discarded (R95). -/
def editEntry (value : Word) (tag : Ty) (_ : Entry) : Entry := { val := fit tag value, tag, pend := .clear }

/-- R432: an item of a wave written. -/
def editItem (v : Wave) (item : DebugItem) (value : Word) (tag : Ty) : Wave :=
  let lane (l : Nat) (f : Lane → Lane) : Wave := { v with lanes := updAt v.lanes l f }
  match item with
  | .queue l age => lane l (fun x => { x with q := updAt x.q (age - 1) (editEntry value tag) })
  | .frame l slot => lane l (fun x => { x with f := updAt x.f slot (editEntry value tag) })
  | .pred l p => lane l (fun x => { x with p := updAt x.p p (fun _ => { val := value.getLsbD 0, ready := 0 }) })
  | .emask n => v.updSplit n (fun p => { p with emask := value.setWidth 32 })
  | .fpFlags => { v with fpFlags := value.setWidth 5 }
  | .intFlag => { v with intFlag := value.getLsbD 0 }

/-- R432: the host writes an item of a halted wave of a context whose debug right it holds; the wave is marked edited. -/
def execDebuggerWrite (wave : Nat) (item : DebugItem) (value : Word) (tag : Ty) (s : State) : Host.Outcome State Fault Refusal :=
  s.run (fun w => match w.d.wave wave with
    | none => cannot "no such wave"
    | some v =>
      if !(((w.d.ctx v.ctx).map Ctx.debug).getD false) then cannot "the debug right is not held"
      else if !v.halted || !residentWave w.d v then cannot "the wave is not halted"
      else if !editOk v item value tag then cannot "no such item or value"
      else .ok (w.upd (fun d => d.updWave wave (fun v => { editItem v item value tag with edited := true }))))

/-! ## The debug right (R433) -/

/-- R433: the waves of a context that are halted for a debug reason resume. -/
def resumeDebug (d : Dev) (ctx : Nat) : Dev :=
  { d with waves := updWhere (fun v => v.ctx == ctx && v.halted && v.debugHalt) resumeWave d.waves }

/-- R433: revocation: the breakpoints and the watchpoints of the context are invalid. -/
def clearDebug (d : Dev) (ctx : Nat) : Dev :=
  let ours (e : Word × Word) : Bool := bits e.2 48 16 == ctx % 65536
  let clear (c : Core) : Core := { c with watch := updWhere ours (fun _ => (0, 0)) c.watch }
  { d.updCtx ctx (fun c => { c with debug := false, brk := List.replicate 16 0, hwatch := List.replicate 8 (0, 0) }) with
    cores := d.cores.map clear }

/-- R433, R448: CX_DEBUG: the debug right granted, or revoked. -/
def debugWrite (w : Work) (block : Nat) (value : Word) : Except Refusal Work :=
  ctxWrite w block 0x070 value true (bits value 1 63 == 0) (fun w c =>
    if value.getLsbD 0 then w.upd (fun d => d.updCtx c.id (fun c => { c with debug := true }))
    else w.upd (fun d => resumeDebug (clearDebug d c.id) c.id))

/-- R433: the debug right granted, or revoked. -/
def execCxDebugWrite (block : Nat) (value : Word) (s : State) : Host.Outcome State Fault Refusal := s.run (fun w => debugWrite w block value)

end Sys2Proof.Machine
end

