-- ==== Sys2Proof/Machine/Objects.lean ====
section
/-! DEFINITION. Code objects (spec/17): what a loader takes (R424), the form that runs (R425), and the live maps, which make stop
sites (R426, R427). -/

namespace Sys2Proof.Machine

/-! ## Objects (R424, R425) -/

/-- R424: a section of an object, as the section table names it. -/
structure ObjectSection where
  kind : Nat
  key : Nat
deriving DecidableEq, Repr

/-- R424: the revision keys of the native images of an object. -/
def nativeKeys (o : List ObjectSection) : List Nat := (o.filter (fun x => x.kind == 1)).map ObjectSection.key

/-- R424: an object a loader takes: every kind is known, and no two native images have one key. -/
def loaderTakes (o : List ObjectSection) : Prop := (∀ x ∈ o, 1 ≤ x.kind ∧ x.kind ≤ 7) ∧ (nativeKeys o).Nodup

/-- R425: the forms of a kernel. -/
inductive CodeForm where
  | native (key : Nat)
  | tile
  | loop
  | scalar
deriving DecidableEq, Repr

/-- R424: the revision key of this part: Valarn 2, minor 0. -/
def revisionKey : Nat := 0x0200

/-- R425: whether an image of a key runs on the part: of its major, and of no later minor. -/
def runsNative (key : Nat) : Bool := key / 256 == revisionKey / 256 && decide (key % 256 ≤ revisionKey % 256)

/-- R425: the form of an object that runs: the latest native image the part runs, or the highest portable level; none is refused. -/
def formRun (o : List ObjectSection) : Option CodeForm :=
  let holds (k : Nat) : Bool := o.any (fun x => x.kind == k)
  match ((nativeKeys o).filter runsNative).max? with
  | some k => some (.native k)
  | none => if holds 2 then some .tile else if holds 3 then some .loop else if holds 4 then some .scalar else none

/-- R424: the sections of a native image. -/
inductive NativeSection where
  | code | rodata | data
deriving DecidableEq, Repr

/-- R424: how a section is mapped: X, RD and W. -/
def NativeSection.maps : NativeSection → Bool × Bool × Bool
  | .code => (true, true, false)
  | .rodata => (false, true, false)
  | .data => (false, true, true)

/-- R424: the alignment of a section: at least 4 KiB, and that of each `.align` in it. -/
def sectionAlign (aligns : List Nat) : Nat := aligns.foldl max 4096

/-! ## Live maps (R426, R427) -/

/-- R427: a live-map record. -/
structure LiveRecord where
  ordinal : Nat
  offset : Nat
  q : BitVec 16
  f : BitVec 32
  p : BitVec 7
  marks : Nat
deriving DecidableEq, Repr

/-- R427: the record that 16 bytes hold. -/
def liveRecord (bs : List Byte) : LiveRecord :=
  let part (i n : Nat) : Nat := ofBytes ((bs.drop i).take n)
  { ordinal := part 0 4, offset := part 4 4, q := BitVec.ofNat 16 (part 8 2), f := BitVec.ofNat 32 (part 10 4),
    p := BitVec.ofNat 7 (part 14 1), marks := part 15 1 }

/-- R427: the records of a live map. -/
def liveRecords (bs : List Byte) : List LiveRecord :=
  (List.range (bs.length / 16)).map (fun i => liveRecord (bs.drop (16 * i)))

/-- R426 to R428: the stop sites of an image: its safe points with a record. -/
def stopSites (m : CodeImage) : List StopSite :=
  (liveRecords m.live).map (fun r => {
    pc := m.base + BitVec.ofNat 57 r.offset, kernel := m.kernel, ordinal := r.ordinal,
    q := r.q, f := r.f, p := r.p, marks := r.marks })

end Sys2Proof.Machine
end

