-- ==== Sys2Proof/Machine/Management.lean ====
section
/-! DEFINITION. Power-up, firmware, mapping out, power and the MMIO registers (spec/18, R400, R21), and what the host does
to memory and to contexts (R402, R435, R448). -/

namespace Sys2Proof.Machine

/-! ## Power-up (R437, R438) -/

/-- R44: the logical position of entry `p` of a die's place map. -/
def positionOf (die p : Nat) : Nat := 12 * (3 * (die / 4) + p / 3) + 3 * (die % 4) + p % 3

/-- R44: the die and the entry of a logical position. -/
def entryOf (pos : Nat) : Nat × Nat := (dieOf pos, pos % 12 % 3 + 3 * (pos / 12 % 3))

/-- R44, R437: the place map of a die whose physical quads `bad` failed: the first takes the spare, quad 9. -/
def bootMap (bad : List Nat) : List Nat :=
  let first := (List.range 9).find? bad.contains
  (List.range 9).map (fun p =>
    if !bad.contains p then 16 + p else if first = some p ∧ !bad.contains 9 then 16 + 9 else absentPlace)

/-- The physical quads of a die that failed. -/
def failedOn (r : SelfTest) (die : Nat) : List Nat := (r.failedQuads.filter (fun q => q.1 == die)).map Prod.snd

/-- R439: the units the self-test leaves out. A failed spare is named by position 72 + die. -/
def bootOut (r : SelfTest) : List Part :=
  (List.range 8).flatMap (fun die => ((List.range 10).filter (failedOn r die).contains).map (fun p =>
    Part.quad (if p = 9 then 72 + die else positionOf die p))) ++
  (r.failedSlices.map (fun s => Part.slice s.1 s.2))

/-- R438: the operating minimum. -/
def minimumMet (r : SelfTest) : Bool :=
  (List.range 8).all (fun die => decide (8 ≤ ((bootMap (failedOn r die)).filter presentEntry).length) &&
    decide ((r.failedSlices.filter (fun s => s.1 == die)).length ≤ 1)) &&
  r.failedStacks == 0 && r.failedBanks == 0

/-- R437: the package at power-good. What stays: the form of the part, its keys and flash, and the model's own fields. -/
def unbooted (d : Dev) : Dev :=
  { Dev.reset with
    mg := { Mgmt.reset with c8m := d.mg.c8m, keys := d.mg.keys, flash := d.mg.flash, flashKey := d.mg.flashKey }
    agenda := d.agenda, freeCtr := d.freeCtr, uid := d.uid }

/-- R442: the key slots whose key is enrolled and not revoked. -/
def liveKeys (ks : List KeySlot) : List (Nat × Nat) :=
  (enum ks).filterMap (fun ik => if ik.2.revoked then none else ik.2.key.map (fun k => (ik.1, k)))

/-- R442: the key that signed an image, among those enrolled and not revoked. -/
def signerOf (ks : List KeySlot) (image : Nat) : Option Nat :=
  ((liveKeys ks).find? (fun ik => Config.verifies ik.2 image)).map Prod.snd

/-- R442: the slot whose key signed the image in flash, where the boot ROM accepts it. -/
def bootSlot (m : Mgmt) : Option Nat := ((liveKeys m.keys).find? (fun ik => ik.2 == m.flashKey)).map Prod.fst

/-- R26, R437 steps 2 to 7, R442, R443: the boot of a package at power-good: of the image in flash, where an enrolled key signed it. -/
def boot (d : Dev) (r : SelfTest) : Dev := match bootSlot d.mg with
  | none => d.updMg (fun m => { m with safe := true, fwrec := true })
  | some slot =>
    let d := d.updMg (fun m => { m with running := m.flash, signer := slot, mappedOut := bootOut r })
    let d := { d with placeMap := (List.range 8).map (fun die => bootMap (failedOn r die)) }
    d.updMg (fun m => if minimumMet r then { m with ready := true } else { m with safe := true })

/-- R9: the undefined contents of the package's memories after power-up are zero, so none of an earlier context's bytes is left
(log 45). Host and remote memory keep theirs. -/
def wipe (w : Work) : Work :=
  (w.m.cells.filter (fun c => keyRegion c.1 != 1 && keyRegion c.1 != 2)).foldl (fun w c => w.put c.1 0) w

/-- R437, R438: the device boots. -/
def execPowerGood (report : SelfTest) (s : State) : Host.Outcome State Fault Refusal :=
  s.run (fun w =>
    if w.d.powered && (w.d.mg.ready || w.d.mg.safe) then cannot "the device has booted"
    else .ok ((wipe w).upd (fun d => boot (unbooted d) report)))

/-- R437: loss of supply. -/
def execPowerLoss (s : State) : Host.Outcome State Fault Refusal :=
  s.run (fun w => .ok (w.upd (fun d => { d with powered := false })))

/-! ## Firmware and identity (R442 to R444) -/

/-- R443: the image in the load window. -/
def loadedImage (w : Work) : Nat := Config.digest (w.bytes (kLoad 0) 16777216)

/-- R443: FW_CTL: the loaded image is checked, and written to flash where it verifies. The device restarts, unless contexts are
live. -/
def fwCtlWrite (w : Work) (value : Word) : Work :=
  if bits value 1 63 != 0 then w.upd (fun d => reject d 0x100)
  else if !value.getLsbD 0 then w
  else match signerOf w.d.mg.keys (loadedImage w) with
    | none => w
    | some key =>
      let w' := w.upd (fun d => d.updMg (fun m => { m with flash := loadedImage w, flashKey := key }))
      if w.d.ctxs.isEmpty then w'.upd unbooted else w'

/-- R443: the host commits a new firmware image. -/
def execFwCtlCommit (value : Word) (s : State) : Host.Outcome State Fault Refusal := s.run (fun w => .ok (fwCtlWrite w value))

/-- R446: whether a die has a unit mapped out. -/
def dieOut (d : Dev) (die : Nat) : Bool := d.mg.mappedOut.any (fun x => match x with
  | .quad pos => if 72 ≤ pos then pos == 72 + die else dieOf pos == die
  | .slice n _ | .stack n _ | .bank n _ => n == die)

/-- A word whose bit `i` is `f i`. -/
def wordOf (f : Nat → Bool) : Word := BitVec.ofNat 64 ((List.range 64).foldl (fun n i => if f i then n + 2 ^ i else n) 0)

/-- R446: MG_STATUS. -/
def statusReg (d : Dev) : Word := wordOf (fun i => match i with
  | 63 => d.mg.ready
  | 62 => d.mg.safe
  | 61 => d.mg.fwrec
  | 60 => d.mg.replace
  | 59 => d.mg.recFull
  | i => decide (i < 8) && dieOut d i)

/-- R446: whether the mailbox holds a command not yet carried out. -/
def mailHolds (d : Dev) (code : Nat) : Bool := d.mg.mbCmd.getLsbD 63 && bits d.mg.mbCmd 0 16 == code

/-- R446: a command is carried out: its reply stands in the data dwords, and the mailbox is free. -/
def mailReply (d : Dev) (reply : Nat → Word) : Dev :=
  { d.updMg (fun m => { m with
      mbCmd := m.mbCmd &&& ~~~(BitVec.ofNat 64 (2 ^ 63))
      mbData := (List.range 15).map reply }) with freeCtr := d.freeCtr + 1 }

/-- R442 to R444: a mailbox command. -/
def mailCommand (s : State) (code : Nat) (f : Dev → Dev) : Host.Outcome State Fault Refusal :=
  s.run (fun w => if mailHolds w.d code then .ok (w.upd (fun d => f d)) else cannot "the mailbox holds no such command")

/-- R444: what an attestation reports: the nonce, the digest of the running image in four dwords, the index of the key that
signed it, the revision key, the present map, and MG_STATUS. -/
def attestation (d : Dev) : List Word :=
  d.mg.mbData.take 4 ++ (List.range 4).map (fun i => BitVec.ofNat 64 (d.mg.running / 2 ^ (64 * i))) ++
  [BitVec.ofNat 64 d.mg.signer, 0x0200, wordOf (positionPresent d), wordOf (fun i => decide (i < 8) && positionPresent d (64 + i)),
   statusReg d]

/-- R442, R446: a command whose reply has no given layout. -/
def plainReply (d : Dev) : Dev := mailReply d (Config.mailboxReply d.freeCtr)

/-- R444: ATTEST. -/
def attest (d : Dev) : Dev := mailReply d (Config.signedReport d.freeCtr (attestation d))

/-- R442: whether a slot holds an enrolled key that is not revoked. -/
def keyLive (d : Dev) (slot : Nat) : Bool := (liveKeys d.mg.keys).any (fun ik => ik.1 == slot)

/-- R442: a key enrolled in a slot that has held none, by a command an enrolled key signed. -/
def enrollKey (d : Dev) (slot key signer : Nat) : Dev :=
  if !keyLive d signer then d
  else d.updMg (fun m => { m with keys := updAt m.keys slot (fun k => if k.key.isSome then k else { k with key := some key }) })

/-- R442: a key revoked, by a command an enrolled key signed. -/
def revokeKey (d : Dev) (slot signer : Nat) : Dev :=
  if !keyLive d signer then d else d.updMg (fun m => { m with keys := updAt m.keys slot (fun k => { k with revoked := true }) })

def execAttest (s : State) : Host.Outcome State Fault Refusal := mailCommand s 1 attest
def execEnroll (slot digest signer : Nat) (s : State) : Host.Outcome State Fault Refusal :=
  mailCommand s 2 (fun d => plainReply (enrollKey d slot digest signer))
def execRevoke (slot signer : Nat) (s : State) : Host.Outcome State Fault Refusal :=
  mailCommand s 3 (fun d => plainReply (revokeKey d slot signer))
def execQuery (s : State) : Host.Outcome State Fault Refusal := mailCommand s 4 plainReply

/-! ## Mapping out (R439, R440) -/

/-- R21: the tasks that hold a unit: a slice is held by the tasks that cover a quad of its die (log 64, DESIGN CHOICE). -/
def unitTasks (d : Dev) : Part → List Task
  | .quad pos => d.tasks.filter (fun t => t.covers d pos)
  | .slice die _ => d.tasks.filter (fun t => (List.range 9).any (fun p => t.covers d (positionOf die p)))
  | .stack _ _ | .bank _ _ => []

/-- R44, R439: the place map with a quad mapped out: the die's spare takes its position, or it is absent. -/
def mapOutQuad (d : Dev) (pos : Nat) : Dev :=
  let (die, p) := entryOf pos
  let es := d.placeMap.getD die []
  let ours (x : Part) : Bool := match x with
    | .quad q => if 72 ≤ q then q == 72 + die else dieOf q == die
    | _ => false
  let spare := if d.mg.mappedOut.any ours then none
    else (List.range 10).find? (fun i => !es.any (fun e => presentEntry e && e % 16 == i))
  let es := updAt es p (fun _ => match spare with
    | some i => 16 + i
    | none => absentPlace)
  { d.updMg (fun m => { m with errs := m.errs.filter (fun e => e.part != .quad pos) }) with
    placeMap := updAt d.placeMap die (fun _ => es)
    quads := updAt d.quads pos (fun _ => Quad.reset)
    cores := (List.range 4).foldl (fun cs c => updAt cs (4 * pos + c) (fun _ => Core.reset)) d.cores }

/-- R272: whether a unit still holds bytes of versions or a commit. -/
def unitCommits (d : Dev) : Part → Bool
  | .quad pos => (List.range 4).any (fun c => (d.core (4 * pos + c)).boundary.isSome || d.vers.any (fun v => v.core == 4 * pos + c))
  | _ => false

/-- R21, R439: a failing unit is mapped out at its context boundary; its resident tasks are pre-empted first. -/
def execMapOut (part : Part) (s : State) : Host.Outcome State Fault Refusal :=
  s.run (fun w =>
    let ts := unitTasks w.d part
    if !w.d.mg.failing.contains part then cannot "the unit is not failing"
    else if ts.any (fun t => t.state == .resident) then
      .ok (w.upd (fun d => (ts.map Task.uid).foldl choose d))
    else if !ts.isEmpty || unitCommits w.d part then cannot "the unit is in use"
    else .ok (w.upd (fun d =>
      let d := match part with
        | .quad pos => mapOutQuad d pos
        | _ => d
      d.updMg (fun m => { m with failing := m.failing.filter (· != part), mappedOut := m.mappedOut ++ [part] }))))

/-- R439: an idle self-test of a quad. -/
def execIdleSelfTest (quad : Nat) (pass : Bool) (s : State) : Host.Outcome State Fault Refusal :=
  s.run (fun w =>
    if !decide (quad < 72) || !positionPresent w.d quad then cannot "the position is absent"
    else if !(unitTasks w.d (.quad quad)).isEmpty then cannot "the quad is in use"
    else .ok (w.upd (fun d => if pass then d else d.updMg (fun m => markFailing m (.quad quad)))))

/-- R361, R440: the endpoints of a quad's cores, on both meshes. -/
def quadEndpoints (d : Dev) (pos : Nat) (f : Endpoint → Endpoint) : Dev :=
  [Mesh.request, .reply].foldl (fun d m => d.updMesh m (fun s =>
    (List.range 4).foldl (fun s c => s.updEndpoint (coreEndpoint (4 * pos + c)) f) s)) d

/-- R361: the requests the waves of a quad had issued are abandoned. -/
def dropRequests (d : Dev) (pos : Nat) : Dev :=
  let mine (u : Nat) : Bool := match d.wave u with
    | some v => d.posOf v == pos && (match d.task v.task with
      | some t => t.holds
      | none => false)
    | none => false
  { d with
    bankReqs := d.bankReqs.filter (fun r => !mine r.wave), groupReqs := d.groupReqs.filter (fun r => !mine r.wave)
    msgReqs := d.msgReqs.filter (fun r => !mine r.wave), launchReqs := d.launchReqs.filter (fun r => !mine r.wave) }

/-- R361, R440: a containment reset of a quad: its endpoints stop, its tasks end with RESET. -/
def execQuadContainmentReset (quad : Nat) (s : State) : Host.Outcome State Fault Refusal :=
  s.run (fun w =>
    if !decide (quad < 72) || !positionPresent w.d quad then cannot "the position is absent"
    else if (w.d.quad quad).resetting then cannot "the quad is being reset"
    else .ok (w.upd (fun d =>
      let ts := unitTasks d (.quad quad)
      let d := dropRequests (quadEndpoints d quad (fun e => { e with
        stopped := true, begun := [], deflections := 0, lastWindow := 0, level := 0, windowAt := d.cc })) quad
      let d := ts.foldl (fun d t => taskTrap d t.uid tReset 0) d
      d.updQuad quad (fun q => { q with resetting := true }))))

/-- R361, R440: the end of a containment reset: the endpoints have their full allowance, and the quad will be mapped out. -/
def execQuadResetEnd (quad : Nat) (s : State) : Host.Outcome State Fault Refusal :=
  s.run (fun w =>
    if !(w.d.quad quad).resetting then cannot "the quad is not being reset"
    else .ok (w.upd (fun d =>
      let d := quadEndpoints d quad (fun e => { e with stopped := false, undelivered := 0, resetAt := d.cc })
      (d.updQuad quad (fun q => { q with resetting := false })).updMg (fun m => markFailing m (.quad quad)))))

/-! ## Context boundaries (R21) -/

/-- R21: whether a save or a restore is in progress anywhere. -/
def moving (d : Dev) : Bool := d.tasks.any (fun t => match t.state with
  | .settled | .restoring => true
  | .saving => d.waves.any (fun v => v.task == t.uid && v.stopped)
  | _ => false)

/-- R21, R244: the new Toybox size takes effect. -/
def toyboxChange (d : Dev) : Option Dev := match d.toyboxPending with
  | some n => if moving d || decide (2097152 * n < toyboxUsed d) then none else some { d with toybox := n, toyboxPending := none }
  | none => none

/-- R377, R447: the entries of a die's place map that a pending write changes, and their new values. -/
def changedPlaces (d : Dev) (die : Nat) (value : Word) : List (Nat × Nat) :=
  ((List.range 9).map (fun p => (p, bits value (5 * p) 5))).filter (fun pe => (d.placeMap.getD die []).getD pe.1 0 != pe.2)

/-- R21: one entry changed at the boundary of its quad, or its tasks pre-empted. -/
def placeChange (d : Dev) (die : Nat) (pe : Nat × Nat) : Dev :=
  let ts := unitTasks d (.quad (positionOf die pe.1))
  if ts.isEmpty then { d with placeMap := updAt d.placeMap die (fun es => updAt es pe.1 (fun _ => pe.2)) }
  else (ts.map Task.uid).foldl choose d

/-- R21: whether a pending entry can go on: its quad is free, or has a task to pre-empt. -/
def placeReady (d : Dev) (die : Nat) (pe : Nat × Nat) : Bool :=
  let ts := unitTasks d (.quad (positionOf die pe.1))
  ts.isEmpty || ts.any (fun t => t.state == .resident)

/-- R21, R377: the pending entries of one die that can go on. -/
def placesChange (d : Dev) (x : Nat × Word) : Option Dev :=
  let ready := (changedPlaces d x.1 x.2).filter (placeReady d x.1)
  if (changedPlaces d x.1 x.2).isEmpty then some { d with placePending := d.placePending.filter (· != x) }
  else if ready.isEmpty then none
  else some (ready.foldl (fun d pe => placeChange d x.1 pe) d)

/-- R21: a pending change takes effect at its context boundary. -/
def execContextBoundaryChange (s : State) : Host.Outcome State Fault Refusal :=
  s.run (fun w => match toyboxChange w.d with
    | some d => .ok { w with d }
    | none => match w.d.placePending.findSome? (placesChange w.d) with
      | some d => .ok { w with d }
      | none => cannot "no change is at its boundary")

/-! ## Power and cooling (R441) -/

/-- R441: the limit in mW. -/
def powerLimit (c8m : Bool) : Nat := if c8m then 2600000 else 2400000

/-- R441: m of issue pacing: from 4 down to 1 as the excess over the limit grows (log 87). -/
def pacingOf (excess : Nat) : Nat :=
  let (a, b, c) := (Config.pacingStep 0, Config.pacingStep 1, Config.pacingStep 2)
  if excess ≤ a then 4 else if excess ≤ a + b then 3 else if excess ≤ a + b + c then 2 else 1

/-- R441: the governor's measurement of a window of 2^14 cc. -/
def execGovernorMeasurement (milliwatts : Nat) (s : State) : Host.Outcome State Fault Refusal :=
  s.run (fun w =>
    if w.d.cc < w.d.gov.window + 16384 then cannot "the window goes on"
    else
      let limit := powerLimit w.d.mg.c8m
      .ok (w.upd (fun d => { d.updMg (fun m => { m with power := milliwatts }) with
        gov := { d.gov with
          window := d.cc
          held := decide (limit * 95 < milliwatts * 100)
          pacing := if limit < milliwatts then pacingOf (milliwatts - limit) else 0 } })))

/-- R441: the hottest junction: grants stop at 105 °C until it falls to 100 °C. -/
def execJunctionTemperatureLimit (sixteenths : Nat) (s : State) : Host.Outcome State Fault Refusal :=
  s.run (fun w => .ok (w.upd (fun d => { d.updMg (fun m => { m with temp := sixteenths }) with
    gov := { d.gov with hot := if 105 * 16 ≤ sixteenths then true else if sixteenths ≤ 100 * 16 then false else d.gov.hot } })))

/-! ## Device configuration (R447) -/

/-- R244, R447: DC_TOYBOX. -/
def toyboxWrite (w : Work) (value : Word) : Work :=
  regWrite w 0x00020000 (decide (value.toNat ≤ 128)) (fun w => w.upd (fun d => { d with toyboxPending := some value.toNat }))

def execDcToyboxWrite (value : Word) (s : State) : Host.Outcome State Fault Refusal := s.run (fun w => .ok (toyboxWrite w value))

/-- R281, R447: DC_HBPER. -/
def hbperWrite (w : Work) (value : Word) : Work :=
  regWrite w 0x00020008 (decide (8 ≤ value.toNat) && decide (value.toNat ≤ 16)) (fun w =>
    w.upd (fun d => { d with hbPending := some value.toNat }))

def execDcHbperWrite (value : Word) (s : State) : Host.Outcome State Fault Refusal := s.run (fun w => .ok (hbperWrite w value))

/-- R281, R447: DC_DOMAIN. The phase of the domain's ticks is free (log 5). -/
def domainWrite (w : Work) (value : Word) : Work :=
  regWrite w 0x00020010 (bits value 9 54 == 0) (fun w =>
    let on := value.getLsbD 63
    let (n, w) := w.free
    w.upd (fun d =>
      let runs := on && d.hb.domRunning
      { d with
          hb := { d.hb with
          pkgNumber := bits value 0 9, domRunning := on, domCount := if runs then d.hb.domCount else 0
          domNext := if runs then d.hb.domNext else d.cc + 1 + n % (16 * 2 ^ d.hb.logP) } }))

def execDcDomainWrite (value : Word) (s : State) : Host.Outcome State Fault Refusal := s.run (fun w => .ok (domainWrite w value))

/-- R377, R447: DC_PLACEMAP, the entries of one die. -/
def placemapWrite (w : Work) (die : Nat) (value : Word) : Work :=
  let ok := bits value 45 19 == 0 && (List.range 9).all (fun p => decide (bits value (5 * p) 4 ≤ 9))
  regWrite w (0x00020020 + 8 * die) ok (fun w =>
    w.upd (fun d => { d with placePending := d.placePending.filter (fun x => x.1 != die) ++ [(die, value)] }))

def execDcPlacemapWrite (die : Nat) (value : Word) (s : State) : Host.Outcome State Fault Refusal :=
  s.run (fun w => if 8 ≤ die then cannot "no such register" else .ok (placemapWrite w die value))

/-! ## Context and core registers with a row of their own (R400, R448, R449) -/

/-- R448: a launch's code base and its entry PCs moved. -/
def moveLaunch (l : Launch) (base : VAddr) : Launch :=
  let k := base - l.codeBase
  { l with codeBase := base, moved := l.moved + k, pcV := l.pcV + k, pcM := l.pcM + k, pcC := l.pcC + k }

/-- R448: CX_RELOCBASE. -/
def relocbaseWrite (w : Work) (block : Nat) (value : Word) : Except Refusal Work :=
  let still (c : Ctx) : Bool := (w.d.launch c.id c.relocId).isSome && !w.d.tasks.any (fun t =>
    t.ctx == c.id && t.launchId == c.relocId && t.holds)
  let ok := bits value 57 7 == 0 && bits value 0 3 == 0 && ((blockCtx w.d block).map still).getD false
  ctxWrite w block 0x090 value true ok (fun w c =>
    w.upd (fun d => d.updLaunch c.id c.relocId (fun l => moveLaunch l (value.setWidth 57))))

def execCxRelocbaseWrite (block : Nat) (value : Word) (s : State) : Host.Outcome State Fault Refusal :=
  s.run (fun w => relocbaseWrite w block value)

/-- R449: CR_HCLR. -/
def hclrWrite (w : Work) (core : Nat) (value : Word) : Work :=
  regWrite w (coreOffset core + 0x40) (bits value 8 56 == 0) (fun w => w.upd (fun d => d.updCore core (fun c =>
    { c with hist := (enum c.hist).map (fun ih => if value.getLsbD ih.1 then List.replicate 20 0 else ih.2) })))

def execCrHclrWrite (core : Nat) (value : Word) (s : State) : Host.Outcome State Fault Refusal :=
  s.run (fun w => if 288 ≤ core then cannot "no such core" else .ok (hclrWrite w core value))

/-- R400, R449: CR_PMCCFG: the configuration is in force from the next cc. -/
def pmccfgWrite (w : Work) (core index : Nat) (value : Word) : Work :=
  let ok := bits value 32 32 == 0 && bits value 16 13 == 0 && decide (bits value 0 8 ≤ 16)
  regWrite w (coreOffset core + 4 * index) ok (fun w => w.upd (fun d => d.updCore core (fun c =>
    { c with pmcs := updAt c.pmcs index (fun p => { p with next := some (value.setWidth 32) }) })))

def execCrPmccfgWrite (core index : Nat) (value : Word) (s : State) : Host.Outcome State Fault Refusal :=
  s.run (fun w => if 288 ≤ core ∨ 16 ≤ index then cannot "no such counter" else .ok (pmccfgWrite w core index value))

/-- R446: MG_REJECT is read, and clears. -/
def execMgRejectRead (s : State) : Host.Outcome State Fault Refusal :=
  s.run (fun w => .ok (w.upd (fun d => d.updMg (fun m => { m with reject := none }))))

/-! ## The other registers (R10, R383, R445, R446, R448, R449) -/

/-- R446: a write in the identity and management region. It decodes in the safe state too. -/
def mgWrite (w : Work) (o : Nat) (v : Word) : Work :=
  let set (ok : Bool) (f : Mgmt → Mgmt) : Work := w.upd (fun d => if ok then d.updMg f else reject d o)
  if o = 0x058 then
    set (decide (v.toNat < 3)) (fun m => match v.toNat with
      | 1 => if m.recMode == .record then m else { m with recMode := .record, recLog := [], recFull := false }
      | 2 => { m with recMode := .replay }
      | _ => { m with recMode := .off })
  else if o = 0x060 then set true (fun m => { m with recBase := v })
  else if o = 0x080 then
    set (bits v 16 47 == 0 && decide (1 ≤ bits v 0 16) && decide (bits v 0 16 ≤ 4) && !w.d.mg.mbCmd.getLsbD 63)
      (fun m => { m with mbCmd := v ||| BitVec.ofNat 64 (2 ^ 63) })
  else if 0x088 ≤ o ∧ o < 0x100 ∧ o % 8 = 0 then set true (fun m => { m with mbData := updAt m.mbData ((o - 0x088) / 8) (fun _ => v) })
  else set false id

/-- R383: whether Q0 and Q1 may hold these words. -/
def queueOk (d : Dev) (q0 q1 : Word) : Bool :=
  let n := bits q0 0 5
  bits q0 5 27 == 0 && bits q0 48 15 == 0 && decide (1 ≤ n) && decide (n ≤ 16) && bits q1 57 7 == 0 &&
  q1.toNat % 128 == 0 && (!q0.getLsbD 63 || (d.mg.ready && q1.toNat % (128 * 2 ^ n) == 0))

/-- R383: firmware writes Q0 or Q1 of a queue that is not enabled. -/
def queueWrite (w : Work) (firmware : Bool) (o : Nat) (v : Word) : Work :=
  let q := (o - 0x00010000) / 32
  let x := w.d.queues.getD q { q0 := 0, q1 := 0, head := 0, tail := 0, waitsOn := none, resumed := false }
  let put (f : LaunchQueue → LaunchQueue) (w : Work) : Work := w.upd (fun d => { d with queues := updAt d.queues q f })
  let may := firmware && !x.q0.getLsbD 63
  if o % 32 = 0 then regWrite w o (may && queueOk w.d v x.q1) (put (fun x => { x with q0 := v }))
  else if o % 32 = 8 then regWrite w o (may && bits v 57 7 == 0 && v.toNat % 128 == 0) (put (fun x => { x with q1 := v }))
  else regWrite w o false id

/-- R428: a watchpoint's two dwords: the words `mask` may be set besides the size. -/
def watchOk (second : Bool) (resv : Nat × Nat) (v : Word) : Bool :=
  if second then bits v resv.1 resv.2 == 0 && (bits v 0 4 == 0 || (decide (3 ≤ bits v 0 4) && decide (bits v 0 4 ≤ 12)))
  else bits v 0 3 == 0 && bits v 57 7 == 0

/-- One dword of a pair written. -/
def setPair (second : Bool) (v : Word) (p : Word × Word) : Word × Word := if second then (p.1, v) else (v, p.2)

/-- R448: what a write to a context block does: whether a saved task allows it, whether the word is good, and the change;
none where nothing decodes. -/
def ctxReg (o : Nat) (v : Word) : Option (Bool × (Ctx → Bool) × (Ctx → Ctx)) :=
  let good (b : Bool) : Ctx → Bool := fun _ => b
  if o = 0x008 then some (false, good (bits v 57 7 == 0 && v.toNat % 32 == 0), fun c => { c with nqBase := v })
  else if o = 0x030 then some (true, good (bits v 2 62 == 0), fun c => { c with policy := v.setWidth 2 })
  else if o = 0x038 then
    some (false, good (bits v 57 2 == 0 && decide (12 ≤ bits v 59 5) && decide (bits v 59 5 ≤ 19)), fun c => { c with abase := v })
  else if o = 0x040 then some (false, good (bits v 16 48 == 0 && v != 0), fun c => { c with acThr := v.toNat })
  else if o = 0x048 then some (false, good (bits v 57 7 == 0), fun c => { c with stBase := v })
  else if o = 0x050 then some (false, good (bits v 6 58 == 0), fun c => { c with stSize := v })
  else if o = 0x058 then some (false, good (bits v 32 32 == 0), fun c => { c with stCount := v.toNat })
  else if o = 0x060 then some (false, good (bits v 57 1 == 0), fun c => { c with trCtl := v })
  else if o = 0x068 then some (false, good (bits v 32 32 == 0), fun c => { c with trCount := v.toNat })
  else if o = 0x078 then some (false, good (decide (v.toNat ≤ 20)), fun c => { c with trSize := v.toNat })
  else if o = 0x088 then some (true, good (bits v 32 32 == 0), fun c => { c with relocId := v.toNat })
  else if 0x100 ≤ o ∧ o < 0x180 ∧ o % 8 = 0 then
    some (false, fun c => c.debug && bits v 48 15 == 0, fun c => { c with brk := updAt c.brk ((o - 0x100) / 8) (fun _ => v) })
  else if 0x180 ≤ o ∧ o < 0x200 ∧ o % 8 = 0 then
    some (false, good (watchOk (o % 16 == 8) (4, 12) v),
      fun c => { c with hwatch := updAt c.hwatch ((o - 0x180) / 16) (setPair (o % 16 == 8) v) })
  else if 0x800 ≤ o ∧ o < 0x1000 ∧ o % 8 = 0 then
    some (false, good (bits v 57 6 == 0 && bits v 0 3 == 0), fun c => { c with marion := updAt c.marion ((o - 0x800) / 8) (fun _ => v) })
  else none

/-- R448: a write to a context block. -/
def blockWrite (w : Work) (o : Nat) (v : Word) : Except Refusal Work :=
  let block := (o - 0x00100000) / 0x1000
  match o % 0x1000 with
  | 0x010 => nqheadWrite w block v
  | 0x028 => resumeWrite w block v
  | 0x070 => debugWrite w block v
  | 0x080 => suspendWrite w block v
  | 0x090 => relocbaseWrite w block v
  | r => match ctxReg r v with
    | none => ctxWrite w block r v true false (fun w _ => w)
    | some (saved, ok, f) =>
      ctxWrite w block r v saved (((blockCtx w.d block).map ok).getD false) (fun w c => w.upd (fun d => d.updCtx c.id f))

/-- R428, R449: a write to a core's block. -/
def coreWrite (w : Work) (o : Nat) (v : Word) : Work :=
  let (core, r) := ((o - 0x00200000) / 0x100, o % 0x100)
  let second := r % 16 == 8
  if r < 0x40 ∧ r % 4 = 0 then pmccfgWrite w core (r / 4) v
  else if r = 0x40 then hclrWrite w core v
  else regWrite w o (decide (0x80 ≤ r) && decide (r < 0xC0) && r % 8 == 0 && watchOk second (4, 44) v) (fun w =>
    w.upd (fun d => d.updCore core (fun c => { c with watch := updAt c.watch ((r - 0x80) / 16) (setPair second v) })))

/-- R447: a write to the device configuration, which only firmware reaches. -/
def configWrite (w : Work) (o : Nat) (v : Word) : Work :=
  let r := o - 0x00020000
  match r with
  | 0x00 => toyboxWrite w v
  | 0x08 => hbperWrite w v
  | 0x10 => domainWrite w v
  | 0x18 => dcSuspendWrite w v
  | _ => if 0x20 ≤ r ∧ r < 0x60 ∧ r % 8 = 0 then placemapWrite w ((r - 0x20) / 8) v else w.upd (fun d => reject d o)

/-- R10, R26, R445: a write of a dword at an offset of the physical function's BAR0. -/
def physWrite (w : Work) (firmware : Bool) (o : Nat) (v : Word) : Except Refusal Work :=
  if o = 0x100 then .ok (fwCtlWrite w v)
  else if o < 0x1000 then .ok (mgWrite w o v)
  else if 0x00010000 ≤ o ∧ o < 0x00010800 then
    if o % 32 = 24 then tailWrite w ((o - 0x00010000) / 32) v else .ok (queueWrite w firmware o v)
  else if 0x00020000 ≤ o ∧ o < 0x00020100 then .ok (if firmware then configWrite w o v else w.upd (fun d => reject d o))
  else if 0x00100000 ≤ o ∧ o < 0x00200000 then blockWrite w o v
  else if 0x00200000 ≤ o ∧ o < 0x00212000 then .ok (coreWrite w o v)
  else if 0x01000000 ≤ o ∧ o < 0x02000000 ∧ o % 8 = 0 then .ok (w.puts (kLoad (o - 0x01000000)) (wordBytes v))
  else .ok (w.upd (fun d => reject d o))

/-- R364, R445: the contexts of a function, by their blocks. -/
def functionCtxs (d : Dev) (n : Nat) : List Ctx := sortBy Ctx.block (d.ctxs.filter (fun c => c.fn == n))

/-- R364, R445: where an offset of a virtual function's BAR0 lies in the physical one: the blocks of its contexts one after another
from 0, then the tail registers of their queues (log 80); none where nothing decodes. -/
def functionOffset (d : Dev) (n o : Nat) : Option Nat := match (functionCtxs d n)[o / 0x1000]? with
  | some c => some (blockOffset c.block + o % 0x1000)
  | none => (((enum d.queues).filter (fun iq => (functionCtxs d n).any (fun c => c.id == iq.2.ctx))).find?
      (fun iq => Config.functionTail n iq.1 == o)).map (fun iq => queueOffset iq.1 + 24)

/-- R10, R26, R364, R445: a write of a dword at an offset of BAR0, by firmware or by the host through a function. -/
def execMmioWrite (master : Master) (offset : Nat) (value : Word) (s : State) : Host.Outcome State Fault Refusal :=
  s.run (fun w => match master with
    | .firmware => physWrite w true offset value
    | .function 0 => physWrite w false offset value
    | .function n => match functionOffset w.d n offset with
      | some o => physWrite w false o value
      | none => .ok (w.upd (fun d => reject d offset)))

/-! ## The host and memory (R435) -/

/-- R435: the keys of a host write, and whether the memory has them. -/
def hostKey : HostSpace → Nat → Nat
  | .hbm, a => kHbm a
  | .abacus, a => kAbacus a
  | .host, a => kHost a

/-- R14, R231: the bytes of a memory. -/
def hostSize : HostSpace → Nat
  | .hbm => 2 ^ 40
  | .abacus => 2 ^ 28
  | .host => 2 ^ 52

/-- R435: the host writes memory of the device, or its own. -/
def execHostWriteToDeviceMemory (space : HostSpace) (addr : Nat) (bytes : List Byte) (s : State) : Host.Outcome State Fault Refusal :=
  s.run (fun w =>
    let k := hostKey space addr
    let go (w : Work) : Work := if space == .abacus then w.stores .none ((enum bytes).map (fun ib => (k + 8 * ib.1, ib.2))) else hostHbm w k bytes
    if hostSize space < addr + bytes.length then cannot "no such memory"
    else if space == .host then .ok (hostHomes w k bytes)
    else if w.d.mg.safe then cannot "the memory is held in reset"
    else match inputGate w (.hostMemory space addr bytes) with
      | none => cannot "the log has another input first"
      | some w => .ok (go w))

/-! ## Contexts (R402, R448) -/

/-- R402, R428, R448: a context at its creation. -/
def newCtx (id block fn root : Nat) : Ctx :=
  { id, block, fn, root, nqBase := 0, nqHead := 0, nqTail := 0, nqLost := 0, held := [], policy := 0, abase := 0, acThr := 256
    stBase := 0, stSize := 0, stCount := 0, trCtl := 0, trCount := 0, trSize := 0, debug := false, hold := false
    relocId := 0, brk := List.replicate 16 0, hwatch := List.replicate 8 (0, 0), marion := List.replicate 256 0
    sites := [], nextLaunch := 1, trapRecs := [], trapCount := 0, marked := false }

/-- R364, R426, R448: a context created, with a free number and block, and assigned to a function; the loader's images bring their
stop sites (log 21). -/
def execContextCreation (ctx : Nat) (place : CtxPlace) (program : CtxProgram) (s : State) : Host.Outcome State Fault Refusal :=
  s.run (fun w =>
    if !w.d.mg.ready then cannot "the device is not ready"
    else if 65536 ≤ ctx ∨ 256 ≤ place.block ∨ 32 < place.fn ∨ program.ptRoot % 4096 ≠ 0 then cannot "no such context"
    else if w.d.ctxs.any (fun c => c.id == ctx || c.block == place.block) then cannot "the context is live"
    else .ok (w.upd (fun d => { d with
      ctxs := d.ctxs ++ [{ newCtx ctx place.block place.fn program.ptRoot with sites := program.images.flatMap stopSites }] })))

/-- R402: a context is destroyed, with its tasks and their images. -/
def destroyCtx (d : Dev) (ctx : Nat) : Dev :=
  let ts := d.tasks.filter (fun t => t.ctx == ctx)
  let d := ts.foldl (fun d t => if t.holds then releaseTask d t else d) d
  let gone (u : Nat) : Bool := ts.any (fun t => t.uid == u)
  { d with
    ctxs := d.ctxs.filter (fun c => c.id != ctx), tasks := d.tasks.filter (fun t => t.ctx != ctx)
    launches := d.launches.filter (fun l => l.ctx != ctx), waves := d.waves.filter (fun v => v.ctx != ctx)
    launchReqs := d.launchReqs.filter (fun r => r.ctx != ctx), ringWaits := d.ringWaits.filter (fun r => r.ctx != ctx)
    vers := d.vers.filter (fun v => !gone v.task), bankReqs := d.bankReqs.filter (fun r => r.ctx != ctx)
    groupReqs := d.groupReqs.filter (fun r => r.ctx != ctx), msgReqs := d.msgReqs.filter (fun r => r.msg.ctx != ctx)
    filters := d.filters.filter (fun f => f.ctx != ctx), traps := d.traps.filter (fun t => t.ctx != ctx)
    invals := d.invals.filter (fun i => i.ctx != ctx), watch := d.watch.filter (fun x => x.ctx != ctx)
    counted := d.counted.filter (fun x => x.ctx != ctx) }

/-- R402: a context destroyed. -/
def execContextDestruction (ctx : Nat) (s : State) : Host.Outcome State Fault Refusal :=
  s.run (fun w => match w.d.ctx ctx with
    | none => cannot "no such context"
    | some _ => .ok (w.upd (fun d => destroyCtx d ctx)))

end Sys2Proof.Machine
end

