-- ==== Sys2Proof/Machine/Dispatch.lean ====
section
/-! DEFINITION. The dispatch: one arm per row of the opcode table. -/

namespace Sys2Proof.Machine

/-- What an instruction, or a step of the device, does in a state. -/
def exec (i : Instr) (s : State) : Host.Outcome State Fault Refusal :=
  match i with
  | .nop f => Sys2Proof.Machine.execNop f s
  | .iadd f => Sys2Proof.Machine.execIadd f s
  | .isub f => Sys2Proof.Machine.execIsub f s
  | .imul f => Sys2Proof.Machine.execImul f s
  | .imulh f => Sys2Proof.Machine.execImulh f s
  | .imad f => Sys2Proof.Machine.execImad f s
  | .idiv f => Sys2Proof.Machine.execIdiv f s
  | .irem f => Sys2Proof.Machine.execIrem f s
  | .iabsd f => Sys2Proof.Machine.execIabsd f s
  | .imin f => Sys2Proof.Machine.execImin f s
  | .imax f => Sys2Proof.Machine.execImax f s
  | .iaddc f => Sys2Proof.Machine.execIaddc f s
  | .lea f => Sys2Proof.Machine.execLea f s
  | .shl f => Sys2Proof.Machine.execShl f s
  | .shr f => Sys2Proof.Machine.execShr f s
  | .sar f => Sys2Proof.Machine.execSar f s
  | .rotl f => Sys2Proof.Machine.execRotl f s
  | .and f => Sys2Proof.Machine.execAnd f s
  | .or f => Sys2Proof.Machine.execOr f s
  | .xor f => Sys2Proof.Machine.execXor f s
  | .andn f => Sys2Proof.Machine.execAndn f s
  | .not f => Sys2Proof.Machine.execNot f s
  | .popc f => Sys2Proof.Machine.execPopc f s
  | .clz f => Sys2Proof.Machine.execClz f s
  | .ctz f => Sys2Proof.Machine.execCtz f s
  | .brev f => Sys2Proof.Machine.execBrev f s
  | .bfx f => Sys2Proof.Machine.execBfx f s
  | .bfi f => Sys2Proof.Machine.execBfi f s
  | .perm f => Sys2Proof.Machine.execPerm f s
  | .icmp c f => Sys2Proof.Machine.execIcmp c f s
  | .sel f => Sys2Proof.Machine.execSel f s
  | .pand f => Sys2Proof.Machine.execPand f s
  | .por f => Sys2Proof.Machine.execPor f s
  | .pxor f => Sys2Proof.Machine.execPxor f s
  | .pnot f => Sys2Proof.Machine.execPnot f s
  | .pmov f => Sys2Proof.Machine.execPmov f s
  | .ptest f => Sys2Proof.Machine.execPtest f s
  | .mov f => Sys2Proof.Machine.execMov f s
  | .drop f => Sys2Proof.Machine.execDrop f s
  | .swap f => Sys2Proof.Machine.execSwap f s
  | .rot f => Sys2Proof.Machine.execRot f s
  | .pad f => Sys2Proof.Machine.execPad f s
  | .qdepth f => Sys2Proof.Machine.execQdepth f s
  | .qtag f => Sys2Proof.Machine.execQtag f s
  | .retag f => Sys2Proof.Machine.execRetag f s
  | .shflIdx f => Sys2Proof.Machine.execShflIdx f s
  | .shflUp f => Sys2Proof.Machine.execShflUp f s
  | .shflDown f => Sys2Proof.Machine.execShflDown f s
  | .shflXor f => Sys2Proof.Machine.execShflXor f s
  | .bcast f => Sys2Proof.Machine.execBcast f s
  | .voteAll f => Sys2Proof.Machine.execVoteAll f s
  | .voteAny f => Sys2Proof.Machine.execVoteAny f s
  | .voteBallot f => Sys2Proof.Machine.execVoteBallot f s
  | .matchLanes f => Sys2Proof.Machine.execMatchLanes f s
  | .wred o f => Sys2Proof.Machine.execWred o f s
  | .wscan o x f => Sys2Proof.Machine.execWscan o x f s
  | .fadd f => Sys2Proof.Machine.execFadd f s
  | .fsub f => Sys2Proof.Machine.execFsub f s
  | .fmul f => Sys2Proof.Machine.execFmul f s
  | .ffma f => Sys2Proof.Machine.execFfma f s
  | .fdiv f => Sys2Proof.Machine.execFdiv f s
  | .fsqrt f => Sys2Proof.Machine.execFsqrt f s
  | .fdot2 f => Sys2Proof.Machine.execFdot2 f s
  | .fminNum f => Sys2Proof.Machine.execFminNum f s
  | .fmin f => Sys2Proof.Machine.execFmin f s
  | .fmaxNum f => Sys2Proof.Machine.execFmaxNum f s
  | .fmax f => Sys2Proof.Machine.execFmax f s
  | .frnd f => Sys2Proof.Machine.execFrnd f s
  | .ffract f => Sys2Proof.Machine.execFfract f s
  | .fldexp f => Sys2Proof.Machine.execFldexp f s
  | .ffrexp f => Sys2Proof.Machine.execFfrexp f s
  | .fcopysign f => Sys2Proof.Machine.execFcopysign f s
  | .fclass f => Sys2Proof.Machine.execFclass f s
  | .fcmp c f => Sys2Proof.Machine.execFcmp c f s
  | .cvt f => Sys2Proof.Machine.execCvt f s
  | .cvti f => Sys2Proof.Machine.execCvti f s
  | .cvtf f => Sys2Proof.Machine.execCvtf f s
  | .pack2 f => Sys2Proof.Machine.execPack2 f s
  | .unpk2 f => Sys2Proof.Machine.execUnpk2 f s
  | .f8pack f => Sys2Proof.Machine.execF8pack f s
  | .f8unpk f => Sys2Proof.Machine.execF8unpk f s
  | .cbkld f => Sys2Proof.Machine.execCbkld f s
  | .cbkdec f => Sys2Proof.Machine.execCbkdec f s
  | .rcp f => Sys2Proof.Machine.execRcp f s
  | .rsq f => Sys2Proof.Machine.execRsq f s
  | .sqrta f => Sys2Proof.Machine.execSqrta f s
  | .exp2 f => Sys2Proof.Machine.execExp2 f s
  | .log2 f => Sys2Proof.Machine.execLog2 f s
  | .sinpi f => Sys2Proof.Machine.execSinpi f s
  | .cospi f => Sys2Proof.Machine.execCospi f s
  | .sincospi f => Sys2Proof.Machine.execSincospi f s
  | .tanh f => Sys2Proof.Machine.execTanh f s
  | .az f => Sys2Proof.Machine.execAz f s
  | .anch f => Sys2Proof.Machine.execAnch f s
  | .mma f => Sys2Proof.Machine.execMma f s
  | .mmas f => Sys2Proof.Machine.execMmas f s
  | .mfence f => Sys2Proof.Machine.execMfence f s
  | .mwait f => Sys2Proof.Machine.execMwait f s
  | .gang f => Sys2Proof.Machine.execGang f s
  | .res f => Sys2Proof.Machine.execRes f s
  | .resv f => Sys2Proof.Machine.execResv f s
  | .acmp f => Sys2Proof.Machine.execAcmp f s
  | .asgn f => Sys2Proof.Machine.execAsgn f s
  | .astr f => Sys2Proof.Machine.execAstr f s
  | .ald f => Sys2Proof.Machine.execAld f s
  | .aadd f => Sys2Proof.Machine.execAadd f s
  | .avld f => Sys2Proof.Machine.execAvld f s
  | .mrow f => Sys2Proof.Machine.execMrow f s
  | .mxexp f => Sys2Proof.Machine.execMxexp f s
  | .bra f => Sys2Proof.Machine.execBra f s
  | .brs f => Sys2Proof.Machine.execBrs f s
  | .rejoin f => Sys2Proof.Machine.execRejoin f s
  | .jmpi f => Sys2Proof.Machine.execJmpi f s
  | .call f => Sys2Proof.Machine.execCall f s
  | .calli f => Sys2Proof.Machine.execCalli f s
  | .ret f => Sys2Proof.Machine.execRet f s
  | .exit f => Sys2Proof.Machine.execExit f s
  | .maskrd f => Sys2Proof.Machine.execMaskrd f s
  | .maskwr f => Sys2Proof.Machine.execMaskwr f s
  | .yield f => Sys2Proof.Machine.execYield f s
  | .sleep f => Sys2Proof.Machine.execSleep f s
  | .loop f => Sys2Proof.Machine.execLoop f s
  | .trap f => Sys2Proof.Machine.execTrap f s
  | .brk f => Sys2Proof.Machine.execBrk f s
  | .splitrd f => Sys2Proof.Machine.execSplitrd f s
  | .ld f => Sys2Proof.Machine.execLd f s
  | .ldv f => Sys2Proof.Machine.execLdv f s
  | .ldp f => Sys2Proof.Machine.execLdp f s
  | .st f => Sys2Proof.Machine.execSt f s
  | .stv f => Sys2Proof.Machine.execStv f s
  | .pref f => Sys2Proof.Machine.execPref f s
  | .atom o f => Sys2Proof.Machine.execAtom o f s
  | .red o f => Sys2Proof.Machine.execRed o f s
  | .abupd f => Sys2Proof.Machine.execAbupd f s
  | .abred f => Sys2Proof.Machine.execAbred f s
  | .phase f => Sys2Proof.Machine.execPhase f s
  | .fence f => Sys2Proof.Machine.execFence f s
  | .fencesc f => Sys2Proof.Machine.execFencesc f s
  | .discard f => Sys2Proof.Machine.execDiscard f s
  | .wback f => Sys2Proof.Machine.execWback f s
  | .inval f => Sys2Proof.Machine.execInval f s
  | .copy f => Sys2Proof.Machine.execCopy f s
  | .cstat f => Sys2Proof.Machine.execCstat f s
  | .tdesc f => Sys2Proof.Machine.execTdesc f s
  | .cbinit f => Sys2Proof.Machine.execCbinit f s
  | .cbwait f => Sys2Proof.Machine.execCbwait f s
  | .cbpop f => Sys2Proof.Machine.execCbpop f s
  | .cbsig f => Sys2Proof.Machine.execCbsig f s
  | .cbfree f => Sys2Proof.Machine.execCbfree f s
  | .spost f => Sys2Proof.Machine.execSpost f s
  | .swait f => Sys2Proof.Machine.execSwait f s
  | .send f => Sys2Proof.Machine.execSend f s
  | .inwait f => Sys2Proof.Machine.execInwait f s
  | .nqpop f => Sys2Proof.Machine.execNqpop f s
  | .gbar f => Sys2Proof.Machine.execGbar f s
  | .garr f => Sys2Proof.Machine.execGarr f s
  | .gwait f => Sys2Proof.Machine.execGwait f s
  | .gset f => Sys2Proof.Machine.execGset f s
  | .gget f => Sys2Proof.Machine.execGget f s
  | .launch f => Sys2Proof.Machine.execLaunch f s
  | .srd f => Sys2Proof.Machine.execSrd f s
  | .swr f => Sys2Proof.Machine.execSwr f s
  | .place f => Sys2Proof.Machine.execPlace f s
  | .ptset f => Sys2Proof.Machine.execPtset f s
  | .tlbinv f => Sys2Proof.Machine.execTlbinv f s
  | .pgcnt f => Sys2Proof.Machine.execPgcnt f s
  | .launchQueueTailWrite queue value => Sys2Proof.Machine.execLaunchQueueTailWrite queue value s
  | .launchAccept queue => Sys2Proof.Machine.execLaunchAccept queue s
  | .acceptanceResume queue => Sys2Proof.Machine.execAcceptanceResume queue s
  | .launchRetire ctx launchId => Sys2Proof.Machine.execLaunchRetire ctx launchId s
  | .splitSwapPeriod wave => Sys2Proof.Machine.execSplitSwapPeriod wave s
  | .splitSwapDeferred wave => Sys2Proof.Machine.execSplitSwapDeferred wave s
  | .longLatencyArrival wave seq => Sys2Proof.Machine.execLongLatencyArrival wave seq s
  | .inboxDelivery index => Sys2Proof.Machine.execInboxDelivery index s
  | .sleepExpiry wave split => Sys2Proof.Machine.execSleepExpiry wave split s
  | .yieldEnd wave split => Sys2Proof.Machine.execYieldEnd wave split s
  | .leaveGrant quad => Sys2Proof.Machine.execLeaveGrant quad s
  | .matrixKstepComplete wave slot => Sys2Proof.Machine.execMatrixKstepComplete wave slot s
  | .matrixOpComplete wave slot => Sys2Proof.Machine.execMatrixOpComplete wave slot s
  | .gangJoin task core => Sys2Proof.Machine.execGangJoin task core s
  | .tileTransferComplete wave slot => Sys2Proof.Machine.execTileTransferComplete wave slot s
  | .mergedBoundaryStart core => Sys2Proof.Machine.execMergedBoundaryStart core s
  | .commitComplete core => Sys2Proof.Machine.execCommitComplete core s
  | .neighbourNumberReceived task core neighbour => Sys2Proof.Machine.execNeighbourNumberReceived task core neighbour s
  | .fencescGuardExpiry wave split => Sys2Proof.Machine.execFencescGuardExpiry wave split s
  | .tableWalkComplete wave seq => Sys2Proof.Machine.execTableWalkComplete wave seq s
  | .tlbinvComplete index => Sys2Proof.Machine.execTlbinvComplete index s
  | .hostInvalidation ctx va size => Sys2Proof.Machine.execHostInvalidation ctx va size s
  | .l1Fill core line => Sys2Proof.Machine.execL1Fill core line s
  | .llcEviction line => Sys2Proof.Machine.execLlcEviction line s
  | .toyboxSpill task => Sys2Proof.Machine.execToyboxSpill task s
  | .bankOperation index => Sys2Proof.Machine.execBankOperation index s
  | .filterAcknowledgment index => Sys2Proof.Machine.execFilterAcknowledgment index s
  | .chainMove quad engine => Sys2Proof.Machine.execChainMove quad engine s
  | .chainGather quad engine => Sys2Proof.Machine.execChainGather quad engine s
  | .chainLoop quad engine => Sys2Proof.Machine.execChainLoop quad engine s
  | .chainIf quad engine => Sys2Proof.Machine.execChainIf quad engine s
  | .chainSignal quad engine => Sys2Proof.Machine.execChainSignal quad engine s
  | .chainWaitcb quad engine => Sys2Proof.Machine.execChainWaitcb quad engine s
  | .chainEnd quad engine => Sys2Proof.Machine.execChainEnd quad engine s
  | .slotLanding quad engine => Sys2Proof.Machine.execSlotLanding quad engine s
  | .quadStallEnlarge quad => Sys2Proof.Machine.execQuadStallEnlarge quad s
  | .messageAccept index => Sys2Proof.Machine.execMessageAccept index s
  | .messageResend index => Sys2Proof.Machine.execMessageResend index s
  | .handlerSpawn core => Sys2Proof.Machine.execHandlerSpawn core s
  | .heldNotificationWrite ctx => Sys2Proof.Machine.execHeldNotificationWrite ctx s
  | .cxNqheadWrite block value => Sys2Proof.Machine.execCxNqheadWrite block value s
  | .flitInject mesh flit => Sys2Proof.Machine.execFlitInject mesh flit s
  | .flitRoute mesh x y => Sys2Proof.Machine.execFlitRoute mesh x y s
  | .flitAccept mesh x y bridge => Sys2Proof.Machine.execFlitAccept mesh x y bridge s
  | .packetReassembled mesh endpoint slot => Sys2Proof.Machine.execPacketReassembled mesh endpoint slot s
  | .reassemblyTimeout mesh endpoint slot => Sys2Proof.Machine.execReassemblyTimeout mesh endpoint slot s
  | .throttleWindow mesh endpoint => Sys2Proof.Machine.execThrottleWindow mesh endpoint s
  | .drainEntry mesh => Sys2Proof.Machine.execDrainEntry mesh s
  | .drainExit mesh => Sys2Proof.Machine.execDrainExit mesh s
  | .cxResumeWrite block value => Sys2Proof.Machine.execCxResumeWrite block value s
  | .preemptionStart task => Sys2Proof.Machine.execPreemptionStart task s
  | .settleComplete task => Sys2Proof.Machine.execSettleComplete task s
  | .saveComplete task => Sys2Proof.Machine.execSaveComplete task s
  | .restore task => Sys2Proof.Machine.execRestore task s
  | .replayComplete wave => Sys2Proof.Machine.execReplayComplete wave s
  | .cxSuspendWrite block value => Sys2Proof.Machine.execCxSuspendWrite block value s
  | .dcSuspendWrite value => Sys2Proof.Machine.execDcSuspendWrite value s
  | .debuggerWrite wave item value tag => Sys2Proof.Machine.execDebuggerWrite wave item value tag s
  | .cxDebugWrite block value => Sys2Proof.Machine.execCxDebugWrite block value s
  | .powerGood report => Sys2Proof.Machine.execPowerGood report s
  | .fwCtlCommit value => Sys2Proof.Machine.execFwCtlCommit value s
  | .mapOut part => Sys2Proof.Machine.execMapOut part s
  | .quadContainmentReset quad => Sys2Proof.Machine.execQuadContainmentReset quad s
  | .governorMeasurement milliwatts => Sys2Proof.Machine.execGovernorMeasurement milliwatts s
  | .dcToyboxWrite value => Sys2Proof.Machine.execDcToyboxWrite value s
  | .dcHbperWrite value => Sys2Proof.Machine.execDcHbperWrite value s
  | .dcDomainWrite value => Sys2Proof.Machine.execDcDomainWrite value s
  | .dcPlacemapWrite die value => Sys2Proof.Machine.execDcPlacemapWrite die value s
  | .cxRelocbaseWrite block value => Sys2Proof.Machine.execCxRelocbaseWrite block value s
  | .crHclrWrite core value => Sys2Proof.Machine.execCrHclrWrite core value s
  | .crPmccfgWrite core index value => Sys2Proof.Machine.execCrPmccfgWrite core index value s
  | .mmioWrite master offset value => Sys2Proof.Machine.execMmioWrite master offset value s
  | .groupUnitRequest index => Sys2Proof.Machine.execGroupUnitRequest index s
  | .refusedI2RequestResend index => Sys2Proof.Machine.execRefusedI2RequestResend index s
  | .quadResetEnd quad => Sys2Proof.Machine.execQuadResetEnd quad s
  | .mojorInboundPacket packet => Sys2Proof.Machine.execMojorInboundPacket packet s
  | .hostWriteToDeviceMemory space addr bytes => Sys2Proof.Machine.execHostWriteToDeviceMemory space addr bytes s
  | .contextDestruction ctx => Sys2Proof.Machine.execContextDestruction ctx s
  | .contextCreation ctx place program => Sys2Proof.Machine.execContextCreation ctx place program s
  | .softErrorCorrection part addr correctable => Sys2Proof.Machine.execSoftErrorCorrection part addr correctable s
  | .mojorLinkRetry port => Sys2Proof.Machine.execMojorLinkRetry port s
  | .mojorPortFailure port => Sys2Proof.Machine.execMojorPortFailure port s
  | .enroll slot digest signer => Sys2Proof.Machine.execEnroll slot digest signer s
  | .revoke slot signer => Sys2Proof.Machine.execRevoke slot signer s
  | .junctionTemperatureLimit sixteenths => Sys2Proof.Machine.execJunctionTemperatureLimit sixteenths s
  | .idleSelfTest quad pass => Sys2Proof.Machine.execIdleSelfTest quad pass s
  | .taskPlacement => Sys2Proof.Machine.execTaskPlacement s
  | .rotationPreempt => Sys2Proof.Machine.execRotationPreempt s
  | .packageTick => Sys2Proof.Machine.execPackageTick s
  | .domainTick => Sys2Proof.Machine.execDomainTick s
  | .countedRequest => Sys2Proof.Machine.execCountedRequest s
  | .trapDelivery => Sys2Proof.Machine.execTrapDelivery s
  | .attest => Sys2Proof.Machine.execAttest s
  | .query => Sys2Proof.Machine.execQuery s
  | .contextBoundaryChange => Sys2Proof.Machine.execContextBoundaryChange s
  | .mgRejectRead => Sys2Proof.Machine.execMgRejectRead s
  | .coreCycle => Sys2Proof.Machine.execCoreCycle s
  | .powerLoss => Sys2Proof.Machine.execPowerLoss s

end Sys2Proof.Machine
end

