-- ==== Sys2Proof/Machine/Schedule.lean ====
section
/-! DEFINITION. What moves next: an instruction fetched and issued by a split (R83, R84), and, where the agenda names no
input, the model's own order of the steps of one cc (log 3): the steps of the device that can happen, the splits in the
order of R54, the delivery of the traps of the cc (R408), and the end of the cc. -/

namespace Sys2Proof.Machine

/-! ## One attempt to issue (R83) -/

/-- R83 step 1, R256: the fetch waits on an untranslated page, with its notification. -/
def fetchWaits (w : Work) (v : Wave) (p : Split) (va : VAddr) : Work :=
  (postXlate w (.core (w.d.coreOf v)) v.ctx v.n va).upd (fun d => d.updWave v.uid (fun v => v.updSplit p.num (fun p =>
    { p with fetchWait := some va, wait := some 12 })))

/-- R83: what an attempt of a split meets: a stop of the fetch, or an instruction. -/
inductive Fetched where
  | wait (va : VAddr) | prot (va : VAddr) | memerr (key : Nat) | illegal | instr (i : Instr)
deriving DecidableEq, Repr

/-- R83, R84, R261: what the words fetched are. -/
def fetched : Fetch → Fetched
  | .lost k => .memerr k
  | .untranslated va => .wait va
  | .denied va => .prot va
  | .words ws => match Decode.words ws with
    | .ok (i, _) => .instr i
    | .error _ => .illegal

/-- R83, R84: the instruction at a PC of a context. -/
def fetchInstr (w : Work) (c : Ctx) (pc : VAddr) : Fetched := fetched (fetchAll w c pc)

/-- R256, R400: a split tries to issue, and fetches: the walks of its pages that are not cached have started. -/
def trying (w : Work) (v : Wave) (p : Split) (c : Ctx) : Work :=
  let n := match fetchAll w c p.pc with
    | .words ws => ws.length
    | _ => 1
  (walkPages w v [p.pc, p.pc + BitVec.ofNat 57 (8 * (n - 1))]).upd (fun d => { d with tried := (v.uid, p.num) :: d.tried })

/-- A state as a step in progress that has done nothing yet. -/
def State.work (s : State) : Work := { d := s.dev, m := s.mem, ws := [] }

/-- R83: a split that may try to issue fetches its instruction, which acts; a fetch that fails waits or traps. -/
def attempt (u n : Nat) (s : State) : Host.Outcome State Fault Refusal :=
  match s.dev.wave u with
  | none => .refused (.notEnabled "no such wave")
  | some v => match v.split n, s.dev.ctx v.ctx with
    | some p, some c =>
      if !mayTry s.dev v p then .refused (.notEnabled "the split may not try to issue")
      else
        let tried (w : Work) : Work := trying w v p c
        match fetchInstr s.work c p.pc with
        | .wait va => s.run (fun w => .ok (fetchWaits (tried w) v p va))
        | .prot va => s.run (fun w => .ok ((tried w).upd (fun d => raise d (splitTrap v p tProt p.pc 0 0 va.toNat))))
        | .memerr k => s.run (fun w => .ok ((tried w).upd (fun d => raise d (splitTrap v p tMemerr p.pc 0 0 (keyOffset k)))))
        | .illegal => s.run (fun w => .ok ((tried w).upd (fun d => raise d (splitTrap v p tIllegal p.pc 0 0 0))))
        | .instr i => exec i { s with dev := { (tried s.work).d with issuer := some (u, n) } }
    | _, _ => .refused (.notEnabled "no such split")

/-! ## The order of R54 -/

/-- R49, R54, R55: cores and schedulers in order; in each, the splits of ageing 255 first, then by age. -/
def issueKey (d : Dev) (v : Wave) (p : Split) : Nat :=
  ((d.coreOf v * 8 + v.sched) * 2 + (if p.ageing = 255 then 0 else 1)) * 2 ^ 256 + v.ageKey * 2 ^ 64 + p.created

/-- The splits that may still try to issue in this cc, each with its place in the order. -/
def untried (d : Dev) : List (Nat × Nat × Nat) :=
  d.waves.flatMap (fun v => (v.splits.filter (fun p => mayTry d v p && !d.tried.contains (v.uid, p.num))).map
    (fun p => (issueKey d v p, v.uid, p.num)))

/-- The split that tries next. -/
def nextTry (d : Dev) : Option (Nat × Nat) := (sortBy Prod.fst (untried d)).head?.map Prod.snd

/-- R54, R55: whether a split is the one of its scheduler that tries next. -/
def inTurn (d : Dev) (u n : Nat) : Bool := match d.wave u with
  | none => false
  | some v =>
    let here (w : Wave) : Bool := w.sched == v.sched && d.coreOf w == d.coreOf v
    nextTry { d with waves := d.waves.filter here } == some (u, n)

/-! ## The steps of the device that need no input from outside -/

/-- The steps that concern one wave. -/
def waveEvents (v : Wave) : List Instr :=
  [.splitSwapPeriod v.uid, .splitSwapDeferred v.uid, .replayComplete v.uid] ++
  v.splits.flatMap (fun p => [.sleepExpiry v.uid p.num, .yieldEnd v.uid p.num, .fencescGuardExpiry v.uid p.num]) ++
  v.recs.flatMap (fun r => [.tableWalkComplete v.uid r.seq, .longLatencyArrival v.uid r.seq]) ++
  (List.range v.slots.length).flatMap (fun i =>
    [.matrixKstepComplete v.uid i, .matrixOpComplete v.uid i, .tileTransferComplete v.uid i])

/-- The steps that concern one core. -/
def coreEvents (d : Dev) (i : Nat) (c : Core) : List Instr :=
  c.misses.map (fun m => .l1Fill i m.line) ++ (if c.boundary.isSome || !(awaitingEntry d i).isEmpty then [.commitComplete i] else []) ++
  (if c.merged.isSome then [.mergedBoundaryStart i] else []) ++ (if c.messages.isEmpty then [] else [.handlerSpawn i])

/-- The steps that concern one quad. -/
def quadEvents (i : Nat) (q : Quad) : List Instr :=
  (if q.leaveQueue.isEmpty then [] else [.leaveGrant i]) ++
  (enum q.engines).flatMap (fun e => if e.2.chains.isEmpty then [] else
    [.chainMove i e.1, .chainGather i e.1, .chainLoop i e.1, .chainIf i e.1, .chainSignal i e.1, .chainWaitcb i e.1,
     .chainEnd i e.1, .slotLanding i e.1]) ++
  (if 4096 ≤ q.stallRun then [.quadStallEnlarge i] else []) ++ (if q.resetting then [.quadResetEnd i] else [])

/-- The exchange of R275 that a core of a task still lacks: the neighbours whose number has changed since it was received. -/
def staleNumbers (d : Dev) (t : Task) (w h i : Nat) (c : TaskCore) : List Instr :=
  let (x, y, k) := (i / 4 % w, i / 4 / w, i % 4)
  (enum (neighbours w h x y k)).flatMap (fun n => match n.2 with
    | some (nx, ny, nk) =>
      if (c.nbr.getD n.1 Nbr.zero).num == coreNumber d t.uid nx ny nk then []
      else [.neighbourNumberReceived t.uid ((y * 12 + x) * 4 + k) n.1]
    | none => [])

/-- The steps that concern the cores of a resident task. -/
def taskCoreEvents (d : Dev) (t : Task) : List Instr := match d.launch t.ctx t.launchId with
  | some l => (enum t.cores).flatMap (fun c =>
      .gangJoin t.uid (((c.1 / 4 / l.w) * 12 + c.1 / 4 % l.w) * 4 + c.1 % 4) :: staleNumbers d t l.w l.h c.1 c.2)
  | none => []

/-- The steps that concern one task. -/
def taskEvents (d : Dev) (t : Task) : List Instr := match t.state with
  | .saving => [.preemptionStart t.uid, .settleComplete t.uid]
  | .settled => [.saveComplete t.uid]
  | .saved => [.restore t.uid, .toyboxSpill t.uid]
  | .resident => taskCoreEvents d t
  | _ => []

/-- R351, R352, R354, R355, R359, R360: the steps of a mesh that its cc fixes: drain is entered within 64 cc, and a unit takes a
complete packet within 16 cc. -/
def meshPrompt (m : Mesh) (s : MeshState) (cc : Nat) : List Instr :=
  (if s.drainDue (cc - 63) then [.drainEntry m] else []) ++ [.drainExit m] ++
  (s.flits.filter (fun f => decide (f.at_ ≤ cc))).map (fun f => .flitRoute m f.x f.y) ++
  s.offered.map (fun o => .flitAccept m o.1.x o.1.y o.2) ++
  (enum s.endpoints).flatMap (fun e => (if e.2.windowAt + 256 ≤ cc then [.throttleWindow m e.1] else []) ++
    e.2.reasm.flatMap (fun r => .reassemblyTimeout m e.1 r.slot ::
      (if r.last + 16 ≤ cc then [.packetReassembled m e.1 r.slot] else [])))

/-- The steps that concern one mesh. -/
def meshEvents (m : Mesh) (s : MeshState) (cc : Nat) : List Instr :=
  [.drainEntry m, .drainExit m] ++ (s.flits.filter (fun f => decide (f.at_ ≤ cc))).map (fun f => .flitRoute m f.x f.y) ++
  s.offered.map (fun o => .flitAccept m o.1.x o.1.y o.2) ++
  (enum s.endpoints).flatMap (fun e => (if e.2.windowAt + 256 ≤ cc then [.throttleWindow m e.1] else []) ++
    e.2.reasm.flatMap (fun r => [.packetReassembled m e.1 r.slot, .reassemblyTimeout m e.1 r.slot]))

/-- The launch unit's steps. -/
def launchEvents (d : Dev) : List Instr :=
  (none :: (List.range d.queues.length).map some).flatMap (fun q => [.launchAccept q, .acceptanceResume q]) ++
  d.launches.map (fun l => .launchRetire l.ctx l.id) ++ [.taskPlacement, .rotationPreempt]

/-- R435: in replay mode, the log's next input is taken. -/
def replayEvents (d : Dev) : List Instr := match nextInput d with
  | some (.hostMemory space a bs) => [.hostWriteToDeviceMemory space a bs]
  | some (.mmio o v) => [.mmioWrite (.function 0) o v]
  | some (.inbound p) => [.mojorInboundPacket p]
  | some (.launch (.queue n) _ _ _) => [.launchAccept (some n)]
  | _ => []

/-- Every step of the device that needs no input from outside, whether or not it can happen now. -/
def internalEvents (d : Dev) : List Instr :=
  meshEvents .request d.meshReq d.cc ++ meshEvents .reply d.meshReply d.cc ++ [.packageTick, .domainTick] ++
  (List.range d.deliveries.length).map .inboxDelivery ++ (List.range d.bankReqs.length).map .bankOperation ++
  (List.range d.groupReqs.length).map .groupUnitRequest ++ (List.range d.acks.length).map .filterAcknowledgment ++
  (List.range d.msgReqs.length).flatMap (fun i => [.messageAccept i, .messageResend i]) ++
  (List.range (refusedRecs d).length).map .refusedI2RequestResend ++ (List.range d.invals.length).map .tlbinvComplete ++
  (if d.counted.isEmpty then [] else [.countedRequest]) ++ d.waves.flatMap waveEvents ++
  (enum d.cores).flatMap (fun c => coreEvents d c.1 c.2) ++ (enum d.quads).flatMap (fun q => quadEvents q.1 q.2) ++
  d.tasks.flatMap (taskEvents d) ++ d.ctxs.map (fun c => .heldNotificationWrite c.id) ++
  (d.mg.failing.map .mapOut) ++ [.contextBoundaryChange] ++ replayEvents d ++ launchEvents d

/-- The outcome of the first of some steps that can happen. -/
def firstNext (s : State) : List Instr → Option (Host.Outcome State Fault Refusal)
  | [] => none
  | i :: is => match exec i s with
    | .next t => some (.next t)
    | _ => firstNext s is

/-- R319, R325, R344: the counter operations that are due. -/
def dueCounters (d : Dev) : List Instr := d.waves.flatMap (fun v => (v.recs.filter (fun r => (counterOf r.op).isSome && (match r.state with
  | .timed c => decide (c ≤ d.cc)
  | _ => false))).map (fun r => .longLatencyArrival v.uid r.seq))

/-- R21: what a pending change takes to be in force. -/
def changeEvents (d : Dev) : List Instr :=
  (if d.toyboxPending.isNone then [] else d.tasks.map (fun t => .toyboxSpill t.uid)) ++
  (if d.toyboxPending.isNone && d.placePending.isEmpty then [] else [.contextBoundaryChange]) ++ d.mg.failing.map .mapOut

/-- The steps whose cc the manual fixes: they are taken before their cc ends; a domain tick within the 512 cc in which the
packages of a domain observe it (R281). -/
def promptEvents (d : Dev) : List Instr :=
  dueCounters d ++ changeEvents d ++ (List.range (refusedRecs d).length).map .refusedI2RequestResend ++
  (List.range d.msgReqs.length).map .messageResend ++
  meshPrompt .request d.meshReq d.cc ++ meshPrompt .reply d.meshReply d.cc ++
  .packageTick :: (if d.hb.domNext + 511 ≤ d.cc then [.domainTick] else []) ++ d.waves.flatMap (fun v => [.splitSwapPeriod v.uid, .splitSwapDeferred v.uid] ++
    v.splits.flatMap (fun p => [.sleepExpiry v.uid p.num, .yieldEnd v.uid p.num])) ++
  (enum d.cores).flatMap (fun c => if c.2.merged.isSome then [.mergedBoundaryStart c.1] else []) ++
  (enum d.quads).flatMap (fun q => if 4096 ≤ q.2.stallRun then [.quadStallEnlarge q.1] else [])

/-- R54, R281, R351, R408: what keeps a cc from ending: a step due in it, a split that has not tried to issue, or a trap that is
not delivered. -/
def ccOpen (s : State) : Bool :=
  (firstNext s (promptEvents s.dev)).isSome || (nextTry s.dev).isSome || !s.dev.traps.isEmpty

/-- R54, R227: the changes due in this cc that decide which splits of a scheduler are ready in it: the ends of sleeps and yields,
and the swaps of splits. -/
def wakeEvents (d : Dev) (u : Nat) : List Instr := match d.wave u with
  | none => []
  | some v => (d.waves.filter (fun x => x.sched == v.sched && d.coreOf x == d.coreOf v)).flatMap (fun x =>
      [.splitSwapPeriod x.uid, .splitSwapDeferred x.uid] ++ x.splits.flatMap (fun p => [.sleepExpiry x.uid p.num, .yieldEnd x.uid p.num]))

/-- An input: a step of the device, the host or the outside, or a split's attempt to issue. The splits of a scheduler try in
the order of R54, and a cc ends once all that is due in it has happened. -/
def Input.act (s : State) : Input → Host.Outcome State Fault Refusal
  | .event .coreCycle => if ccOpen s then .refused (.notEnabled "something is due in this cc") else exec .coreCycle s
  | .event i => exec i s
  | .issue u n =>
    if !inTurn s.dev u n then .refused (.notEnabled "another split of the scheduler tries first")
    else if (firstNext s (wakeEvents s.dev u)).isSome then .refused (.notEnabled "a split of the scheduler is about to wake")
    else attempt u n s

/-- The model's own order (log 3): steps of the device, attempts to issue, traps, and the end of the cc. -/
def byDefault (s : State) : Host.Outcome State Fault Refusal :=
  match firstNext s (internalEvents s.dev) with
  | some o => o
  | none => match nextTry s.dev with
    | some (u, n) => attempt u n s
    | none => if s.dev.traps.isEmpty then exec .coreCycle s else exec .trapDelivery s

/-- Whether an input may be taken without a supply: only power-good may (R437). -/
def powersOn : Input → Bool
  | .event (.powerGood _) => true
  | _ => false

/-- What the package does next: the agenda's first input, or the model's own choice; without a supply, nothing but
power-good. -/
def move (s : State) : Host.Outcome State Fault Refusal :=
  match s.dev.agenda with
  | [] => if s.dev.powered then byDefault s else .fault .unpowered
  | i :: rest =>
    if s.dev.powered || powersOn i then Input.act { s with dev := { s.dev with agenda := rest } } i
    else .fault .unpowered

/-! ## A program of one instruction, placed by hand (log 2) -/

/-- A number's little-endian bytes at a key. -/
def wordCells (k : Nat) (x : Nat) : List Host.Cell := (enum (wordBytes (BitVec.ofNat 64 x))).map (fun ib => (k + 8 * ib.1, ib.2))

/-- R254: page tables that map the first GiB of HBM readable, writable and executable: root, level 3, a leaf at level 2. -/
def handTables : List Host.Cell :=
  wordCells (kHbm 0x1000) 0x2001 ++ (wordCells (kHbm 0x2000) 0x3001 ++ wordCells (kHbm 0x3000) 0xE03)

/-- The 24 bytes of an instruction at address 0x10000. -/
def handCode (nbits x : Nat) : List Host.Cell :=
  (enum (tableBytes (x % 2 ^ nbits))).map (fun ib => (kHbm (0x10000 + ib.1), ib.2))

/-- R43: whether only a matrix wave may issue the instruction. -/
def needsMatrix (nbits x : Nat) : Bool := match decodeTableWord nbits x with
  | some i => (match formSpec i with
    | some g => g.major == 0xC0
    | none => false)
  | none => false

/-- R380: the descriptor of the hand-placed launch: one task of one quad, one wave on each core, 8 tiles for a matrix
wave, entry at 0x10000. -/
def handDesc (m : Bool) : List Word :=
  [BitVec.ofNat 64 (2 ^ 27 + 2 ^ 24), BitVec.ofNat 64 (2 ^ 42 + (if m then 2 ^ 36 else 2 ^ 24) + 8 * 2 ^ 20), 0, 0,
   0x10000, 0x10000, 0x10000, 0, 0, 0, 0, 0, 0, 0, 0, 0]

/-- The device with one context, one launch, one resident task, and its first wave, whose split issues next. -/
def handDev (d : Dev) (m : Bool) : Dev :=
  let l : Launch := { Launch.fresh 1 1 0 (handDesc m) with state := .running }
  let c := { newCtx 1 0 0 0x1000 with nextLaunch := 2 }
  let t : Task := { newTask l 0 0 d.cc with
    state := .resident, placedOnce := true, quads := [{ share := 0, placed := 0, bufs := [], rings := [], descs := [] }]
    cores := List.replicate 4 TaskCore.reset }
  let d := { d with ctxs := [c], launches := [l], tasks := [t], waves := [] }
  let v := newWave d l t 0 0 0 0
  let ready (p : Split) : Split := { p with readyAt := d.cc }
  { d with
    powered := true, traps := [], tried := [], waves := [{ v with uid := 0, sched := 0, slot := 0, splits := v.splits.map ready }]
    agenda := [.issue 0 0] }

/-- The state with one instruction where the next step fetches. -/
def handState (s : State) (nbits x : Nat) : State :=
  { dev := handDev s.dev (needsMatrix nbits x), mem := s.mem.writeAll (handCode nbits x ++ handTables) }

end Sys2Proof.Machine
end

