-- ==== Sys2Proof/Machine/Step.lean ====
section
/-! DEFINITION. The step of the machine, and the placing of one instruction where it fetches. -/

namespace Sys2Proof.Machine

/-- One step of the package: one issue of a split, or one step of the device, the host or the outside. -/
def step (s : State) : Host.Outcome State Fault Refusal := move s

/-- `s` with the instruction whose bits are `w` (bits from `nbits` up being zero) stored at 0x10000 of a context whose
only split issues next (log 2). -/
def State.withFetchWord (s : State) (nbits w : Nat) : State := handState s nbits w

end Sys2Proof.Machine
end

