-- ==== Sys2Proof/Safety.lean ====
section
/-! DEFINITION. The terms in which claims about the machine are stated: what it is for a split to issue an instruction, what
an issue that retires leaves, what a step of the device writes, and what a safe state is. -/

namespace Sys2Proof.Machine

/-! ## Safe states -/

/-- A state is safe where its memory has the canonical form, so that equal memories are equal data. -/
def State.Safe (s : State) : Prop := s.mem.wf = true

/-! ## Issues (R83) -/

/-- R83: in `s` the split `x.p` of the wave `x.v` tries to issue `i`: it is the split that issues, and the units `i` needs are
free (R51). `x` is the issue in progress, before the instruction has any effect. -/
structure Attempts (s : State) (i : Instr) (x : Iss) : Prop where
  issuer : s.dev.issuer = some (x.v.uid, x.p.num)
  wave : s.dev.wave x.v.uid = some x.v
  split : x.v.split x.p.num = some x.p
  spec : formSpec i = some x.g
  form : formOf i = some x.f
  work : x.w = s.work
  instr : x.i = i
  lanes : x.lanes = maskOf (activeLanes x.v x.p x.f)
  units : unitFree s.dev x.v x.g = .free

/-- R83: the split issues `i`: the form passes the checks of its encoding (R82), no home-side match stops it at a safe point it
begins (R431), and its role may issue it (R43). -/
structure Issues (s : State) (i : Instr) (x : Iss) : Prop extends Attempts s i x where
  encoded : formOk x.g i x.f = true
  unwatched : (x.f.st && x.p.stage == .idle && x.v.homeWatch.isSome) = false
  role : roleOk x.v.role i x.g = true

/-- R83 steps 4 and 5: the guard and the sources of some lanes can be read: nothing pending, inboxes filled, no EMPTY entry,
and every tag among those the instruction accepts, unless RAW suspends that check. -/
def Iss.Readable (x : Iss) (ls : List Nat) (accs : List (List Ty)) : Prop := x.gate ls accs = .ready

/-- R71: the guard's predicate is pending in no lane of the mask. -/
def Iss.GuardReady (x : Iss) : Prop := guardPending x.cc x.v x.p x.f = false

/-- R71, R101: the predicates an instruction names are pending in no active lane. -/
def Iss.PredsReady (x : Iss) (ks : List Nat) : Prop :=
  x.active.any (fun l => ks.any (predPending x.cc (x.v.lane l))) = false

/-! ## What an instruction answers -/

/-- The instruction's next state is that of a step in progress. -/
def Answers (s : State) (i : Instr) (w : Work) : Prop := exec i s = .next (w.after s)

/-- R68, R103, R110: the issue with its inbox entries popped and results delivered: in each active lane `res`, to be read
`lat` cc later; in each other lane of the home set zeros of the same tags. -/
def Iss.delivered (x : Iss) (lat : Nat) (tags : List Ty) (res : Nat → List (Word × Ty)) : Iss :=
  x.pop.deliver x.active tags (fun l => (res l).map (x.entry lat))

/-- R29, R68, R110: the instruction retires with results of these tags `lat` cc later in the active lanes, having occupied
its units for `occ`; nothing else changes but the popped inbox entries. -/
def Delivers (s : State) (i : Instr) (x : Iss) (lat : Nat) (tags : List Ty) (occ : Occupancy) : Prop :=
  ∃ res : Nat → List (Word × Ty), (∀ l ∈ x.active, (res l).map Prod.snd = tags) ∧
    Answers s i ((x.delivered lat tags res).doneOcc occ)

/-- R69: the instruction retires, having written a predicate in the active lanes, to be read `lat` cc later. -/
def Predicates (s : State) (i : Instr) (x : Iss) (lat : Nat) (val : Nat → Bool) : Prop :=
  Answers s i (x.pop.setPred x.active x.f.pd lat val).done

/-! ## What a step leaves unchanged -/

/-- Every register and every other item of a wave but its lanes, splits, counters, inboxes and flags. -/
def KeepsWave (v u : Wave) : Prop :=
  u = { v with
    lanes := u.lanes, splits := u.splits, counters := u.counters, inboxes := u.inboxes, fpFlags := u.fpFlags
    intFlag := u.intFlag, raisedAt := u.raisedAt }

/-- Every byte of memory reads as before. -/
def KeepsMemory (s t : State) : Prop := ∀ a, t.mem.read a = s.mem.read a

/-- Every byte of memory outside a set of keys reads as before. -/
def KeepsOutside (s t : State) (stored : List Nat) : Prop := ∀ a, a ∉ stored → t.mem.read a = s.mem.read a

/-- The bytes a step in progress has written, by key. -/
def Work.keys (w : Work) : List Nat := w.ws.map Prod.fst

/-! ## Steps of the device -/

/-- A step of the device answers the state with this device, memory being as it was. -/
def Leaves (s : State) (i : Instr) (d : Dev) : Prop := exec i s = .next { dev := d, mem := s.mem }

end Sys2Proof.Machine
end

