-- ==== Sys2Proof/Certificates/Slice0/Obligations.lean ====
section
/-! DEFINITION. The statements for the provers: what the numbered rules of spec/ say the machine does, stated of `exec`
and `step`. The tables before a statement say, in the words of its rules, what each form it covers computes. -/

open Sys2Proof
open Sys2Proof.Machine

/-! ## Integer arithmetic, shifts, logic and bit fields (R112 to R121) -/

/-- R112: `nop` reads nothing, writes nothing and pushes nothing, in any lane and under any guard. -/
def Obligations.NopOnlyAdvances : Prop :=
  ∀ (s : State) (f : Form) (x : Iss), Issues s (.nop f) x → Answers s (.nop f) x.done

namespace Sys2Proof.Machine

/-- R113, R110: the exact value of each form that R77 finishes, and its latency, of class A or M. -/
def exactForms (t : Ty) (f : Form) : List (Instr × (Int → Int → Int → Int) × Nat) :=
  [(.iadd f, fun a b _ => a + b, latA), (.isub f, fun a b _ => a - b, latA), (.imul f, fun a b _ => a * b, latM t),
   (.imulh f, fun a b _ => (a * b).fdiv (2 ^ tyWidth t), latM t), (.imad f, fun a b c => a * b + c, latM t),
   (.iabsd f, fun a b _ => (a - b).natAbs, latA), (.imin f, fun a b _ => min a b, latA), (.imax f, fun a b _ => max a b, latA)]

end Sys2Proof.Machine

/-- R113, R77, R110: each of these forms retires with the exact value of its modified sources, clamped, then saturated or
wrapped, in every active lane. -/
def Sys2Proof.Machine.Claims.IntegerFormsDeliver : Prop :=
  ∀ (s : State) (i : Instr) (f : Form) (x : Iss) (op : Int → Int → Int → Int) (lat : Nat), (i, op, lat) ∈ exactForms f.ty f →
    Issues s i x → x.Readable x.active (List.replicate 3 (intTags x.f.ty)) →
    Answers s i (x.delivered lat [x.f.ty] (fun l =>
      let a := intSources x.f (x.vals l)
      [(intFinish x.f.ty x.f.modw (op (arg a 0) (arg a 1) (arg a 2)), x.f.ty)])).done

namespace Sys2Proof.Machine

/-- R72, R109: an integer, mask or pointer type. -/
def intTy (t : Ty) : Bool := match t with
  | .i32 | .n32 | .i64 | .n64 | .ptr | .mask => true
  | _ => false

/-- R72: two numbers added, subtracted or multiplied as 32-bit or 64-bit words. -/
def atWidth (t : Ty) (op32 : BitVec 32 → BitVec 32 → BitVec 32) (op64 : Word → Word → Word) (a b : Word) : Word :=
  if tyWidth t = 32 then (op32 (a.setWidth 32) (b.setWidth 32)).setWidth 64 else op64 a b

end Sys2Proof.Machine

/-- R77, R109, R113: without a modifier word, a sum, a difference and a product are those of w-bit words, signed or not; and
under SAT a signed result is the exact value where it fits, and else the bound it passes. -/
def Obligations.IntegerResultsWrapOrSaturate : Prop :=
  ∀ (t : Ty) (a b : Word), intTy t = true →
    intFinish t none (intVal t a + intVal t b) = atWidth t (· + ·) (· + ·) a b ∧
    intFinish t none (intVal t a - intVal t b) = atWidth t (· - ·) (· - ·) a b ∧
    intFinish t none (intVal t a * intVal t b) = atWidth t (· * ·) (· * ·) a b ∧
    ∀ (m : Modifier) (v : Int), m.sat = true → m.clamp = .none →
      intVal t (intFinish t (some m) v) = if v < intMin t then intMin t else if intMax t < v then intMax t else v

namespace Sys2Proof.Machine

/-- R114: whether some active lane divides by zero. -/
def Iss.dividesByZero (x : Iss) : Bool := x.active.any (fun l => arg (intSources x.f (x.vals l)) 1 == 0)

/-- R114: the quotient, or the remainder; all ones where the divisor is zero. -/
def Iss.quotient (x : Iss) (rem : Bool) (l : Nat) : Word :=
  let a := arg (intSources x.f (x.vals l)) 0
  let b := arg (intSources x.f (x.vals l)) 1
  if b = 0 then fit x.f.ty (BitVec.allOnes 64)
  else intFinish x.f.ty x.f.modw (if rem then a - b * a.tdiv b else a.tdiv b)

end Sys2Proof.Machine

/-- R114: `idiv` and `irem` retire whatever the operands; the integer sticky flag is set where some lane divided by zero, and
kept elsewhere. -/
def Sys2Proof.Machine.Claims.DivisionNeverTraps : Prop :=
  ∀ (s : State) (f : Form) (x : Iss) (rem : Bool), Issues s (if rem then .irem f else .idiv f) x →
    x.Readable x.active (List.replicate 2 (intTags x.f.ty)) →
    Answers s (if rem then .irem f else .idiv f)
      ((x.intFlag x.dividesByZero).delivered (latD x.f.ty) [x.f.ty] (fun l => [(x.quotient rem l, x.f.ty)])).done

/-- R115, R116: `iaddc` delivers the w-bit sum and then the carry; `lea` the scaled and offset address in 57 bits. -/
def Sys2Proof.Machine.Claims.CarryAndAddressForms : Prop :=
  (∀ (s : State) (f : Form) (x : Iss), Issues s (.iaddc f) x →
    x.Readable x.active (List.replicate 3 (intTags x.f.ty)) →
    Answers s (.iaddc f) (x.delivered latA [x.f.ty, x.f.ty] (fun l =>
      let v := natVal x.f.ty (opnd (x.vals l) 0) + natVal x.f.ty (opnd (x.vals l) 1) + natVal x.f.ty (opnd (x.vals l) 2) % 2
      [(BitVec.ofNat 64 (v % 2 ^ tyWidth x.f.ty), x.f.ty),
       (if 2 ^ tyWidth x.f.ty ≤ v then 1 else 0, x.f.ty)])).done) ∧
  (∀ (s : State) (f : Form) (x : Iss), Issues s (.lea f) x → x.Readable x.active [intTags .ptr, countTags] →
    Answers s (.lea f) (x.delivered latA [.ptr] (fun l =>
      let a : VAddr := (opnd (x.vals l) 0).setWidth 57
      let b := intVal (fmtOf countTags (opndTag (x.vals l) 1)) (opnd (x.vals l) 1)
      let b : VAddr := BitVec.ofInt 57 (match x.f.modw with
        | some m => if m.nb then -b else b
        | none => b)
      [((a + b <<< bits x.f.x13 0 3).setWidth 64, .ptr)])).done)

namespace Sys2Proof.Machine

/-- R117: the result of each shift of a word by n. -/
def shiftForms (f : Form) : List (Instr × ((w : Nat) → BitVec w → Nat → BitVec w)) :=
  [(.shl f, fun _ a n => a <<< n), (.shr f, fun _ a n => a >>> n), (.sar f, fun _ a n => a.sshiftRight n),
   (.rotl f, fun w a n => a.rotateLeft (n % w))]

end Sys2Proof.Machine

/-- R117: the four shifts, as shifts of 32-bit or 64-bit words; a count at or past the width shifts every bit out. -/
def Sys2Proof.Machine.Claims.ShiftsDeliver : Prop :=
  ∀ (s : State) (i : Instr) (f : Form) (x : Iss) (op : (w : Nat) → BitVec w → Nat → BitVec w), (i, op) ∈ shiftForms f →
    Issues s i x → x.Readable x.active [intTags x.f.ty, if isLiteral x.f.sb then [] else countTags] →
    Answers s i (x.delivered latA [x.f.ty] (fun l =>
      let a := opnd (x.vals l) 0
      let n := countOf x (x.vals l)
      [(if tyWidth x.f.ty = 32 then (op 32 (a.setWidth 32) n).setWidth 64 else op 64 a n, x.f.ty)])).done

namespace Sys2Proof.Machine

/-- R118, R119: the result of each logic and bit-field form on w-bit operands, with its tag. -/
def bitForms (t : Ty) (f : Form) : List (Instr × (Word → Word → Word) × Ty) :=
  let n (x : Nat) : Word := BitVec.ofNat 64 x
  let (pos, len) := (bits f.x13 0 6, bits f.x13 6 7)
  [(.and f, fun a b => a &&& b, t), (.or f, fun a b => a ||| b, t), (.xor f, fun a b => a ^^^ b, t),
   (.andn f, fun a b => a &&& ~~~b, t), (.not f, fun a _ => fit t (~~~a), t),
   (.popc f, fun a _ => n (popBits a), .n32), (.clz f, fun a _ => n (clzBits (tyWidth t) a), .n32),
   (.ctz f, fun a _ => n (ctzBits (tyWidth t) a), .n32), (.brev f, fun a _ => n (revBits (tyWidth t) a), t),
   (.bfx f, fun a _ => fieldOf t pos len a, t), (.bfi f, fun a b => fit t (insertField pos len a b), t)]

end Sys2Proof.Machine

/-- R118, R119, R121: the logic and bit-field forms, and `perm`. -/
def Sys2Proof.Machine.Claims.LogicAndFieldFormsDeliver : Prop :=
  (∀ (s : State) (i : Instr) (f : Form) (x : Iss) (op : Word → Word → Word) (tag : Ty), (i, op, tag) ∈ bitForms f.ty f →
    Issues s i x → x.Readable x.active (List.replicate 3 (intTags x.f.ty)) →
    Answers s i (x.delivered latA [tag] (fun l =>
      [(op (fit x.f.ty (opnd (x.vals l) 0)) (fit x.f.ty (opnd (x.vals l) 1)), tag)])).done) ∧
  (∀ (s : State) (f : Form) (x : Iss), Issues s (.perm f) x →
    x.Readable x.active [intTags x.f.ty, intTags x.f.ty, [.i32, .n32]] →
    Answers s (.perm f) (x.delivered latA [x.f.ty] (fun l =>
      let v (k : Nat) : Word := fit x.f.ty (opnd (x.vals l) k)
      [(BitVec.ofNat 64 (permBytes (tyWidth x.f.ty) (v 0) (v 1) (fit .n32 (opnd (x.vals l) 2))), x.f.ty)])).done)

/-- The integer, shift, logic and bit-field forms retire with their results: the claims above. -/
def Obligations.IntegerFormsComplete : Prop :=
  Claims.IntegerFormsDeliver ∧
  Claims.DivisionNeverTraps ∧
  Claims.CarryAndAddressForms ∧
  Claims.ShiftsDeliver ∧
  Claims.LogicAndFieldFormsDeliver

/-- R119: bit i of `brev` is bit w−1−i of its operand, bits pos to pos+len−1 of `bfi` come from b and the others from a, and
`bfx` under an unsigned TY is the field, right-aligned. -/
def Obligations.BitFieldsAreFields : Prop :=
  ∀ (w pos len k : Nat) (a b : Word), w ≤ 64 → pos + len ≤ 64 → k < 64 →
    (k < w → (BitVec.ofNat 64 (revBits w a)).getLsbD k = a.getLsbD (w - 1 - k)) ∧
    (insertField pos len a b).getLsbD k = (if pos ≤ k ∧ k < pos + len then b.getLsbD (k - pos) else a.getLsbD k) ∧
    (fieldOf .n64 pos len a).getLsbD k = (decide (k < len) && a.getLsbD (pos + k))

/-! ## Comparison, predicates and selection (R122 to R125, R139) -/

namespace Sys2Proof.Machine

/-- R122: a condition on two words of TY, compared signed under I32 and I64 and unsigned otherwise. -/
def condBits (t : Ty) (c : Cond) (a b : Word) : Bool :=
  let lt (x y : Word) : Bool :=
    if tyWidth t = 32 then
      (if tySigned t then (x.setWidth 32).slt (y.setWidth 32) else (x.setWidth 32).ult (y.setWidth 32))
    else if tySigned t then x.slt y else x.ult y
  match c with
  | .eq => fit t a == fit t b | .ne => fit t a != fit t b
  | .lt => lt a b | .ge => !lt a b | .gt => lt b a | .le => !lt b a

end Sys2Proof.Machine

/-- R122, R125: `icmp` without a modifier word and `ptest` write their predicate in every active lane. -/
def Sys2Proof.Machine.Claims.ComparisonsWritePredicates : Prop :=
  (∀ (s : State) (c : Cond) (f : Form) (x : Iss), Issues s (.icmp c f) x → x.f.modw = none →
    x.Readable x.active (List.replicate 2 (intTags x.f.ty)) →
    Predicates s (.icmp c f) x latA (fun l => condBits x.f.ty c (opnd (x.vals l) 0) (opnd (x.vals l) 1))) ∧
  (∀ (s : State) (c : Cond) (f : Form) (x : Iss) (m : Modifier), Issues s (.icmp c f) x → x.f.modw = some m →
    x.Readable x.active (List.replicate 2 (intTags x.f.ty)) →
    Predicates s (.icmp c f) x latA (fun l =>
      condHolds c (intSource x.f.ty m.aa m.na (opnd (x.vals l) 0)) (intSource x.f.ty m.ab m.nb (opnd (x.vals l) 1)))) ∧
  (∀ (s : State) (f : Form) (x : Iss), Issues s (.ptest f) x → x.Readable x.active [intTags x.f.ty] →
    Predicates s (.ptest f) x latA (fun l => (opnd (x.vals l) 0).getLsbD l))

namespace Sys2Proof.Machine

/-- R123, R124: the first and the second predicate X13 names, in a lane. -/
def Iss.predA (x : Iss) (l : Nat) : Bool := namedPred (x.v.lane l) (bits x.f.x13 0 3) (x.f.x13.getLsbD 3)
def Iss.predB (x : Iss) (l : Nat) : Bool := namedPred (x.v.lane l) (bits x.f.x13 4 3) (x.f.x13.getLsbD 7)

/-- R124, R139: the predicates the predicate forms read, and what they write in a lane. -/
def predicateForms (x : Iss) (f : Form) : List (Instr × List Nat × (Nat → Bool)) :=
  let (a, b) := (bits f.x13 0 3, bits f.x13 4 3)
  [(.pand f, [a, b], fun l => x.predA l && x.predB l), (.por f, [a, b], fun l => x.predA l || x.predB l),
   (.pxor f, [a, b], fun l => xor (x.predA l) (x.predB l)), (.pnot f, [a], fun l => !x.predA l), (.pmov f, [a], x.predA),
   (.voteAll f, [a], fun _ => x.active.all x.predA), (.voteAny f, [a], fun _ => x.active.any x.predA)]

end Sys2Proof.Machine

/-- R124, R139: the predicate forms and the votes that write a predicate. -/
def Sys2Proof.Machine.Claims.PredicateFormsWrite : Prop :=
  ∀ (s : State) (i : Instr) (f : Form) (x : Iss) (ks : List Nat) (val : Nat → Bool), (i, ks, val) ∈ predicateForms x f →
    Issues s i x → x.PredsReady ks → x.Readable x.active [] → Predicates s i x latA val

/-- Comparisons, predicate forms and votes write their predicate: the claims above. -/
def Obligations.PredicateFormsComplete : Prop :=
  Claims.ComparisonsWritePredicates ∧ Claims.PredicateFormsWrite

namespace Sys2Proof.Machine

/-- R123, R128, R135: the tags `sel`, `mov` and `retag` accept, and what they deliver in a lane. -/
def movedForms (x : Iss) (f : Form) : List (Instr × List (List Ty) × (Nat → Word × Ty)) :=
  let raw := f.ty = .raw
  let own (l k : Nat) : Ty := if raw then opndTag (x.vals l) k else f.ty
  [(.sel f, if raw then [] else [[f.ty], [f.ty]], fun l =>
     let s := selSources x.f (x.vals l)
     if x.predA l then (s.1, own l 0) else (s.2, own l 1)),
   (.mov f, if raw then [] else [[f.ty]], fun l => (opnd (x.vals l) 0, own l 0)),
   (.retag f, [], fun l => (opnd (x.vals l) 0, f.ty))]

end Sys2Proof.Machine

/-- R123, R128, R135: `sel` chooses by a predicate, `mov` copies, `retag` gives the same bits another tag. Under TY RAW a
value moves with the tag it has. -/
def Sys2Proof.Machine.Claims.MovesDeliver : Prop :=
  ∀ (s : State) (i : Instr) (f : Form) (x : Iss) (accs : List (List Ty)) (res : Nat → Word × Ty),
    (i, accs, res) ∈ movedForms x f → Issues s i x → (i = .sel f → x.PredsReady [bits x.f.x13 0 3]) →
    x.Readable x.active accs → Answers s i (x.delivered latA [x.f.ty] (fun l => [res l])).done

/-! ## The queue and the frame (R92, R126 to R134) -/

/-- R68, R92, R70, R103: what a lane holds once results are delivered. Results are pushed in order, so that the last ends at
q1; the entries pushed past q16 are gone. In the active lanes the frame takes the results from FD up; in the other lanes of
the home set zeros of the same tags are pushed and the frame is kept; every other lane is kept whole. Predicates are kept. -/
def Obligations.ResultsStandInTheQueue : Prop :=
  ∀ (x : Iss) (lat : Nat) (tags : List Ty) (res : Nat → List (Word × Ty)) (l : Nat), l < x.v.lanes.length →
    (x.v.lane l).q.length = 16 →
    let y := (x.delivered lat tags res).v.lane l
    let old := x.v.lane l
    let zeros := tags.map (fun t => ({ val := 0, tag := t, pend := .clear } : Entry))
    y.p = old.p ∧
    (x.active.contains l = true →
      y.q = (if pushes x.f.ds then (((res l).map (x.entry lat)).reverse ++ old.q).take 16 else old.q) ∧
      (frames x.f.ds = false → y.f = old.f) ∧
      (frames x.f.ds = true → ∀ k, k < old.f.length →
        y.f[k]? = if x.f.fd.toNat ≤ k ∧ k < x.f.fd.toNat + (res l).length
          then ((res l)[k - x.f.fd.toNat]?).map (x.entry lat) else old.f[k]?)) ∧
    (x.active.contains l = false → inMask x.p.home l = true →
      y.q = (if pushes x.f.ds then (zeros.reverse ++ old.q).take 16 else old.q) ∧ y.f = old.f) ∧
    (x.active.contains l = false → inMask x.p.home l = false → y = old)

/-- R69, R71, R101: a predicate is written in the active lanes alone, and never p7; queues and frames are kept. -/
def Obligations.PredicatesStandInTheLanes : Prop :=
  ∀ (x : Iss) (pd lat : Nat) (val : Nat → Bool) (l k : Nat), l < x.v.lanes.length → (x.v.lane l).p.length = 7 → k < 8 →
    let y := (x.setPred x.active pd lat val).v.lane l
    y.q = (x.v.lane l).q ∧ y.f = (x.v.lane l).f ∧
    predVal y k = (if k = 7 then true else if x.active.contains l ∧ k = pd then val l else predVal (x.v.lane l) k) ∧
    (pd < 7 → x.active.contains l = true → 0 < lat →
      predPending (x.cc + lat - 1) y pd = true ∧ predPending (x.cc + lat) y pd = false)

namespace Sys2Proof.Machine

/-- The issue with its active lanes, or the lanes of its home set, changed. -/
def Iss.withLanes (x : Iss) (g : Lane → Lane) : Iss := x.mapLanes (fun l => x.active.contains l) (fun _ l => g l)
def Iss.withHome (x : Iss) (g : Lane → Lane) : Iss := x.mapLanes (inMask x.p.home) (fun _ l => g l)

/-- R131: n entries removed from age a, counted from 0; the older ones become younger, and the oldest ages EMPTY. -/
def Lane.without (l : Lane) (a n : Nat) : Lane :=
  { l with q := l.q.take a ++ l.q.drop (a + n) ++ List.replicate n Entry.empty }

/-- The issue with the push count of its split's mark changed (R126). -/
def Iss.counted (x : Iss) (n : Int) : Iss := { x with p := addCount x.p n }

end Sys2Proof.Machine

/-- R126, R129 to R132: `swap` exchanges two entries and `rot` moves qn to q1, in the active lanes; `drop` removes n entries in
the home set, whatever the mask, and counts −n; `pad` pushes n entries of tag EMPTY in every lane of the home set. The results
and the zeros that a form pushes count toward the top mark of its split's level, whose count stays once it has reached −128 or
127 (R207), and a negative count has no entry in a layout word. -/
def Obligations.QueueFormsReshape : Prop :=
  (∀ (s : State) (f : Form) (x : Iss), Issues s (.drop f) x → Answers s (.drop f)
    ((x.withHome (fun l => l.without (ageOf x.f.sa) x.f.n)).counted (-(x.f.n : Int))).done) ∧
  (∀ (s : State) (f : Form) (x : Iss), Issues s (.swap f) x → x.GuardReady → Answers s (.swap f)
    (x.withLanes (fun l => setEntry (setEntry l x.f.sa (entryAt l x.f.sb)) x.f.sb (entryAt l x.f.sa))).done) ∧
  (∀ (s : State) (f : Form) (x : Iss), Issues s (.rot f) x → x.GuardReady → Answers s (.rot f)
    (x.withLanes (fun l => { l with q := l.q.getD (x.f.n - 1) Entry.empty :: (l.q.take (x.f.n - 1) ++ l.q.drop x.f.n) })).done) ∧
  (∀ (s : State) (f : Form) (x : Iss), Issues s (.pad f) x → x.GuardReady → ∃ y : Iss, Answers s (.pad f) y.done ∧
    y = { x with v := y.v, p := addCount x.p x.f.n } ∧
    y.v = { x.v with lanes := y.v.lanes } ∧ y.v.lanes.length = x.v.lanes.length ∧
    ∀ l, l < x.v.lanes.length → y.v.lane l = (if inMask x.p.home l
      then { (x.v.lane l) with q := (List.replicate x.f.n Entry.empty ++ (x.v.lane l).q).take 16 } else x.v.lane l)) ∧
  (∀ (x : Iss) (lat : Nat) (tags : List Ty) (res : Nat → List (Word × Ty)), (x.delivered lat tags res).p =
    if x.f.ds = .push ∨ x.f.ds = .pushFrame then addCount x.p tags.length else x.p) ∧
  (∀ (p : Split) (m : Mark) (ms : List Mark) (n : Int), p.marks = m :: ms → m.depth = p.depth → -128 < m.count → m.count < 127 →
    topCount (addCount p n) = max (-128) (min 127 (m.count + n))) ∧
  (∀ (w : Option Word) (c : Int), c < 0 → layoutFor w c = none)

namespace Sys2Proof.Machine

/-- R133, R134, R225, R226: what the forms that read no value deliver in a lane, with its tag. `qtag` shows the tag an entry has
in this cc: of a slot's value on its way it is N64 until the cc in which it may be read (R91). -/
def readForms (x : Iss) (f : Form) : List (Instr × (Nat → Word) × Ty) :=
  [(.qdepth f, fun l => BitVec.ofNat 64 ((x.v.lane l).q.countP (fun e => e.tag != .empty)), .n32),
   (.qtag f, fun l =>
      let e := entryAt (x.v.lane l) x.f.sa
      BitVec.ofNat 64 ((tyCode (e.shownTag x.cc)).toNat + (if e.pending x.cc then 16 else 0)), .n32),
   (.maskrd f, fun _ => x.p.emask.setWidth 64, .mask),
   (.splitrd f, fun _ => match bits x.f.x13 0 2 with
      | 0 => x.p.home.setWidth 64
      | 1 => (match x.p.marks with
        | [] => 0
        | m :: ms => BitVec.ofNat 64 ((ms.length + 1) * 65536 + (m.count % 256).toNat * 256 + m.id))
      | _ => BitVec.ofNat 64 (x.v.splits.length * 256 + x.v.ageIndex x.p), if bits x.f.x13 0 2 = 0 then .mask else .n32)]

end Sys2Proof.Machine

/-- R133, R134, R225, R226: `qdepth`, `qtag`, `maskrd` and `splitrd`; and `maskwr`, by the lowest lane of the home set, whatever
the mask. With a mask of 0 no lane is active. -/
def Obligations.StateReadsDeliver : Prop :=
  (∀ (s : State) (i : Instr) (f : Form) (x : Iss) (val : Nat → Word) (tag : Ty), (i, val, tag) ∈ readForms x f → Issues s i x →
    x.GuardReady → Answers s i (x.deliver x.active [tag] (fun l => [x.entry latA (val l, tag)])).done) ∧
  (∀ (s : State) (f : Form) (x : Iss) (low : Nat) (rest : List Nat), Issues s (.maskwr f) x → lanesOf x.p.home = low :: rest →
    x.Readable [low] [[.mask, .i32, .n32]] →
    let a : LaneMask := (opnd (x.vals low) 0).setWidth 32
    Answers s (.maskwr f) ({ x with
      v := popInboxes x.v x.srcs, p := { x.p with emask := (a &&& x.p.home) ||| (x.p.emask &&& ~~~x.p.home) } } : Iss).done) ∧
  (∀ x : Iss, x.p.emask = 0 → x.active = [])

/-! ## Lanes (R136 to R143) -/

namespace Sys2Proof.Machine

/-- R137: the lane each shuffle reads for lane l, given its operand b; it may lie outside 0 to 31. -/
def shuffleForms (f : Form) : List (Instr × (Nat → Nat → Int)) :=
  [(.shflIdx f, fun _ b => (b % 32 : Nat)), (.shflUp f, fun l b => (l : Int) - b), (.shflDown f, fun l b => (l : Int) + b),
   (.shflXor f, fun l b => ((l ^^^ b % 32 : Nat) : Int))]

/-- R137: a value taken from a lane; under TY RAW it keeps the tag found there. -/
def Iss.takenFrom (x : Iss) (k : Nat) : Word × Ty :=
  (opnd (x.vals k) 0, if x.f.ty = .raw then opndTag (x.vals k) 0 else x.f.ty)

/-- R137, R138: the tags of the moved value and of the lane operand. -/
def moveAccepts (x : Iss) : List (List Ty) := [if x.f.ty = .raw then [] else [x.f.ty], [.i32, .n32]]

end Sys2Proof.Machine

/-- R137, R138: an active lane takes the value of the lane its operand names where that lane is active, else its own; all
lanes of a broadcast take the value of one lane, which the lowest active lane names. -/
def Sys2Proof.Machine.Claims.LaneMovesDeliver : Prop :=
  (∀ (s : State) (i : Instr) (f : Form) (x : Iss) (src : Nat → Nat → Int), (i, src) ∈ shuffleForms f → Issues s i x →
    x.Readable x.active (moveAccepts x) →
    Answers s i (x.delivered latShfl [x.f.ty] (fun l =>
      let k := src l (bits (opnd (x.vals l) 1) 0 32)
      [x.takenFrom (if 0 ≤ k ∧ x.active.contains k.toNat then k.toNat else l)])).done) ∧
  (∀ (s : State) (f : Form) (x : Iss), Issues s (.bcast f) x → x.Readable x.active (moveAccepts x) →
    Answers s (.bcast f) (x.delivered latShfl [x.f.ty] (fun _ =>
      let low := x.active.headD 0
      let k := bits (opnd (x.vals low) 1) 0 5
      [x.takenFrom (if x.active.contains k then k else low)])).done)

/-- R139, R140: `vote.ballot` delivers the set of active lanes in which a predicate holds, and `match` that of the active
lanes whose entry equals this lane's in bits and tag, as masks. -/
def Sys2Proof.Machine.Claims.LaneSetsDeliver : Prop :=
  (∀ (s : State) (f : Form) (x : Iss), Issues s (.voteBallot f) x → x.PredsReady [bits x.f.x13 0 3] →
    x.Readable x.active [] →
    ∃ m : LaneMask, (∀ j, j < 32 → m.getLsbD j = (x.active.contains j && x.predA j)) ∧
      Answers s (.voteBallot f) (x.delivered latShfl [.mask] (fun _ => [(m.setWidth 64, .mask)])).done) ∧
  (∀ (s : State) (f : Form) (x : Iss), Issues s (.matchLanes f) x → x.Readable x.active [if x.f.ty = .raw then [] else [x.f.ty]] →
    ∃ m : Nat → LaneMask, (∀ l j, j < 32 → (m l).getLsbD j = (x.active.contains j && decide (x.vals j = x.vals l))) ∧
      Answers s (.matchLanes f) (x.delivered latShfl [.mask] (fun l => [((m l).setWidth 64, .mask)])).done)

namespace Sys2Proof.Machine

/-- What a float form needs and gives: the tags it accepts, its latency, its occupancy, its results' tags, and a lane's
results and flags. -/
structure FloatForm where
  accs : List (List Ty)
  lat : Nat
  occ : Occupancy
  tags : List Ty
  out : Nat → List (Word × Ty) × Fl

/-- R154: the flags the executing lanes raise together. -/
def FloatForm.flags (g : FloatForm) (x : Iss) : Fl := orFlags (x.active.map (fun l => (g.out l).2))

/-- R155: a form completes where no flag it raises is enabled: the flags are set, and the results delivered. -/
def FloatForm.completes (g : FloatForm) (s : State) (i : Instr) (x : Iss) : Prop :=
  x.Readable x.active g.accs → g.flags x &&& x.v.fpTrapEn = 0 →
    Answers s i (((x.flag (g.flags x)).delivered g.lat g.tags (fun l => (g.out l).1)).doneOcc g.occ)

/-- R141, R142: a reduction over the binary tree of the lanes. -/
def wredForm (o : RedOp) (x : Iss) : FloatForm where
  accs := [redTags x.f.ty]
  lat := latRed x.f.ty
  occ := {}
  tags := [x.f.ty]
  out := fun l => redResult o (fun vs _ => treeOf o x.f.ty vs) x l (x.vals l)

/-- R143: a scan, exclusive where `ex` holds. -/
def wscanForm (o : RedOp) (ex : Bool) (x : Iss) : FloatForm where
  accs := [redTags x.f.ty]
  lat := latScan x.f.ty
  occ := {}
  tags := [x.f.ty]
  out := fun l => redResult o (fun vs l =>
    if ex then (if l = 0 then none else (scanOf o x.f.ty vs).getD (l - 1) none) else (scanOf o x.f.ty vs).getD l none) x l (x.vals l)

end Sys2Proof.Machine

/-- R141 to R143: `wred` and `wscan` deliver what the tree and the scan of the rules give. -/
def Sys2Proof.Machine.Claims.ReductionsDeliver : Prop :=
  (∀ (s : State) (o : RedOp) (f : Form) (x : Iss), Issues s (.wred o f) x → (wredForm o x).completes s (.wred o f) x) ∧
  (∀ (s : State) (o : RedOp) (ex : Bool) (f : Form) (x : Iss), Issues s (.wscan o ex f) x →
    (wscanForm o ex x).completes s (.wscan o ex f) x)

/-- sel, mov, retag and the lane forms retire with their results: the claims above. Where the rules leave a point open they state
the model's choice: the zero a lane outside the active ones takes under TY RAW has tag RAW (log 66, DESIGN CHOICE), and the flags
of a float `wred` or `wscan` (log 31). -/
def Obligations.MovesAndLaneFormsComplete : Prop :=
  Claims.MovesDeliver ∧ Claims.LaneMovesDeliver ∧ Claims.LaneSetsDeliver ∧ Claims.ReductionsDeliver

namespace Sys2Proof.Machine

/-- The sum of the integers some lanes put in. -/
def Iss.sumOver (x : Iss) (ls : List Nat) : Int := (ls.map (fun l => intVal x.f.ty (opnd (x.vals l) 0))).sum

end Sys2Proof.Machine

/-- R141 to R143: over integers, `wred.add` gives the wrapped sum of the active lanes, whatever the shape of the tree, and
`wscan.add` that of the active lanes up to this one, or below it when it is exclusive, 0 where there is none. -/
def Obligations.IntegerReductionsAreSums : Prop :=
  ∀ (x : Iss) (l : Nat), x.f.ty = .i32 ∨ x.f.ty = .n32 ∨ x.f.ty = .i64 ∨ x.f.ty = .n64 → x.active.contains l = true → l < 32 →
    (redResult .add (fun vs _ => treeOf .add x.f.ty vs) x l (x.vals l)).1 =
      [(intWrap x.f.ty (x.sumOver x.active), x.f.ty)] ∧
    (redResult .add (fun vs l => (scanOf .add x.f.ty vs).getD l none) x l (x.vals l)).1 =
      [(intWrap x.f.ty (x.sumOver (x.active.filter (fun k => decide (k ≤ l)))), x.f.ty)] ∧
    (redResult .add (fun vs l => if l = 0 then none else (scanOf .add x.f.ty vs).getD (l - 1) none) x l (x.vals l)).1 =
      [(intWrap x.f.ty (x.sumOver (x.active.filter (fun k => decide (k < l)))), x.f.ty)]

/-! ## Floating point (R145 to R169) -/

namespace Sys2Proof.Machine

/-- A form with one result per element of n modified sources. -/
def elementForm (x : Iss) (lat : Ty → Nat) (n : Nat) (compute : FFmt → List Nat → Nat × Fl) : FloatForm :=
  { accs := List.replicate n [x.f.ty], lat := lat x.f.ty, occ := fpOcc x.f.ty, tags := [x.f.ty]
    out := fun l => let r := elementwise n compute x (x.vals l)
      ([(r.1, x.f.ty)], r.2) }

/-- R154, R159: an exact operation on the values of up to three elements, rounded once (R151) under the modifier steps of R77. -/
def exactForm (x : Iss) (lat : Ty → Nat) (n : Nat) (op : RMode → FV → FV → FV → Exact × Fl) : FloatForm :=
  elementForm x lat n (fun f es =>
    let v (i : Nat) : FV := fval f (es.getD i 0)
    let r := op (modeOf x.f.modw .rne) (v 0) (v 1) (v 2)
    let d := finishFloat f x.f.modw .rne r.1
    (d.1, r.2 ||| d.2 ||| snanFlag ((es.map (fval f)).take n)))

/-- R159, R161, R162: arithmetic, minimum and maximum, and the parts of a number. -/
def arithmeticForms (x : Iss) (f : Form) : List (Instr × FloatForm) :=
  [(.fadd f, (exactForm x latFA 2 (fun md a b _ => sumExact md [a.exact, b.exact]))),
   (.fsub f, (exactForm x latFA 2 (fun md a b _ => sumExact md [a.exact, b.exact.neg]))),
   (.fmul f, (exactForm x latFA 2 (fun _ a b _ => fmulExact a b))),
   (.ffma f, (exactForm x latFA 3 (fun md a b c =>
      ((sumExact md [(fmulExact a b).1, c.exact]).1, (fmulExact a b).2 ||| (sumExact md [(fmulExact a b).1, c.exact]).2)))),
   (.fdiv f, (exactForm x latFD 2 (fun _ a b _ => fdivExact a b))),
   (.fsqrt f, (exactForm x latFD 1 (fun _ a _ _ => fsqrtExact a))),
   (.fminNum f, (elementForm x latFA 2 (minmaxElem x false true))),
   (.fmin f, (elementForm x latFA 2 (minmaxElem x false false))),
   (.fmaxNum f, (elementForm x latFA 2 (minmaxElem x true true))),
   (.fmax f, (elementForm x latFA 2 (minmaxElem x true false))),
   (.frnd f, (elementForm x latFA 1 (fun f es => frndElem (modeOf x.f.modw .rne) f (es.getD 0 0)))),
   (.ffract f, (elementForm x latFA 1 (fun f es => ffractElem f (es.getD 0 0)))),
   (.fcopysign f, (elementForm x latFA 2 (fun f es =>
      (magOf f (es.getD 0 0) + signBit f (signOf f (es.getD 1 0)), flNone)))),
   (.fldexp f, {
    accs := [[x.f.ty], [.i32]], lat := latFA x.f.ty, occ := fpOcc x.f.ty, tags := [x.f.ty]
    out := fun l =>
      let r := fldexpElem x.f.modw (fmtOfTy x.f.ty) (modElem x.f x.f.ty (x.vals l) 0 0) (intVal .i32 (opnd (x.vals l) 1))
      ([(BitVec.ofNat 64 r.1, x.f.ty)], r.2) }),
   (.ffrexp f, {
    accs := [[x.f.ty]], lat := latFA x.f.ty, occ := fpOcc x.f.ty, tags := [x.f.ty, .i32]
    out := fun l =>
      let r := ffrexpElem (fmtOfTy x.f.ty) (modElem x.f x.f.ty (x.vals l) 0 0)
      ([(BitVec.ofNat 64 r.1, x.f.ty), (intWrap .i32 r.2.1, .i32)], r.2.2) }),
   (.fclass f, {
    accs := [[x.f.ty]], lat := latFA x.f.ty, occ := fpOcc x.f.ty, tags := [.n32]
    out := fun l => ([(BitVec.ofNat 64 ((elemsOf x.f).map (fun k =>
      2 ^ (16 * k + classBit (fmtOfTy x.f.ty) (elemAt x.f.ty (opnd (x.vals l) 0) k)))).sum, .n32)], flNone) })]
where
  /-- R161: a selection, then the clamp. -/
  minmaxElem (x : Iss) (mx num : Bool) (f : FFmt) (es : List Nat) : Nat × Fl :=
    let r := fminmax mx num f (es.getD 0 0) (es.getD 1 0)
    (match x.f.modw with
     | some m => floatClamp f m.clamp r
     | none => r, snanFlag [fval f (es.getD 0 0), fval f (es.getD 1 0)])

end Sys2Proof.Machine

/-- R154, R155, R157, R159, R161, R162, R163: the arithmetic forms, minimum and maximum, and the parts of a number. -/
def Sys2Proof.Machine.Claims.FloatFormsDeliver : Prop :=
  ∀ (s : State) (i : Instr) (f : Form) (x : Iss) (g : FloatForm), (i, g) ∈ arithmeticForms x f → Issues s i x → g.completes s i x

namespace Sys2Proof.Machine

/-- A conversion of one source under its own tag list (R157, R165). -/
def convForm (x : Iss) (acc tags : List Ty) (out : List (Word × Ty) → List (Word × Ty) × Fl) : FloatForm :=
  { accs := [acc], lat := convLat (wideConv x), occ := convOcc (wideConv x), tags, out := fun l => out (x.vals l) }

/-- R159, R165, R167: `fdot2`, the conversions and the codebook decode. The two sources of `fdot2` and `f8pack` have one
half format where `same` holds. -/
def conversionForms (x : Iss) (f : Form) : List (Instr × FloatForm) :=
  [(.fdot2 f, {
    accs := [halfTags, halfTags, [.f32]], lat := 6, occ := {}, tags := [.f32]
    out := fun l => ([((fdot2Lane x (x.vals l)).1, .f32)], (fdot2Lane x (x.vals l)).2) }),
   (.cvt f, (convForm x floatTags [x.f.ty] (cvtLane x))),
   (.cvti f, (convForm x floatTags [x.f.ty] (cvtiLane x))),
   (.cvtf f, (convForm x numTags [x.f.ty] (cvtfLane x))),
   (.pack2 f, { accs := [[.f32], [.f32]], lat := 4, occ := {}, tags := [x.f.ty], out := fun l => pack2Lane x (x.vals l) }),
   (.unpk2 f, (convForm x halfTags [.f32, .f32] (unpk2Lane x))),
   (.f8pack f, {
    accs := [halfTags, halfTags], lat := 4, occ := {}, tags := [x.f.ty], out := fun l => f8packLane x (x.vals l) }),
   (.f8unpk f, (convForm x f8Tags [x.f.ty, x.f.ty] (f8unpkLane x))),
   (.cbkdec f, {
    accs := [[.cb4x16]], lat := 4, occ := {}, tags := [.bf16x2, .bf16x2], out := fun l => cbkdecLane x (x.vals l) })]

/-- R73, R159: where the two sources of `fdot2` and `f8pack` are half formats, they carry the same one in every active
lane, or RAW suspends the check. -/
def sameHalves (x : Iss) (g : FloatForm) : Prop :=
  g.accs.take 2 = [halfTags, halfTags] → x.raw = true ∨ mixedHalves x x.active = []

/-- R168, R169: the special functions. -/
def functionForms (x : Iss) (f : Form) : List (Instr × FloatForm) :=
  [(.rcp f, (one .rcp (specialOf .rcp))),
   (.rsq f, (one .rsq (specialOf .rsq))),
   (.sqrta f, (one .sqrta (specialOf .sqrta))),
   (.exp2 f, (one .exp2 (specialOf .exp2))),
   (.log2 f, (one .log2 (specialOf .log2))),
   (.sinpi f, (one .sin sinpiOf)),
   (.cospi f, (one .sin cospiOf)),
   (.tanh f, (one .tanh (specialOf .tanh))),
   (.sincospi f, {
    accs := [[x.f.ty]], lat := 20, occ := sfOcc true, tags := [x.f.ty, x.f.ty]
    out := fun l =>
      let s := value .sin sinpiOf l
      let c := value .sin cospiOf l
      ([(s.1, x.f.ty), (c.1, x.f.ty)], s.2 ||| c.2) })]
where
  value (fn : SpecialFn) (of_ : FFmt → Nat → SpecialOut) (l : Nat) : Word × Fl :=
    elementwise 1 (fun f es => finishSpecial fn f x.f.modw (of_ f (es.getD 0 0))) x (x.vals l)
  one (fn : SpecialFn) (of_ : FFmt → Nat → SpecialOut) : FloatForm :=
    { accs := [[x.f.ty]], lat := latSF x.f, occ := sfOcc x.f.packed, tags := [x.f.ty]
      out := fun l => ([((value fn of_ l).1, x.f.ty)], (value fn of_ l).2) }

end Sys2Proof.Machine

/-- R157, R159, R165, R167: `fdot2`, the conversions and `cbkdec`. -/
def Sys2Proof.Machine.Claims.ConversionsDeliver : Prop :=
  ∀ (s : State) (i : Instr) (f : Form) (x : Iss) (g : FloatForm), (i, g) ∈ conversionForms x f → Issues s i x → sameHalves x g → g.completes s i x

/-- R157, R168, R169: the special functions. Their delivered bits are free within the bound (log 7), so this holds whatever
they are. -/
def Sys2Proof.Machine.Claims.SpecialFunctionsDeliver : Prop :=
  ∀ (s : State) (i : Instr) (f : Form) (x : Iss) (g : FloatForm), (i, g) ∈ functionForms x f → Issues s i x → g.completes s i x

/-- R155: where a flag some active lane raises is enabled, each of these forms raises FPE with the raised flags, naming the
lanes, and has no other effect but the flags. -/
def Sys2Proof.Machine.Claims.FloatResultsTrap : Prop :=
  ∀ (s : State) (i : Instr) (f : Form) (x : Iss) (g : FloatForm),
    ((∃ o, i = .wred o f ∧ g = wredForm o x) ∨ (∃ o ex, i = .wscan o ex f ∧ g = wscanForm o ex x) ∨
      (i, g) ∈ arithmeticForms x f ∨ (i, g) ∈ conversionForms x f ∨ (i, g) ∈ functionForms x f) →
    Issues s i x → sameHalves x g →
    x.Readable x.active g.accs → g.flags x &&& x.v.fpTrapEn ≠ 0 →
    Answers s i ((x.flag (g.flags x)).trapAt tFpe x.p.pc
      (maskOf (x.active.filter (fun l => decide ((g.out l).2 &&& x.v.fpTrapEn ≠ 0)))) (g.flags x).toNat 0)

namespace Sys2Proof.Machine

/-- R164: what `fcmp` finds in a lane: whether its condition holds, and the flags it raises. -/
def Iss.compared (x : Iss) (c : FCond) (l : Nat) : Bool × Fl :=
  fcmpElem c (fmtOfTy x.f.ty) (modElem x.f x.f.ty (x.vals l) 0 0) (modElem x.f x.f.ty (x.vals l) 1 0)

/-- R154: the flags the executing lanes of an `fcmp` raise together. -/
def Iss.comparedFlags (x : Iss) (c : FCond) : Fl := orFlags (x.active.map (fun l => (x.compared c l).2))

end Sys2Proof.Machine

/-- R155, R164: an `fcmp` of which some active lane raises an enabled flag raises FPE in the same way, and writes no predicate. -/
def Sys2Proof.Machine.Claims.FloatComparesTrap : Prop :=
  ∀ (s : State) (c : FCond) (f : Form) (x : Iss), Issues s (.fcmp c f) x → x.Readable x.active [[x.f.ty], [x.f.ty]] →
    x.comparedFlags c &&& x.v.fpTrapEn ≠ 0 →
    Answers s (.fcmp c f) ((x.flag (x.comparedFlags c)).trapAt tFpe x.p.pc
      (maskOf (x.active.filter (fun l => decide ((x.compared c l).2 &&& x.v.fpTrapEn ≠ 0)))) (x.comparedFlags c).toNat 0)

/-- An enabled flag raises FPE and nothing else: the claims above. -/
def Obligations.EnabledFlagsTrap : Prop :=
  Claims.FloatResultsTrap ∧ Claims.FloatComparesTrap

/-- R164, R155, R166: `fcmp` writes its predicate and sets its flags where none of them is enabled; `cbkld` replaces a
codebook by the entries lanes 0 to 7 supply, which the instructions that issue in later cc read, and those of its own cc do not. -/
def Sys2Proof.Machine.Claims.FloatComparesAndCodebooks : Prop :=
  (∀ (s : State) (c : FCond) (f : Form) (x : Iss), Issues s (.fcmp c f) x → x.Readable x.active [[x.f.ty], [x.f.ty]] →
    x.comparedFlags c &&& x.v.fpTrapEn = 0 →
    Answers s (.fcmp c f) (((x.flag (x.comparedFlags c)).pop.setPred x.active x.f.pd (latFA x.f.ty)
      (fun l => (x.compared c l).1)).doneOcc (fpOcc x.f.ty))) ∧
  (∀ (s : State) (f : Form) (x : Iss), Issues s (.cbkld f) x → x.Readable x.active [[.bf16x2]] →
    ∃ b : BitVec 256, (∀ k, k < 16 → bookEntry b k =
        if x.active.contains (k / 2) then bits (opnd (x.vals (k / 2)) 0) (16 * (k % 2)) 16 else 0) ∧
      ∃ y : Iss, y = { x.pop with
          v := { x.pop.v with
          books := x.pop.v.books.set (bits x.f.x13 0 2) b, oldBooks := y.v.oldBooks } } ∧
        (∀ c k, y.v.book c k = if c = x.cc then x.v.book c k else y.v.books.getD k 0) ∧
        Answers s (.cbkld f) y.done)

/-- The float forms, conversions, special functions, comparisons and codebook forms complete: the claims above. Where the rules
leave a point open they state the model's choice: the bits of a special function within its bound (log 7), latency and occupancy
of a conversion (log 70, DESIGN CHOICE), and the corners of rounding, clamping, conversion and packing that logs 30, 32, 67, 69
and 71 name. -/
def Obligations.FloatFormsComplete : Prop :=
  Claims.FloatFormsDeliver ∧
  Claims.ConversionsDeliver ∧
  Claims.SpecialFunctionsDeliver ∧
  Claims.FloatComparesAndCodebooks

/-- R164: for two patterns of one format, exactly one of less, equal, greater and unordered holds; the other conditions
combine these; and unordered is a NaN among the sources. -/
def Obligations.FloatConditionsExcludeEachOther : Prop :=
  ∀ (f : FFmt) (a b : Nat),
    let t (c : FCond) : Bool := (fcmpElem c f a b).1
    t .uno = ((fval f a).isNan || (fval f b).isNan) ∧ t .ord = !t .uno ∧ t .ne = !t .eq ∧
    t .le = (t .lt || t .eq) ∧ t .ge = (t .gt || t .eq) ∧
    [t .lt, t .eq, t .gt, t .uno].count true = 1

/-- R151, R153: a number a format holds is delivered as it is, under every mode, and raises nothing. -/
def Sys2Proof.Machine.Claims.FormatNumbersAreDeliveredExactly : Prop :=
  ∀ (f : FFmt) (mode : RMode) (sat s : Bool) (m : Nat) (e : Int) (a : Nat), a < 2 ^ f.width → fval f a = .fin s m e →
    roundTo f mode sat s m e false = (a, flNone)

/-- R147, R152, R154: what arithmetic delivers where no number results: a NaN source, ∞ − ∞, 0 × ∞, ∞ ÷ ∞, 0 ÷ 0 and the
root of a negative number give the canonical NaN; the last five raise NV, and a finite number divided by zero raises DZ. -/
def Sys2Proof.Machine.Claims.InvalidOperationsGiveNaN : Prop :=
  ∀ (f : FFmt) (md : RMode) (a b : FV) (s t : Bool) (m n : Nat) (e k : Int),
    (a.isNan = true ∨ b.isNan = true →
      (sumExact md [a.exact, b.exact]).1 = .nan ∧ (fmulExact a b).1 = .nan ∧ (fdivExact a b).1 = .nan) ∧
    sumExact md [.inf s, .inf (!s)] = (.nan, flNV) ∧
    fmulExact (.inf s) (.fin t 0 e) = (.nan, flNV) ∧ fmulExact (.fin t 0 e) (.inf s) = (.nan, flNV) ∧
    fdivExact (.inf s) (.inf t) = (.nan, flNV) ∧ fdivExact (.fin s 0 e) (.fin t 0 k) = (.nan, flNV) ∧
    (0 < m → fsqrtExact (.fin true m e) = (.nan, flNV)) ∧
    (0 < n → fdivExact (.fin s n e) (.fin t 0 k) = (.inf (s != t), flDZ)) ∧
    roundExact f md s e .nan = (f.nan, flNone) ∧ (fval f f.nan).isNan = true ∧ (fval f f.nan).isSnan = false

/-- Numbers a format holds are delivered exactly, invalid operations give NaN: the claims above. -/
def Obligations.FloatResultsAtTheEdges : Prop :=
  Claims.FormatNumbersAreDeliveredExactly ∧ Claims.InvalidOperationsGiveNaN

/-! ## Control flow (R207 to R229) -/

/-- R211, R213, R229: `bra` goes to its target where it is unguarded or its guard holds in some lane of the mask, and `loop`
where some active lane's counter, less one, is not zero; else they go on. `loop` writes its counter back under the tag it had. -/
def Sys2Proof.Machine.Claims.BranchesGo : Prop :=
  (∀ (s : State) (f : Form) (x : Iss), Issues s (.bra f) x → x.GuardReady →
    Answers s (.bra f) (if x.f.guard = { inv := false, p := 7 } ∨ x.active ≠ [] then x.goto (targetOf x.p.pc x.f) 4 {} else x.done)) ∧
  (∀ (s : State) (f : Form) (x : Iss), Issues s (.loop f) x → x.Readable x.active [[.i32, .n32]] →
    let less (l : Nat) : Word := ((opnd (x.vals l) 0).setWidth 32 - 1).setWidth 64
    let y := x.deliver x.active [] (fun l => [{ val := less l, tag := opndTag (x.vals l) 0, pend := .clear }])
    Answers s (.loop f) (if ∃ l ∈ x.active, less l ≠ 0 then y.goto (targetOf x.p.pc x.f) 4 {} else y.done))

namespace Sys2Proof.Machine

/-- R208: the issue with a mark pushed on its split. -/
def Iss.withMark (x : Iss) : Iss := { x with v := (pushMark x.v x.p).1, p := (pushMark x.v x.p).2 }

/-- R212: the lanes a `brs` takes, and those it leaves. -/
def Iss.taken (x : Iss) : LaneMask := maskOf x.active
def Iss.left (x : Iss) : LaneMask := x.p.emask &&& ~~~x.taken

end Sys2Proof.Machine

/-- R208, R212: `brs` pushes a mark; where all lanes of the mask are taken it goes to its target, where none is it goes on, and
else the taken lanes become a new split at the target, which may issue 4 cc later, and leave this one. -/
def Sys2Proof.Machine.Claims.SplitBranchesGo : Prop :=
  ∀ (s : State) (f : Form) (x : Iss), Issues s (.brs f) x → x.GuardReady → x.p.marks.length < 8 →
    let y := x.withMark
    Answers s (.brs f) (if x.taken = 0 then y.done
      else if x.left = 0 then y.goto (targetOf x.p.pc x.f) 4 {}
      else ({ y with
        v := y.v.addSplit x.w.d { y.p with readyAt := x.cc + 4 } (targetOf x.p.pc x.f) x.taken
        p := { y.p with emask := x.left, home := x.p.home &&& ~~~x.taken } } : Iss).done)

/-- R207, R208, R212: the two splits of a `brs` share no lane and have, between them, the lanes of the one before, both in
their masks and in their home sets; both hold the mark pushed. -/
def Sys2Proof.Machine.Claims.SplitBranchesPartition : Prop :=
  ∀ (x : Iss) (target : VAddr) (l : Nat), l < 32 →
    let y := x.withMark
    let v := y.v.addSplit x.w.d { y.p with readyAt := x.cc + 4 } target x.taken
    ∃ q : Split, v.splits = y.v.splits ++ [q] ∧ q.pc = target ∧ q.marks = y.p.marks ∧ q.depth = x.p.depth ∧
      q.emask = x.taken ∧ q.home = x.taken ∧
      (inMask x.p.emask l = (inMask q.emask l || inMask x.left l)) ∧ (inMask q.emask l && inMask x.left l) = false ∧
      (inMask x.p.home l = (inMask q.home l || inMask (x.p.home &&& ~~~x.taken) l)) ∧
      (inMask q.home l && inMask (x.p.home &&& ~~~x.taken) l) = false ∧
      (∀ p ∈ x.v.splits, p.num < 32 → x.v.splits.length < 32 → q.num ≠ p.num)

namespace Sys2Proof.Machine

/-- R218: the active lanes with their targets, each target a multiple of 8. -/
def Iss.Straight (x : Iss) : Prop := ∀ l ∈ x.active, bits (opnd (x.vals l) 0) 0 3 = 0

/-- R218: the groups of active lanes that share a target, by their lowest lanes. -/
def Iss.groups (x : Iss) : List (Word × LaneMask) := groupLanes (x.active.map (fun l => (l, opnd (x.vals l) 0)))

/-- R218: the splits of a `jmpi` beyond the first group's. -/
def Iss.jumped (x : Iss) (gs : List (Word × LaneMask)) : Iss :=
  { x with
    v := (enum gs).foldl (fun v ig =>
      v.addSplit x.w.d { x.p with readyAt := x.cc + 7 + ig.1 } (ig.2.1.setWidth 57) ig.2.2) x.v
    p := { x.p with home := x.p.home &&& ~~~(gs.foldl (fun m h => m ||| h.2) 0) } }

end Sys2Proof.Machine

/-- R218, R84: `jmpi` sends each group of active lanes that share a target there, the group of the lowest lane under this
split; with no active lane it goes on. -/
def Sys2Proof.Machine.Claims.IndirectJumpsGo : Prop :=
  ∀ (s : State) (f : Form) (x : Iss), Issues s (.jmpi f) x → x.Readable x.active [[.ptr]] → x.Straight → x.p.marks.length < 8 →
    let y := x.withMark.pop
    (x.groups = [] → Answers s (.jmpi f) y.done) ∧
    ∀ a m gs, x.groups = (a, m) :: gs →
      Answers s (.jmpi f) ({ y.jumped gs with p := { (y.jumped gs).p with emask := m } }.goto (a.setWidth 57) 6 {})

/-- bra, loop, brs and jmpi go where the rules say: the claims above. -/
def Obligations.BranchesComplete : Prop :=
  Claims.BranchesGo ∧ Claims.SplitBranchesGo ∧ Claims.IndirectJumpsGo

/-- R218: the groups of a `jmpi` are disjoint, cover the active lanes, and put a lane with its own target. -/
def Sys2Proof.Machine.Claims.JumpGroupsPartition : Prop :=
  ∀ (x : Iss) (l : Nat), l < 32 →
    (x.active.contains l = true ↔ ∃ g ∈ x.groups, inMask g.2 l = true) ∧
    (∀ g ∈ x.groups, inMask g.2 l = true → g.1 = opnd (x.vals l) 0) ∧
    (x.groups.map Prod.fst).Nodup

/-- Splits made by brs and jmpi partition the lanes: the claims above. -/
def Obligations.SplitsPartitionTheLanes : Prop :=
  Claims.SplitBranchesPartition ∧ Claims.JumpGroupsPartition

namespace Sys2Proof.Machine

/-- R97, R220, R221: what a call needs: its split at the wave's depth, the n youngest entries of its lanes not pending, a
level to spare, and no pending entry in the level that leaves the shadow. -/
structure Iss.MayCall (x : Iss) (n : Nat) : Prop where
  depth : x.p.depth = x.v.depth
  args : argPending x.cc n x.v x.p.home = false
  spare : x.v.depth ≠ 64
  shadow : shadowPending x.cc x.v = false

/-- R97, R220: the caller level a `call` saves. -/
def Iss.callerLevel (x : Iss) : CallLevel :=
  { queues := savedQueues x.v x.p.home, retPc := x.next, emask := x.p.emask, home := x.p.home,
    marks := x.p.marks.length, n := x.f.n, m := none, rem := 0, targets := [], done := 0 }

/-- R97, R219: the caller level a `calli` saves, whose first group stays in the split and whose others remain. -/
def Iss.groupLevel (x : Iss) (rem : LaneMask) (ts : List (Nat × Word)) : CallLevel :=
  { queues := savedQueues x.v (x.p.home &&& ~~~rem), retPc := x.next, emask := x.p.emask, home := x.p.home,
    marks := x.p.marks.length, n := x.f.n, m := some x.f.m, rem
    targets := (List.range 32).map (fun k => ((ts.find? (fun t => t.1 == k)).map (fun t => addrOf t.2)).getD 0), done := 0 }

end Sys2Proof.Machine

/-- R97, R220, R229: `call` saves the queues of its home set as a caller level, opens the callee's with the n youngest
entries, and goes to its target. R219: `calli` does so for the group of its lowest lane; with no active lane it pushes m
zeros. -/
def Sys2Proof.Machine.Claims.CallsEnterALevel : Prop :=
  (∀ (s : State) (f : Form) (x : Iss), Issues s (.call f) x → x.MayCall x.f.n →
    Answers s (.call f) ({ x with
      v := enterLevel x.v x.callerLevel x.p.home x.f.n, p := { x.p with depth := x.p.depth + 1 } }.goto
        (targetOf x.p.pc x.f) (if 2 ≤ x.v.depth then 70 else 6) {})) ∧
  (∀ (s : State) (f : Form) (x : Iss), Issues s (.calli f) x → x.Readable x.active [[.ptr]] → x.Straight →
    x.p.marks.length < 8 → x.p.depth = x.v.depth →
    (x.groups = [] → Answers s (.calli f) ({ x.withMark with
      v := (emptyCalli x.withMark.v x.withMark.p x.f.m).1, p := (emptyCalli x.withMark.v x.withMark.p x.f.m).2 }.done)) ∧
    ∀ a m gs, x.groups = (a, m) :: gs → x.MayCall x.f.n →
      let y := x.withMark.pop
      let rem := gs.foldl (fun m h => m ||| h.2) 0
      Answers s (.calli f) ({ y with
        v := enterLevel y.v (y.groupLevel rem (x.active.map (fun l => (l, opnd (x.vals l) 0)))) (y.p.home &&& ~~~rem) x.f.n
        p := { y.p with depth := y.p.depth + 1, home := y.p.home &&& ~~~rem, emask := m, calliRem := rem } }.goto
          (a.setWidth 57) (if 2 ≤ x.v.depth then 70 else 6) {}))

/-- R97: in each lane of the home set the callee finds the n youngest entries and EMPTY ones after them, and the
caller's whole queue is kept in the level. -/
def Sys2Proof.Machine.Claims.CalleeQueuesOpen : Prop :=
  ∀ (v : Wave) (c : CallLevel) (home : LaneMask) (n l : Nat), l < 32 → l < v.lanes.length → inMask home l = true →
    (v.lane l).q.length = 16 → n ≤ 16 → c.queues = savedQueues v home →
    ((enterLevel v c home n).lane l).q = (v.lane l).q.take n ++ List.replicate (16 - n) Entry.empty ∧
    (enterLevel v c home n).levels = c :: v.levels ∧ (enterLevel v c home n).depth = v.depth + 1 ∧
    c.queues[l]? = some (v.lane l).q

/-- R99, R220: `ret` at the wave's depth with no mark of its level, results not pending, goes to the saved address with the
saved queues and the n results, or calls the next group of its `calli`. -/
def Sys2Proof.Machine.Claims.ReturnsLeaveALevel : Prop :=
  ∀ (s : State) (f : Form) (x : Iss) (c : CallLevel) (cs : List CallLevel), Issues s (.ret f) x → x.p.depth = x.v.depth →
    (x.p.marks.any (fun m => m.depth == x.p.depth)) = false → x.v.levels = c :: cs →
    argPending x.cc x.f.n x.v x.p.home = false → (c.m = none ∨ c.m = some x.f.n) → c.retPc.toNat % 8 = 0 →
    nextArgsPending x.cc x.v c = false →
    let r := returnTo x.v x.p c x.f.n
    Answers s (.ret f) ({ x with v := r.1, p := r.2 }.goto r.2.pc (if 3 ≤ x.v.depth then 70 else 6) {})

/-- call, calli and ret complete: the claims above. That a `calli` calls its later groups with the targets read at its issue is
log 20 (DEDUCED): R219 does not say it. -/
def Obligations.CallsAndReturnsComplete : Prop :=
  Claims.CallsEnterALevel ∧ Claims.ReturnsLeaveALevel

/-- R99: a return gives each lane of the home set its caller's queue with the n youngest callee entries pushed, in their
order; so a call that returns no result leaves the caller's queues as they were. -/
def Sys2Proof.Machine.Claims.ReturnsRestoreQueues : Prop :=
  ∀ (v u : Wave) (c : CallLevel) (home : LaneMask) (n l : Nat), l < 32 → l < u.lanes.length → inMask home l = true →
    (v.lane l).q.length = 16 → c.queues = savedQueues v home → n ≤ (u.lane l).q.length →
    ((restoreQueues u c home n).lane l).q = (((u.lane l).q.take n) ++ (v.lane l).q).take 16 ∧
    ((restoreQueues u c home 0).lane l).q = (v.lane l).q

/-- R214, R215: a `rejoin` whose push count equals n or has a layout, no sibling waiting elsewhere, arrives: its split stops
there until every split with the mark has arrived. R224: `exit` takes its active lanes out of the split. -/
def Sys2Proof.Machine.Claims.RejoinsAndExits : Prop :=
  (∀ (s : State) (f : Form) (x : Iss) (m : Mark) (ms : List Mark), Issues s (.rejoin f) x → x.p.marks = m :: ms →
    m.depth = x.p.depth → (m.count = x.f.n ∨ (layoutFor x.f.imm m.count).isSome = true) → rejoinElsewhere x m.id = false →
    let y : Iss := { x with p := { x.p with arrived := true, rejoinAt := x.p.pc, rejoinN := x.f.n, rejoinLayout := x.f.imm } }
    Answers s (.rejoin f) ((y.goto x.p.pc 1 {}).upd (fun d => fuseWave (d.updWave x.v.uid (fun v =>
      v.updSplit x.p.num (fun p => if p.trapped then p else { p with wait := some 5 }))) x.v.uid))) ∧
  (∀ (s : State) (f : Form) (x : Iss), Issues s (.exit f) x → x.GuardReady →
    let gone := maskOf x.active
    let y : Iss := { x with p := { x.p with emask := x.p.emask &&& ~~~gone, home := x.p.home &&& ~~~gone } }
    Answers s (.exit f) (if x.p.home &&& ~~~gone = 0 then splitExits y.done x.v.uid x.p.num else y.done))

/-- R216: a split permuted at a rejoin has in each lane n entries, the sel-th of its own or a zero of tag I32, and then those
older than the mark. -/
def Sys2Proof.Machine.Claims.RejoinsPermute : Prop :=
  ∀ (n c k : Nat) (sel : List Nat) (q : List Entry), n ≤ 16 → q.length = 16 → k < 16 →
    (permuteQueue n c sel q).length = 16 ∧
    (permuteQueue n c sel q)[k]? = some (
      if k < n then (if sel.getD k 0 = 0 then { val := 0, tag := .i32, pend := .clear } else q.getD (sel.getD k 0 - 1) Entry.empty)
      else q.getD (c + (k - n)) Entry.empty)

/-- Queues across calls, returns and rejoins: the claims above. -/
def Obligations.QueuesCrossCalls : Prop :=
  Claims.CalleeQueuesOpen ∧ Claims.ReturnsRestoreQueues ∧ Claims.RejoinsPermute

/-- R225, R227: `maskwr` replaces the mask within the home set by the lowest lane's value; `yield` waits for the splits of its
scheduler that are ready in its cc, which are settled at the end of the cc, at most 64 cc; `sleep` for 16 × n cc. -/
def Sys2Proof.Machine.Claims.MasksAndWaits : Prop :=
  (∀ (s : State) (f : Form) (x : Iss), Issues s (.maskwr f) x → x.Readable ((lanesOf x.p.home).take 1) [[.mask, .i32, .n32]] →
    let a : LaneMask := (opnd (x.vals ((lanesOf x.p.home).headD 0)) 0).setWidth 32
    Answers s (.maskwr f) ({ x with
      v := popInboxes x.v x.srcs, p := { x.p with emask := (a &&& x.p.home) ||| (x.p.emask &&& ~~~x.p.home) } } : Iss).done) ∧
  (∀ (s : State) (f : Form) (x : Iss), Issues s (.yield f) x → Answers s (.yield f)
    ({ x with p := { x.p with yield := some { until_ := x.cc + 64, fresh := true, peers := [] } } } : Iss).done) ∧
  (∀ (s : State) (f : Form) (x : Iss), Issues s (.sleep f) x → Answers s (.sleep f)
    ({ x with p := { x.p with sleep := 16 * bits x.f.x13 0 13, asleep := decide (bits x.f.x13 0 13 ≠ 0) } } : Iss).done)

/-- R228, R403: where the guard holds in some lane of the mask, `trap` raises SWTRAP and `brk` raises BREAK, with X13, at the
next instruction; where it holds in none, they have no effect. -/
def Sys2Proof.Machine.Claims.SoftwareTrapsRaise : Prop :=
  ∀ (s : State) (f : Form) (x : Iss) (b : Bool), Issues s (if b then .brk f else .trap f) x → x.GuardReady →
    (x.active = [] → Answers s (if b then .brk f else .trap f) x.done) ∧
    (x.active ≠ [] → Answers s (if b then .brk f else .trap f)
      (x.softTrap (if b then tBreak else tSwtrap) (bits x.f.x13 0 13) 0))

/-- rejoin, exit, maskwr, yield, sleep, trap and brk complete: the claims above. The stop point of a software trap, which its record
holds, is the next instruction by R403 and R407 where R228 speaks of the instruction's PC (log 58, DEDUCED); the peers of a
`yield` are settled at the end of its cc (log 29, DEDUCED). Where a `rejoin` traps is stated below, with the other traps of the
mark stack. -/
def Obligations.ControlFormsComplete : Prop :=
  Claims.RejoinsAndExits ∧ Claims.MasksAndWaits ∧ Claims.SoftwareTrapsRaise

/-! ## Where an issue traps (R43, R73, R82, R83, R208, R214, R218 to R221, R431) -/

namespace Sys2Proof.Machine

/-- R109 to R122, R159 to R163: forms that read sources, with the tags these accept. -/
def sourceForms (x : Iss) (f : Form) : List (Instr × List (List Ty)) :=
  let own (n : Nat) : List (List Ty) := List.replicate n (intTags f.ty)
  let shifted : List (List Ty) := [intTags f.ty, if isLiteral f.sb then [] else countTags]
  (exactForms f.ty f).map (fun e => (e.1, own 3)) ++ [(.idiv f, own 2), (.irem f, own 2), (.iaddc f, own 3),
    (.lea f, [intTags .ptr, countTags]), (.perm f, [intTags f.ty, intTags f.ty, [.i32, .n32]]), (.ptest f, own 1)] ++
  (shiftForms f).map (fun e => (e.1, shifted)) ++ (bitForms f.ty f).map (fun e => (e.1, own 3)) ++
  [Cond.eq, .ne, .lt, .le, .gt, .ge].map (fun c => (.icmp c f, own 2)) ++ (arithmeticForms x f).map (fun e => (e.1, e.2.accs))

/-- R83 step 4, R73: the lanes with an EMPTY source, and those with a source of another tag than the form accepts. -/
def Iss.emptyLanes (x : Iss) : List Nat := x.active.filter (fun l => (x.vals l).any (fun y => y.2 == .empty))
def Iss.wrongLanes (x : Iss) (accs : List (List Ty)) : List Nat :=
  x.active.filter (fun l => ((x.vals l).zip accs).any (fun y => !tagOk y.2 y.1.2))

end Sys2Proof.Machine

/-- R43, R82, R431: whatever the instruction, a reserved encoding raises ILLEGAL; a home-side match WATCH, at a safe point that
begins; and a form of another role ROLE; each at the instruction, which has no effect. -/
def Sys2Proof.Machine.Claims.ChecksBeforeIssue : Prop :=
  ∀ (s : State) (i : Instr) (x : Iss), Attempts s i x →
    (formOk x.g i x.f = false → Answers s i (x.trap tIllegal 0)) ∧
    (formOk x.g i x.f = true → x.f.st = true → x.p.stage = .idle → ∀ w a, x.v.homeWatch = some (w, a) →
      Answers s i ({ x with v := { x.v with homeWatch := none } }.trapAt tWatch x.p.pc 0 (2 ^ 31 + w % 65536) a)) ∧
    (formOk x.g i x.f = true → (x.f.st && x.p.stage == .idle && x.v.homeWatch.isSome) = false → roleOk x.v.role i x.g = false →
      Answers s i (x.trap tRole 0))

/-- R73, R83, R94: a form waits while its guard or a source is pending; then an EMPTY source in some active lane raises QEMPTY,
with exactly those lanes in the mask; then a source of a tag the form does not accept raises TAG, unless RAW suspends that
check. -/
def Sys2Proof.Machine.Claims.SourcesTrap : Prop :=
  ∀ (s : State) (i : Instr) (f : Form) (x : Iss) (accs : List (List Ty)), (i, accs) ∈ sourceForms x f → Issues s i x →
    (¬ x.GuardReady → Answers s i (x.wait 1)) ∧
    (x.GuardReady → ∀ c, x.sourceWait x.active = some c → Answers s i (x.wait c)) ∧
    (x.GuardReady → x.sourceWait x.active = none →
      (x.emptyLanes ≠ [] → Answers s i (x.trap tQempty (maskOf x.emptyLanes))) ∧
      (x.emptyLanes = [] → x.raw = false → x.wrongLanes accs ≠ [] → Answers s i (x.trap tTag (maskOf (x.wrongLanes accs)))))

/-- R208, R214, R218, R219: REJOIN: a ninth mark; a `rejoin` with no mark, with a mark of another level, with a count that is not n
and has no layout entry, or with a sibling at another address. An indirect target that is no multiple of 8 raises ALIGN in
its lanes; that ALIGN comes before the ninth mark's REJOIN is the model's reading (log 27, DEDUCED). -/
def Sys2Proof.Machine.Claims.MarksTrap : Prop :=
  (∀ (s : State) (f : Form) (x : Iss), Issues s (.brs f) x → x.GuardReady → 8 ≤ x.p.marks.length →
    Answers s (.brs f) (x.trap tRejoin 0)) ∧
  (∀ (s : State) (i : Instr) (x : Iss), i ∈ [.jmpi x.f, .calli x.f] → Issues s i x → (i = .calli x.f → x.p.depth = x.v.depth) →
    x.Readable x.active [[.ptr]] →
    let bad := x.active.filter (fun l => bits (opnd (x.vals l) 0) 0 3 != 0)
    (bad ≠ [] → Answers s i (x.trap tAlign (maskOf bad))) ∧
    (bad = [] → 8 ≤ x.p.marks.length → (i = .calli x.f → x.active ≠ [] → x.MayCall x.f.n) → Answers s i (x.trap tRejoin 0))) ∧
  (∀ (s : State) (f : Form) (x : Iss), Issues s (.rejoin f) x →
    (x.p.marks = [] → Answers s (.rejoin f) (x.trap tRejoin 0)) ∧
    (∀ m ms, x.p.marks = m :: ms →
      m.depth ≠ x.p.depth ∨ (m.count ≠ x.f.n ∧ layoutFor x.f.imm m.count = none) ∨ rejoinElsewhere x m.id = true →
      Answers s (.rejoin f) (x.trap tRejoin 0)))

/-- R99, R220, R221: CALLDEPTH: a call at depth 64, and a `ret` with no level. A `ret` with a mark of its level, or in a `calli` with
another number of results, raises REJOIN. A call or `ret` of a split that is not at the wave's depth waits. -/
def Sys2Proof.Machine.Claims.LevelsTrap : Prop :=
  (∀ (s : State) (i : Instr) (x : Iss), i ∈ [.call x.f, .calli x.f, .ret x.f] → Issues s i x → x.p.depth ≠ x.v.depth →
    Answers s i (x.wait 5)) ∧
  (∀ (s : State) (i : Instr) (x : Iss), i ∈ [.call x.f, .calli x.f] → Issues s i x → x.p.depth = x.v.depth →
    (i = .calli x.f → x.Readable x.active [[.ptr]] ∧ x.Straight ∧ x.active ≠ []) → argPending x.cc x.f.n x.v x.p.home = false →
    (x.v.depth = 64 → Answers s i (x.trap tCalldepth 0))) ∧
  (∀ (s : State) (f : Form) (x : Iss), Issues s (.ret f) x → x.p.depth = x.v.depth →
    let marked := x.p.marks.any (fun m => m.depth == x.p.depth)
    (marked = true → Answers s (.ret f) (x.trap tRejoin 0)) ∧
    (marked = false → x.v.levels = [] → Answers s (.ret f) (x.trap tCalldepth 0)) ∧
    (∀ c cs m, marked = false → x.v.levels = c :: cs → argPending x.cc x.f.n x.v x.p.home = false → c.m = some m → m ≠ x.f.n →
      Answers s (.ret f) (x.trap tRejoin 0)))

/-- Reserved encodings, roles, EMPTY and wrongly tagged sources, marks and call levels trap where the rules say: the claims above. -/
def Obligations.SourcesAndStacksTrap : Prop :=
  Claims.ChecksBeforeIssue ∧ Claims.SourcesTrap ∧ Claims.MarksTrap ∧ Claims.LevelsTrap

/-! ## Accumulators and the matrix unit (R171 to R204) -/

/-- R172: a term is added to an element exactly, modulo 2^66 and in carry-save form: the held value is the sum; a zero term
changes nothing; and the overflow flag, once set, stays set, and is set where the term or the sum leaves 64 bits. -/
def Sys2Proof.Machine.Claims.ElementsAddExactly : Prop :=
  ∀ (e : Elem) (p q : Int),
    (BitVec.ofInt 66 (e.add p).held = BitVec.ofInt 66 (e.held + p)) ∧ e.add 0 = e ∧
    (e.ovf = true → (e.add p).ovf = true) ∧
    (p ≠ 0 → (e.add p).ovf = (e.ovf || outside64 p || outside64 (e.add p).held)) ∧
    ((e.add p).add q).held = ((e.add q).add p).held

namespace Sys2Proof.Machine

/-- R176, R180: the tiles a form names exist and are not busy. -/
def Iss.TilesReady (x : Iss) (ts : List Nat) : Prop :=
  ∀ t ∈ ts, t < x.v.tiles.length ∧ (x.v.tile t).busyUntil ≤ x.cc

/-- R176: a form with a scalar: its guard is ready, some lane is active, and the scalar of the lowest one can be read. -/
structure Iss.Scalar (x : Iss) (accs : List (List Ty)) (l : Nat) : Prop where
  guard : x.GuardReady
  lane : x.active.head? = some l
  readable : x.Readable [l] accs

/-- The issue with a tile changed, and busy for `n` cc (R180). -/
def Iss.withTile (x : Iss) (t n : Nat) (f : Tile → Tile) : Iss :=
  { x with v := x.v.setTile t (f (x.v.tile t)) }.busy t n

/-- R196: what `az` and `anch` make of a tile, under anchor e, and for how long it is busy (R182). -/
def tileForms (e : Int) (f : Form) : List (Instr × (Tile → Tile) × Nat) :=
  [(.az f, fun t => { t with data := .vals (List.replicate 1024 Elem.zero), anchor := e, progress := 0 }, 4),
   (.anch f, fun t => { t with data := .vals (t.elems.map (anchElem t.anchor e)), anchor := e }, 26)]

end Sys2Proof.Machine

/-- R196, R197, R182: `az` zeroes its tile under an anchor, `anch` re-anchors it, `res` gives it the canonical form. -/
def Sys2Proof.Machine.Claims.TileZeroAnchorResolve : Prop :=
  (∀ (s : State) (i : Instr) (f : Form) (x : Iss) (l n : Nat) (e : Int) (g : Tile → Tile), (i, g, n) ∈ tileForms e f →
    Issues s i x → x.Scalar [[.i32, .n32]] l → anchorOf ((x.vals l).getD 0 (0, .i32)) = some e → x.TilesReady [x.f.xd] →
    Answers s i ((x.pop.withTile x.f.xd n g).spoil x.f.xd).done) ∧
  (∀ (s : State) (f : Form) (x : Iss), Issues s (.res f) x → x.GuardReady → x.active ≠ [] → x.TilesReady [x.f.xd] →
    Answers s (.res f) ((x.withTile x.f.xd 24 (fun t =>
      { t with data := .vals (t.elems.map (fun e => Elem.ofInt e.resolved e.ovf)) })).spoil x.f.xd).done)

namespace Sys2Proof.Machine

/-- R198: the element of a row that `resv` delivers in a lane. -/
def Iss.resolvedRow (x : Iss) (l : Nat) : List (Word × Ty) :=
  [(resvElem x.f.ty (resvMode x.f) (x.v.tile x.f.xd).anchor ((x.v.tile x.f.xd).at_ x.f.row l), x.f.ty)]

/-- R201: what `avld` delivers in a lane: the sum and carry words, and the anchor, overflow flag and guard bits. -/
def Iss.rawRow (x : Iss) (l : Nat) : List (Word × Ty) :=
  let e := (x.v.tile x.f.xd).at_ x.f.row l
  [(e.s, .raw), (e.c, .raw), (BitVec.ofNat 64
    (((x.v.tile x.f.xd).anchor % 65536).toNat * 65536 + (if e.ovf then 4 else 0) + e.g.toNat), .n32)]

/-- The instruction delivers a row after n cc: `rows` or, where an operation on the tile is uncovered, other values of these
tags (R182). -/
def Iss.DeliversRow (x : Iss) (s : State) (i : Instr) (n : Nat) (tags : List Ty) (rows : Nat → List (Word × Ty)) : Prop :=
  ∃ res : Nat → List (Word × Ty), (uncovered x.v x.f.xd = false → res = rows) ∧ (∀ l, (res l).map Prod.snd = tags) ∧
    Answers s i ((x.busy x.f.xd n).deliver x.active tags (fun l => (res l).map (x.entry n))).done

end Sys2Proof.Machine

/-- R198, R201, R182: `resv` and `avld` deliver their row; where an operation on the tile is uncovered, free values. R193:
`mrow` delivers the tile's progress. R176: with no active lane each only pushes its zeros. -/
def Sys2Proof.Machine.Claims.RowsAreDelivered : Prop :=
  (∀ (s : State) (f : Form) (x : Iss), Issues s (.resv f) x → x.GuardReady → x.active ≠ [] → x.TilesReady [x.f.xd] →
    x.DeliversRow s (.resv f) 12 [x.f.ty] x.resolvedRow) ∧
  (∀ (s : State) (f : Form) (x : Iss), Issues s (.avld f) x → x.GuardReady → x.active ≠ [] → x.TilesReady [x.f.xd] →
    x.DeliversRow s (.avld f) 6 [.raw, .raw, .n32] x.rawRow) ∧
  (∀ (s : State) (f : Form) (x : Iss), Issues s (.mrow f) x → x.GuardReady → x.active ≠ [] → x.TilesReady [x.f.xd] →
    Answers s (.mrow f) (((x.busy x.f.xd 4).deliver x.active [.n32]
      (fun _ => [x.entry 4 (BitVec.ofNat 64 (x.v.tile x.f.xd).progress, .n32)])).done)) ∧
  (∀ (s : State) (i : Instr) (f : Form) (x : Iss) (tags : List Ty),
    (i, tags) ∈ [(Instr.resv f, [x.f.ty]), (.avld f, [.raw, .raw, .n32]), (.mrow f, [.n32])] →
    Issues s i x → x.GuardReady → x.active = [] → Answers s i (x.deliver [] tags (fun _ => [])).done)

namespace Sys2Proof.Machine

/-- R199, R200: the two predicates of a tile, where no operation on it is uncovered; `b` is the threshold. -/
def acmpHolds (x : Iss) (b : Word) (l : Nat) : Bool :=
  let t := x.v.tile x.f.xd
  let v := (t.at_ x.f.row l).resolved
  accHolds x.f.xs (if x.f.ty = .fx64 then some (compare v b.toInt) else cmpF32 v t.anchor (bits b 0 32))
def signOfTop (x : Iss) (l : Nat) : Int := signTop ((x.v.tile x.f.xd).at_ x.f.row l)

end Sys2Proof.Machine

/-- R199, R200, R182: `acmp` compares a row with the threshold of the lowest active lane (log 59), and `asgn` reads its sign from the
top bits; where an operation on the tile is uncovered, the predicates are free. -/
def Sys2Proof.Machine.Claims.TileComparisonsComplete : Prop :=
  (∀ (s : State) (f : Form) (x : Iss) (k : Nat), Issues s (.acmp f) x → x.Scalar [[x.f.ty]] k →
    x.TilesReady [x.f.xd] → ∃ b : Nat → Bool, (uncovered x.v x.f.xd = false → ∀ l, b l = acmpHolds x (opnd (x.vals k) 0) l) ∧
      Answers s (.acmp f) ((x.pop.busy x.f.xd 24).setPred x.active x.f.pd 24 b).done) ∧
  (∀ (s : State) (f : Form) (x : Iss), Issues s (.asgn f) x → x.GuardReady → x.active ≠ [] → x.TilesReady [x.f.xd] →
    ∃ b c : Nat → Bool, (uncovered x.v x.f.xd = false → ∀ l, b l = decide (signOfTop x l ≤ -2) ∧
        c l = decide (1 ≤ signOfTop x l)) ∧
      Answers s (.asgn f) (((x.busy x.f.xd 2).setPred x.active x.f.pd 2 b).setPred x.active (x.f.pd + 1) 2 c).done)

/-- R203, R204, R182, R9: `aadd` adds one tile into another, and of a source with an uncovered operation undefined elements, the
same ones at each reading of the tile; `mxexp` delivers the largest exponent of the active lanes. -/
def Sys2Proof.Machine.Claims.TileSumsAndExponents : Prop :=
  (∀ (s : State) (f : Form) (x : Iss), Issues s (.aadd f) x → x.GuardReady → x.active ≠ [] → x.TilesReady [x.f.xd, x.f.xs] →
    let n := if (x.v.tile x.f.xd).anchor = (x.v.tile x.f.xs).anchor then 8 else 32
    let src := if uncovered x.v x.f.xs = true then { x.v.tile x.f.xs with data := .undef (x.v.tile x.f.xs).stamp }
      else x.v.tile x.f.xs
    Answers s (.aadd f) (((x.withTile x.f.xd n (fun d => aaddTile d src)).busy x.f.xs n).spoil x.f.xd).done) ∧
  (∀ (s : State) (f : Form) (x : Iss), Issues s (.mxexp f) x → x.Readable x.active [[x.f.ty]] → ∃ e : Int,
    (∀ l ∈ x.active, ∀ k ∈ allElems x.f.ty, ∀ n, expOf (fmtOfTy x.f.ty) (elemAt x.f.ty (opnd (x.vals l) 0) k) = some n → n ≤ e) ∧
    (e = -32768 ∨ ∃ l ∈ x.active, ∃ k ∈ allElems x.f.ty,
      expOf (fmtOfTy x.f.ty) (elemAt x.f.ty (opnd (x.vals l) 0) k) = some e) ∧
    Answers s (.mxexp f) (x.delivered 10 [.i32] (fun _ => [(intWrap .i32 e, .i32)])).done)

/-- The tile forms complete: the claims above. -/
def Obligations.TileFormsComplete : Prop :=
  Claims.TileZeroAnchorResolve ∧ Claims.RowsAreDelivered ∧ Claims.TileComparisonsComplete ∧ Claims.TileSumsAndExponents

/-- R203, R175, R197: with equal anchors `aadd` adds the held values exactly; and the canonical form of an element holds its
canonical integer. -/
def Sys2Proof.Machine.Claims.TileSumsAreExact : Prop :=
  ∀ (a : Int) (d e : Elem), BitVec.ofInt 66 (aaddElem a a d e).held = BitVec.ofInt 66 (d.held + e.held) ∧
    (e.ovf = true → (aaddElem a a d e).ovf = true) ∧
    ((d.ovf = false → outside64 d.held = false) →
      (Elem.ofInt d.resolved d.ovf).held = d.resolved ∧ (Elem.ofInt d.resolved d.ovf).resolved = d.resolved ∧
      (d.ovf = false → d.resolved = d.held))

/-- Accumulation is exact: the claims above. -/
def Obligations.AccumulationIsExact : Prop :=
  Claims.ElementsAddExactly ∧ Claims.TileSumsAreExact

namespace Sys2Proof.Machine

/-- R194: what the scalar of a `gang` must be: two to six members below the launch's matrix waves, this one among them. -/
def gangValid (x : Iss) (g : Nat) : Prop :=
  let nm := match x.w.d.launchOf x.v with
    | some l => l.nm
    | none => 0
  2 ≤ popBits (BitVec.ofNat 64 g) ∧ popBits (BitVec.ofNat 64 g) ≤ 6 ∧ g < 2 ^ nm ∧ g < 2 ^ 16 ∧ g.testBit x.v.mIndex = true

/-- R189, R177, R276: what a matrix operation needs: aligned addresses and strides; for a gang-flagged one a gang with this wave
in it and no exited member, and room in the latch; a free slot; and no other split of the wave to hold its accesses back. -/
structure Iss.MayMultiply (x : Iss) (a b o : Word) : Prop where
  aligned : bits a 0 4 = 0 ∧ bits b 0 4 = 0 ∧ opAstr o % 16 = 0 ∧ opBstr o % 16 = 0
  gang : opGng o = true → 2 ≤ popBits (BitVec.ofNat 64 (x.w.d.taskCore x.v).gang) ∧
    (x.w.d.taskCore x.v).gang.testBit x.v.mIndex = true
  present : opGng o = true → memberGone x.w.d x.v (x.w.d.taskCore x.v).gang = false
  latch : opGng o = true → latchFull x.w.d x.v (x.w.d.taskCore x.v).gang = false
  slot : slotFree x.v = true
  unheld : x.v.hold x.p.num true = none

/-- R189, R190, R192: the operation a matrix form enters in a slot, which has asked for leave. -/
def Iss.matrixSlot (x : Iss) (kind : SlotKind) (a b m o : Word) : OpSlot :=
  { OpSlot.make kind x.f.xd a b m o with
    book := x.v.book x.cc (opCbk o), gang := if opGng o then (x.w.d.taskCore x.v).gang else 0, joined := !opGng o
    asked := some x.cc, granted := false }

/-- R186, R179: the tags the operands of a matrix form accept. -/
def matrixTags (kind : SlotKind) (o : Word) : List (List Ty) :=
  [addrTags (opAsp o), addrTags (opBsp o)] ++ (if kind = .mmas then [addrTags (opAsp o)] else [])

end Sys2Proof.Machine

/-- R181, R189, R190, R192, R195: with a free operation slot, `mma` and `mmas` enter it at issue, and a gang-flagged one the latch
of its gang; the operation asks the quad's governor for leave, which it waits for in its slot. -/
def Obligations.MatrixOperationsEnter : Prop :=
  ∀ (s : State) (f : Form) (x : Iss) (l : Nat) (sp : Bool), Issues s (if sp then .mmas f else .mma f) x →
    let kind : SlotKind := if sp then .mmas else .mma
    let o := x.f.imm.getD 0
    let a := opnd (x.vals l) 0
    let b := opnd (x.vals l) 1
    let m := if sp then opnd (x.vals l) 2 else 0
    x.Scalar (matrixTags kind o) l → x.TilesReady [x.f.xd] → x.MayMultiply a b o →
    let y := x.pop.newSlot (x.matrixSlot kind a b m o)
    let z : Iss := { y with
      w := y.w.upd (fun d => d.updQuad (d.posOf x.v)
      (fun q => { q with leaveQueue := q.leaveQueue ++ [(false, x.v.uid, d.uid)] })) }
    (∃ o ∈ y.v.slots, o.order = y.w.d.uid ∧ o.granted = false) ∧
    Answers s (if sp then .mmas f else .mma f) (if opGng o then z.enterLatch (x.w.d.taskCore x.v).gang b o else z).done

/-- R183, R184, R194, R202, R430: `astr` and `ald` enter a slot at once, where some bytes an `astr` will store match a watchpoint
with WATCH at the next instruction; `mfence` passes once no store of the wave is under way, those of
`astr` among them, and its load pipes then see every write so far; `mwait` passes once the operations it covers are complete,
which are covered from then on; `gang` sets the core's gang. With no active lane the forms that deliver nothing only go on (R176). -/
def Obligations.MatrixControlCompletes : Prop :=
  (∀ (s : State) (f : Form) (x : Iss) (l : Nat) (ld : Bool), Issues s (if ld then .ald f else .astr f) x →
    let a := opnd (x.vals l) 0
    x.Scalar [addrTags (decide (2 ≤ x.f.mode))] l → x.TilesReady [x.f.xd] → bits a 0 8 = 0 → slotFree x.v = true →
    x.v.hold x.p.num true = none →
    let o : OpSlot := { OpSlot.make (if ld then .ald else .astr) x.f.xd a 0 0 0 with
      canonical := x.f.mode % 2 == 1, scratch := decide (2 ≤ x.f.mode) }
    (o.watched x.w x.v = .none → Answers s (if ld then .ald f else .astr f) (x.pop.newSlot o).done) ∧
    (∀ e, o.watched x.w x.v = .hit e →
      Answers s (if ld then .ald f else .astr f) ((x.pop.newSlot o).softTrap tWatch (x.v.ctx % 65536) e))) ∧
  (∀ (s : State) (f : Form) (x : Iss), Issues s (.mfence f) x → x.GuardReady → x.active ≠ [] →
    x.v.recs.any Rec.isStore = false → x.v.slots.any (fun o => o.kind == .astr) = false →
    Answers s (.mfence f) ({ x with v := { x.v with pipes := x.v.present x.w.d } } : Iss).done) ∧
  (∀ (s : State) (f : Form) (x : Iss), Issues s (.mwait f) x → x.GuardReady → x.active ≠ [] →
    let covers (o : OpSlot) : Bool := x.f.mode % 2 == 1 || o.tile == x.f.xd
    (x.f.mode % 2 = 1 ∨ x.TilesReady [x.f.xd]) → x.v.slots.any covers = false →
    ∃ y : Iss, y = { x with v := { x.v with tiles := y.v.tiles } } ∧ y.v.tiles.length = x.v.tiles.length ∧
      (∀ t, t < x.v.tiles.length → y.v.tile t =
        if x.f.mode % 2 = 1 ∨ t = x.f.xd then { x.v.tile t with open_ := false } else x.v.tile t) ∧
      Answers s (.mwait f) y.done) ∧
  (∀ (s : State) (f : Form) (x : Iss) (l : Nat), Issues s (.gang f) x → x.Scalar [[.n32, .i32]] l →
    let g := bits (opnd (x.vals l) 0) 0 32
    gangValid x g → Answers s (.gang f) ({ x.pop with
      w := x.w.upd (fun d => d.updTaskCore x.v (fun c => { c with gang := g })) } : Iss).done) ∧
  (∀ (s : State) (i : Instr) (f : Form) (x : Iss), i ∈ [Instr.mma f, .mmas f, .astr f, .ald f, .gang f, .az f, .anch f,
      .mfence f, .mwait f, .res f, .aadd f, .acmp f, .asgn f] →
    Issues s i x → x.GuardReady → x.active = [] → Answers s i x.done)

/-! ## Memory instructions (R263 to R310) -/

namespace Sys2Proof.Machine

/-- R289, R294 to R300: a memory form of majors 0xA0 to 0xA2: the tags it accepts, the class and kind of its record entry, the
bytes of a lane's access, its results' tags, its operation, and what the access of a lane carries. -/
structure AccessForm where
  accs : List (List Ty)
  cls : Nat
  kind : Nat
  width : Nat
  tags : List Ty
  op : RecOp
  fill : Nat → Access → Access

/-- R294, R295, R298, R300: the forms whose operands are one entry each. -/
def accessForms (o : AtomOp) (x : Iss) (f : Form) : List (Instr × AccessForm) :=
  [(.ld f, {
     accs := [addressTags x.f.sp x.f.pl], cls := 0, kind := 0, width := moveBytes x.f, tags := [x.f.ty]
     op := .load x.f.ty 1 (moveBytes x.f), fill := fun _ a => a }),
   (.ldv f, {
     accs := [addressTags x.f.sp x.f.pl], cls := 0, kind := 0, width := x.f.cnt * (tyWidth x.f.ty / 8)
     tags := List.replicate x.f.cnt x.f.ty, op := .load x.f.ty x.f.cnt (tyWidth x.f.ty / 8), fill := fun _ a => a }),
   (.st f, {
     accs := [addressTags x.f.sp x.f.pl, valueTags x.f.ty], cls := 1, kind := 1, width := moveBytes x.f, tags := [], op := .store (moveBytes x.f)
     fill := fun l a => { a with data := toBytes (moveBytes x.f) (opnd (x.vals l) 1).toNat } }),
   (.atom o f, {
     accs := [addressTags x.f.sp x.f.pl, valueTags x.f.ty, valueTags x.f.ty], cls := 2, kind := 2, width := atomBytes o x.f.ty
     tags := if o == .xadd then [.raw, .raw] else [x.f.ty], op := .atom o x.f.ty true
     fill := fun l a => { a with b := opnd (x.vals l) 1, c := opnd (x.vals l) 2 } }),
   (.red o f, {
     accs := [addressTags x.f.sp x.f.pl, valueTags x.f.ty], cls := 2, kind := 2, width := atomBytes o x.f.ty, tags := []
     op := .atom o x.f.ty false, fill := fun l a => { a with b := opnd (x.vals l) 1 } })]

/-- The record entry of a form whose lanes name these targets: on its way at once where all are scratchpad, and past the mesh too
where that is the wave's own quad's or the core may inject (R353), else to be translated. -/
def AccessForm.entry (g : AccessForm) (x : Iss) (ts : List (Nat × Target)) : Rec :=
  let as := ts.map (fun t => g.fill t.1 { lane := t.1, target := t.2, bytes := g.width, data := [], b := 0, c := 0 })
  let r := x.recOf g.cls g.kind (maskOf x.active) g.op as
  let near := as.all (fun a => match a.target with
    | .quad p _ => p == x.v.x + 12 * x.v.y
    | _ => false)
  if as.all Access.share then { r with phys := as.map (directKey x.v), injected := near || coreInjects x.w.d x.core }
  else { r with state := .walk }

/-- R293, R276, R271, R430: a record entry can be allocated, no other split of the wave holds the access back, the versions have
room for what it stores, and of bytes stored that match a watchpoint no page is yet to be translated (log 91). -/
structure Iss.MayAccess (x : Iss) (r : Rec) : Prop where
  free : recFree x.v = true
  unheld : x.heldBy r = none
  room : storeFull x.w x.v r = false
  known : ∀ va, r.watched x.w x.v ≠ .wait va

/-- R93, R293, R430: the access issues: its entry is in the record, its results are bound to it, and it is on its way; where a
core-side watchpoint matches bytes it stores and it will not trap (log 34, DEDUCED), WATCH is raised at the next instruction. -/
def Iss.enters (x : Iss) (tags : List Ty) (r : Rec) : Work :=
  let y := (x.pop.addRec r).deliver x.active tags (fun _ => x.bound tags)
  startRec (match r.watched x.w x.v with
    | .hit a => y.softTrap tWatch (x.v.ctx % 65536) a
    | _ => y.done) x.v.uid x.v.recSeq

/-- R292: with no active lane a form makes no access: it pushes its zeros. -/
def Iss.idle (x : Iss) (tags : List Ty) : Work := (x.deliver [] tags (fun _ => [])).done

/-- R299: an `stv` may read its address and all its values. -/
def Iss.StvReadable (x : Iss) : Prop := x.stvGate = .ready

end Sys2Proof.Machine

/-- R289 to R295, R298, R300: `ld`, `ldv`, `st`, `atom` and `red`: addresses judged good, the access of every active lane
goes into one record entry; where an address is not good, the trap names its lanes. -/
def Sys2Proof.Machine.Claims.MemoryFormsIssue : Prop :=
  ∀ (s : State) (i : Instr) (o : AtomOp) (f : Form) (x : Iss) (g : AccessForm), (i, g) ∈ accessForms o x f → Issues s i x →
    x.Readable x.active g.accs →
    (x.active = [] → Answers s i (x.idle g.tags)) ∧
    (x.active ≠ [] → ∀ ts, x.addresses g.width = .targets ts → x.MayAccess (g.entry x ts) →
      Answers s i (x.enters g.tags (g.entry x ts))) ∧
    (x.active ≠ [] → ∀ c m a, x.addresses g.width = .trap c m a → Answers s i (x.trapAt c x.p.pc m 0 a))

/-- R299: `stv` stores its values, the oldest of an age run first, as one access of each lane; where an address is not good, the
trap names its lanes. -/
def Sys2Proof.Machine.Claims.VectorStoresIssue : Prop :=
  ∀ (s : State) (f : Form) (x : Iss), Issues s (.stv f) x → x.StvReadable →
    let k := tyWidth x.f.ty / 8
    let g : AccessForm := {
      accs := [], cls := 1, kind := 1, width := x.f.cnt * k, tags := [], op := .store k
      fill := fun l a => { a with data := (x.stvEntries l).flatMap (fun e => toBytes k e.val.toNat) } }
    (x.active = [] → Answers s (.stv f) (x.idle [])) ∧
    (x.active ≠ [] → ∀ ts, x.addresses g.width = .targets ts → x.MayAccess (g.entry x ts) →
      Answers s (.stv f) (x.enters [] (g.entry x ts))) ∧
    (x.active ≠ [] → ∀ c m a, x.addresses g.width = .trap c m a → Answers s (.stv f) (x.trapAt c x.p.pc m 0 a))

/-- R290, R291: of the addresses of some lanes, one outside the rectangle raises PROT for all such lanes; else one out of
bounds BOUNDS; else a misaligned one ALIGN, with the address of the first such lane; and where none is, each lane has its target.
That PROT comes before BOUNDS and BOUNDS before ALIGN is the model's reading (log 27, DEDUCED): the rules order none of them. -/
def Obligations.AddressChecksComeInOrder : Prop :=
  ∀ (rs : List (Nat × Resolved)) (align : Nat),
    let is (q : Resolved) : List Nat := (rs.filter (fun r => r.2 == q)).map Prod.fst
    let bad := rs.filterMap (fun r => match r.2 with
      | .named t => if t.low % align = 0 then none else some (r.1, t.va)
      | _ => none)
    (is .prot ≠ [] → judge rs align = .trap tProt (maskOf (is .prot)) 0) ∧
    (is .prot = [] → is .bounds ≠ [] → judge rs align = .trap tBounds (maskOf (is .bounds)) 0) ∧
    (is .prot = [] → is .bounds = [] → bad ≠ [] →
      judge rs align = .trap tAlign (maskOf (bad.map Prod.fst)) (bad.headD (0, 0)).2) ∧
    (is .prot = [] → is .bounds = [] → bad = [] → ∃ ts, judge rs align = .targets ts ∧
      ts.map (fun t => (t.1, Resolved.named t.2)) = rs)

/-- R300: what an atomic operation leaves at a location holding x, in the width of TY; `cas` stores c where x equals b. -/
def Sys2Proof.Machine.Claims.AtomicResults : Prop :=
  ∀ (t : Ty) (x b c : Word), intTy t = true →
    atomNew .add t x b c = atWidth t (· + ·) (· + ·) x b ∧
    atomNew .and t x b c = fit t (x &&& b) ∧ atomNew .or t x b c = fit t (x ||| b) ∧ atomNew .xor t x b c = fit t (x ^^^ b) ∧
    atomNew .xchg t x b c = fit t b ∧ atomNew .cas t x b c = (if fit t x = fit t b then fit t c else fit t x) ∧
    intVal t (atomNew .min t x b c) = min (intVal t x) (intVal t b) ∧
    intVal t (atomNew .max t x b c) = max (intVal t x) (intVal t b)

namespace Sys2Proof.Machine

/-- R302: a number n × 2^e an exact add is given: an integer as it is, a float as it reads; none of a NaN or an infinity. -/
def addend (t : Ty) (b : Word) : Option (Int × Int) :=
  let float (f : FFmt) : Option (Int × Int) := match fval f (bits b 0 f.width) with
    | .fin s m e => some (if s then -(m : Int) else m, e)
    | _ => none
  match t with
  | .f64 => float .f64
  | .f32 => float .f32
  | _ => some (intVal t b, 0)

/-- R302: u is n ÷ 2^k, rounded to the nearest integer, of two the even one. -/
def NearestEven (n : Int) (k : Nat) (u : Int) : Prop :=
  2 * (n - u * 2 ^ k).natAbs ≤ 2 ^ k ∧ (2 * (n - u * 2 ^ k).natAbs = 2 ^ k → u % 2 = 0)

/-- R251, R300: the patterns of two numbers of one format added once. -/
def rneSum (f : FFmt) (a b : Nat) : Nat :=
  (finishFloat f none .rne (sumExact .rne [(fval f a).exact, (fval f b).exact]).1).1

end Sys2Proof.Machine

/-- R302, R251: an exact add of a number adds it, rounded to a multiple of 2^E, to the cell's sum, which is held to 112 bits; the
anchor E stays, and the flag stays set, and is set where the sum does not fit. A NaN or an infinity sets the flag and adds
nothing. -/
def Sys2Proof.Machine.Claims.ExactAddsAreExact : Prop :=
  ∀ (t : Ty) (lo hi b : Word), t = .f64 ∨ t = .f32 ∨ t = .i32 ∨ t = .n32 ∨ t = .i64 ∨ t = .n64 →
    let r := cellAdd t lo hi b
    let e := cellAnchor hi
    cellAnchor r.2 = e ∧
    (addend t b = none → cellSum r.1 r.2 = cellSum lo hi ∧ cellOvf r.2 = true) ∧
    (∀ n k, addend t b = some (n, k) → ∃ u : Int,
      (e ≤ k → u = n * 2 ^ (k - e).toNat) ∧ (k < e → NearestEven n (e - k).toNat u) ∧
      cellSum r.1 r.2 = between (-2 ^ 111) (2 ^ 111 - 1) (cellSum lo hi + u) ∧
      cellOvf r.2 = (cellOvf hi || decide (cellSum lo hi + u < -2 ^ 111) || decide (2 ^ 111 ≤ cellSum lo hi + u)))

/-- R300, R251: `fadd` adds two F32 numbers, and `bfadd` each half of two BF16X2 ones: the exact sum rounded once to nearest even,
the canonical NaN where a source is a NaN or ∞ − ∞ is asked for, and a number plus zero that number. -/
def Sys2Proof.Machine.Claims.FloatAddsAtBanks : Prop :=
  (∀ (x b c : Word), atomNew .fadd .f32 x b c = BitVec.ofNat 64 (rneSum .f32 (bits x 0 32) (bits b 0 32)) ∧
    ∀ i, i < 2 → elemAt .bf16x2 (atomNew .bfadd .bf16x2 x b c) i = rneSum .bf16 (elemAt .bf16x2 x i) (elemAt .bf16x2 b i)) ∧
  (∀ (f : FFmt) (a b : Nat), a < 2 ^ f.width → b < 2 ^ f.width →
    ((fval f a).isNan = true ∨ (fval f b).isNan = true → rneSum f a b = f.nan) ∧
    (∀ s t, fval f a = .inf s → fval f b = .inf t → rneSum f a b = if s = t then f.inf s else f.nan) ∧
    ∀ s m e, fval f a = .fin s m e →
      (∀ t, fval f b = .inf t → rneSum f a b = f.inf t ∧ rneSum f b a = f.inf t) ∧
      ∀ t n k, fval f b = .fin t n k →
        let q := min e k
        let v := inUnits q (.num s m e false) + inUnits q (.num t n k false)
        (m = 0 → n ≠ 0 → rneSum f a b = b ∧ rneSum f b a = b) ∧
        (m = 0 → n = 0 → rneSum f a b = signBit f (s && t)) ∧
        (m ≠ 0 → n ≠ 0 → rneSum f a b = if v = 0 then signBit f false else
          (roundTo f .rne false (decide (v < 0)) v.natAbs q false).1))

/-- Atomic operations compute what the table says: the claims above. -/
def Obligations.AtomicsCompute : Prop :=
  Claims.AtomicResults ∧ Claims.ExactAddsAreExact ∧ Claims.FloatAddsAtBanks

/-- R266, R264: bytes stored at once stand in the version of their core, task and wave, all under one place in the order of the
stores, where each is the latest of its address; memory and every other version byte are kept. -/
def Sys2Proof.Machine.Claims.StoresGoToTheirVersion : Prop :=
  ∀ (d : Dev) (core ctx task wave at_ fence : Nat) (bs : List Host.Cell),
    let d' := storeVersion d core ctx task wave at_ fence bs
    (∃ new : List VerByte, d'.vers = new ++ d.vers ∧ new.map (fun v => (v.addr, v.val)) = bs ∧
      ∀ v ∈ new, v.core = core ∧ v.task = task ∧ v.wave = wave ∧ v.at_ = at_ ∧ v.serial = d.storeSerial + 1) ∧
    ((bs.map Prod.fst).Nodup → (∀ v ∈ d.vers, v.serial ≤ d.storeSerial) → ∀ a b, (a, b) ∈ bs →
      (latestStore d'.vers d'.storeSerial a).map VerByte.val = some b) ∧
    d'.home = d.home ∧ d'.waves = d.waves ∧ d'.storeSerial = d.storeSerial + 1

/-- R263, R266: a commit writes home, for each byte its core holds a version of from before the cc of the boundary, the one stored
last; it takes those versions away and touches no other byte. Where a home-side watchpoint belongs to a wave that has exited, it
posts a notification too (R431), which this leaves aside. -/
def Sys2Proof.Machine.Claims.CommitsPublishVersions : Prop :=
  ∀ (w : Work) (core a : Nat), (∀ c ∈ w.d.ctxs, ∀ e ∈ c.hwatch, ownerExited w.d c e = false) →
    let mine (v : VerByte) : Bool := v.core == core && committing w.d core v.at_
    let w' := writeCommit w core
    ((∀ v ∈ w.d.vers, mine v = true → v.addr ≠ a) → w'.byte a = w.byte a) ∧
    (∀ v ∈ w.d.vers, mine v = true → v.addr = a →
      (∀ u ∈ w.d.vers, mine u = true → u.addr = a → u ≠ v → u.serial < v.serial) → w'.byte a = v.val) ∧
    w'.d.vers = w.d.vers.filter (fun v => !mine v)

/-- R269: what a load of a phased byte returns where no version of its task on its core holds the byte and no commit later than
what the load must see has written it: the byte at home. -/
def Sys2Proof.Machine.Claims.CommittedBytesAreRead : Prop :=
  ∀ (w : Work) (x : View) (k : Nat), keyPhased k = true →
    (∀ v ∈ w.d.vers, v.core = x.core → v.task = x.task → v.addr ≠ k) →
    (∀ h ∈ w.d.home, h.addr = k → h.serial ≤ x.floor w.d k) →
    (loadElement w x [k]).1 = [w.byte k]

/-- Stores stand in versions until a commit publishes them: the claims above. -/
def Obligations.VersionsAndCommits : Prop :=
  Claims.StoresGoToTheirVersion ∧ Claims.CommitsPublishVersions ∧ Claims.CommittedBytesAreRead

/-- R296, R297: `ldp` delivers the bytes of the captured parameter block; `pref` reads nothing into a register, and asks for each
line its lanes name once, in lane order. -/
def Sys2Proof.Machine.Claims.ParameterLoadsAndPrefetches : Prop :=
  (∀ (s : State) (f : Form) (x : Iss) (l : Launch), Issues s (.ldp f) x → x.GuardReady → x.w.d.launchOf x.v = some l →
    let off := bits x.f.x13 0 12
    let k := tyWidth x.f.ty / 8
    (x.active = [] → Answers s (.ldp f) (x.idle [x.f.ty])) ∧
    (x.active ≠ [] → off % k = 0 → off + k ≤ l.paramBytes →
      Answers s (.ldp f) ((x.deliver x.active [x.f.ty] (fun _ =>
        [x.entry 28 (BitVec.ofNat 64 (ofBytes ((List.range k).map (fun i => l.params.getD (off + i) 0))), x.f.ty)])).done)) ∧
    (x.active ≠ [] → off % k ≠ 0 → Answers s (.ldp f) (x.trap tAlign (maskOf x.active))) ∧
    (x.active ≠ [] → off % k = 0 → l.paramBytes < off + k → Answers s (.ldp f) (x.trap tBounds (maskOf x.active)))) ∧
  (∀ (s : State) (f : Form) (x : Iss), Issues s (.pref f) x → x.Readable x.active [[.ptr]] →
    let vas := x.active.map (fun l => BitVec.ofInt 57 ((opnd (x.vals l) 0).toNat + x.f.disp))
    let first := (enum vas).filter (fun iv => (vas.take iv.1).all (fun y => y.toNat / 128 != iv.2.toNat / 128))
    Answers s (.pref f) (first.foldl (fun w iv => prefetch w x.v (x.f.nw == 0) iv.2) x.pop.done))

/-- Loads, stores, atomics, ldp and pref issue: the claims above. They state the model's choice where the rules leave a point open:
that ALIGN comes before BOUNDS in `ldp` (log 27, DEDUCED), that no WATCH is raised by an access that will trap (log 34, DEDUCED),
that it waits for the page of a matching store (log 91), and what a dropped `pref` counts (log 90). -/
def Obligations.MemoryFormsComplete : Prop :=
  Claims.MemoryFormsIssue ∧ Claims.VectorStoresIssue ∧ Claims.ParameterLoadsAndPrefetches

namespace Sys2Proof.Machine

/-- R292: a form that acts once for the wave: its guard is ready and the lowest active lane's sources can be read. -/
structure Iss.Once (x : Iss) (accs : List (List Ty)) (l : Nat) : Prop where
  guard : x.GuardReady
  lane : x.active.head? = some l
  readable : x.Readable [l] accs

/-- R303 to R305: a bank range: its class, tags, operation, function, element operand, share array and lanes. -/
structure RangeForm where
  accs : List (List Ty)
  cls : Nat
  tags : List Ty
  op : RecOp
  b : Word
  share : Option Nat
  lanes : LaneMask

/-- The two bank ranges of a wave whose lowest active lane is l. -/
def rangeForms (x : Iss) (l : Nat) (f : Form) : List (Instr × RangeForm) :=
  [(.abupd f, {
     accs := [addressTags 0 x.f.imm.isSome, countTags], cls := 2, tags := []
     op := .update ((atomOfCode x.f.rangeOp).getD .add) x.f.ty x.f.rangeN
     b := opnd (x.vals l) 1, share := some (opnd (x.vals l) 1).toNat, lanes := maskOf (x.active.take 1) }),
   (.abred f, {
     accs := [addressTags 0 x.f.imm.isSome], cls := if x.f.clr then 2 else 0, tags := [x.f.ty]
     op := .reduce ((atomOfCode x.f.rangeOp).getD .add) x.f.ty x.f.rangeN x.f.clr
     b := 0, share := none, lanes := maskOf x.active })]

/-- The record entry of a bank range at a target. -/
def RangeForm.entry (g : RangeForm) (x : Iss) (t : Target) : Rec :=
  { x.recOf g.cls 3 g.lanes g.op
      [{ lane := x.active.headD 0, target := t
         bytes := x.f.rangeN * rangeStride ((atomOfCode x.f.rangeOp).getD .add) x.f.ty, data := [], b := g.b, c := 0 }] with
    state := .walk }

/-- R307: the operations of the cache maintenance forms. -/
def maintForms (a : VAddr) (n : Nat) (f : Form) : List (Instr × RecOp) :=
  [(.discard f, .discard a n), (.wback f, .wback a n), (.inval f, .inval a n)]

end Sys2Proof.Machine

/-- R303 to R305, R307, R292: a bank range and a cache maintenance form act once for the wave, on the operands of its lowest
active lane; with no active lane they make no access, and a maintenance form of 0 bytes only completes. A bank range whose address
or whose elements are not good traps, and a maintenance form raises ALIGN where its address or its length is no multiple of 128,
and else BOUNDS where the length is past 2^32 (of the two, ALIGN first: log 27, DEDUCED). -/
def Sys2Proof.Machine.Claims.RangesAndMaintenanceIssue : Prop :=
  (∀ (s : State) (i : Instr) (f : Form) (x : Iss) (l : Nat) (g : RangeForm) (t : Nat × Target) (ts : List (Nat × Target)),
    (i, g) ∈ rangeForms x l f → Issues s i x → x.Once g.accs l →
    rangeTarget x (opnd (x.vals l) 0) ((atomOfCode x.f.rangeOp).getD .add) g.share = .targets (t :: ts) →
    x.MayAccess (g.entry x t.2) → Answers s i (x.enters g.tags (g.entry x t.2))) ∧
  (∀ (s : State) (i : Instr) (f : Form) (x : Iss) (l : Nat) (g : RangeForm) (c : Nat) (m : LaneMask) (a : Nat),
    (i, g) ∈ rangeForms x l f → Issues s i x → x.Once g.accs l →
    rangeTarget x (opnd (x.vals l) 0) ((atomOfCode x.f.rangeOp).getD .add) g.share = .trap c m a →
    Answers s i (x.trapAt c x.p.pc m 0 a)) ∧
  (∀ (s : State) (i : Instr) (f : Form) (x : Iss) (l : Nat) (op : RecOp),
    let a : VAddr := (opnd (x.vals l) 0).setWidth 57
    let n := (opnd (x.vals l) 1).toNat
    (i, op) ∈ maintForms a n f → Issues s i x → x.Once [[.ptr], [.n32, .n64]] l →
    (a.toNat % 128 ≠ 0 ∨ n % 128 ≠ 0 → Answers s i (x.trapAt tAlign x.p.pc 0 0 a.toNat)) ∧
    (a.toNat % 128 = 0 → n % 128 = 0 → 2 ^ 32 < n → Answers s i (x.trapAt tBounds x.p.pc 0 0 a.toNat)) ∧
    (a.toNat % 128 = 0 → n = 0 → Answers s i x.pop.done) ∧
    (let r : Rec := { x.recOf 0 14 (maskOf (x.active.take 1)) op [] with state := .walk }
     a.toNat % 128 = 0 → n % 128 = 0 → n ≤ 2 ^ 32 → n ≠ 0 → x.MayAccess r → Answers s i (x.enters [] r))) ∧
  (∀ (s : State) (i : Instr) (f : Form) (x : Iss) (tags : List Ty),
    (i, tags) ∈ [(Instr.abupd f, []), (.abred f, [x.f.ty]), (.discard f, []), (.wback f, []), (.inval f, [])] →
    Issues s i x → x.GuardReady → x.active = [] → Answers s i (x.idle tags))

namespace Sys2Proof.Machine

/-- R276: nothing a fence of a scope that begins now would wait for is under way. -/
def Iss.Drained (x : Iss) (scope : Nat) : Prop :=
  fenceDone x.v (fenceSet x.w.d x.v scope).1 (fenceSet x.w.d x.v scope).2 = true

end Sys2Proof.Machine

/-- R276, R277, R278, R282, R306, R311: a fence passes once what it waits for is performed, in 4 cc where it found nothing (R311
says so of scopes .wave and .core; of the wider ones it is log 100, DESIGN CHOICE); a `phase` and a `fencesc` then ask for a
boundary of their core, and pass once its entry has come; a `fencesc` whose guard has expired asks for an entry alone, which is
performed at once, or served by a commit under way; `phase` adds 1 to the wave's number, modulo 2^32. -/
def Sys2Proof.Machine.Claims.FencesAndPhasesPass : Prop :=
  (∀ (s : State) (f : Form) (x : Iss), Issues s (.fence f) x →
    let y := if bits x.f.x13 0 3 = 0 then x else x.ordered
    (x.p.stage = .idle → x.Drained (bits x.f.x13 0 3) → Answers s (.fence f) (y.goto y.next 4 {})) ∧
    (∀ rs os, x.p.stage = .fence rs os → fenceDone x.v rs os = true → Answers s (.fence f) (y.goto y.next 1 {}))) ∧
  (∀ (s : State) (f : Form) (x : Iss), Issues s (.phase f) x →
    (x.p.stage = .idle → allowanceOk s.dev x.v = true → x.Drained 5 →
      Answers s (.phase f) (x.boundary true 6 .phase)) ∧
    (∀ rs os, x.p.stage = .phaseFence rs os → fenceDone x.v rs os = true → Answers s (.phase f) (x.boundary true 6 .phase)) ∧
    (∀ b, x.p.stage = .phase b → b ≤ (s.dev.core x.core).entered → Answers s (.phase f)
      ({ x.ordered with
        v := { x.ordered.v with
        phase := if x.v.handler.isSome then x.v.phase else (x.v.phase + 1) % 2 ^ 32 } } : Iss).done)) ∧
  (∀ (s : State) (f : Form) (x : Iss), Issues s (.fencesc f) x →
    (x.p.stage = .idle → x.Drained (max 5 (bits x.f.x13 0 3)) →
      Answers s (.fencesc f) (x.boundary false 7 (fun b => .scCommit b (bits x.f.x13 0 3)))) ∧
    (∀ b, x.p.stage = .scEntry (some b) → b ≤ (s.dev.core x.core).entered → Answers s (.fencesc f) x.ordered.done) ∧
    (x.p.stage = .scEntry none → (s.dev.core x.core).boundary = none → readsComplete s.dev x.core = true →
      Answers s (.fencesc f) ({ x with
        w := { x.w with d := enter x.w.d x.core }
        v := { x.v with seen := [], seenStores := [], awaitsEntry := false } } : Iss).ordered.done) ∧
    (∀ b, x.p.stage = .scEntry none → (s.dev.core x.core).boundary = some b →
      Answers s (.fencesc f) (({ x with
        w := { x.w with d := x.w.d.updCore x.core (fun c => { c with boundary := some { b with entry := true } }) }
        p := { x.p with stage := .scEntry (some b.num) } } : Iss).wait 7)))

/-- Bank ranges, cache maintenance, fences and phases complete: the claims above. -/
def Obligations.RangesMaintenanceAndFences : Prop :=
  Claims.RangesAndMaintenanceIssue ∧ Claims.FencesAndPhasesPass

/-! ## Buffers, rings, messages and engines (R313 to R341) -/

namespace Sys2Proof.Machine

/-- R93, R293: an entry is allocated and results of these tags are bound to it. -/
def Iss.binds (x : Iss) (tags : List Ty) (r : Rec) : Iss := (x.pop.addRec r).deliver x.active tags (fun _ => x.bound tags)

/-- R318, R28: a buffer of the wave's own quad, below the task's count, with at least the slots a form names. -/
structure Iss.OwnBuf (x : Iss) (b : Buf) : Prop where
  there : bufAt x.w.d x.v.task x.v.place (cbIndex x.f) = some b
  named : cbIndex x.f < x.launch Launch.nb
  counted : cbCount x.f ≤ b.slots

/-- R279, R315: a counter release issued: its entry leaves once the wave's earlier scratchpad accesses are performed. -/
def Iss.releases (x : Iss) (kind : Nat) (op : RecOp) : Work :=
  let r : Rec := { x.recOf 2 kind (maskOf (x.active.take 1)) op [] with state := .walk }
  (x.pop.addRec r).done.upd (fun d => departRec d x.v.uid r.seq)

end Sys2Proof.Machine

/-- R315, R316, R318, R319, R292, R344: `cbwait` delivers the offset of the head slot once enough are filled, `cbfree` takes slots
once enough are free, in its turn, and delivers the first one's offset, `cbsig` and `cbpop` send a release, and `cbinit` has a
buffer whose shape is in range reset 8 cc later. -/
def Sys2Proof.Machine.Claims.BufferFormsComplete : Prop :=
  (∀ (s : State) (f : Form) (x : Iss) (l : Nat) (b : Buf), Issues s (.cbwait f) x → x.Once [] l → x.OwnBuf b →
    x.bufSettled b = true → cbCount x.f ≤ b.filled →
    Answers s (.cbwait f) (x.same 6 [(BitVec.ofNat 64 (b.offsetAt b.head), .n32)]).done) ∧
  (∀ (s : State) (f : Form) (x : Iss) (l : Nat) (b : Buf), Issues s (.cbfree f) x → x.Once [] l → x.OwnBuf b →
    x.bufSettled b = true → cbCount x.f ≤ b.free →
    let place := counterPlace 3 x.v.n 0
    b.inOrder x.cc place = true → takesFirst x.w.d x.v.task x.v.place (cbIndex x.f) place b = false →
    Answers s (.cbfree f) ({ x with
      w := x.w.upd (fun d => updBuf d x.v.task x.v.place (cbIndex x.f) (fun b => (Buf.takeN (cbCount x.f) b).act d.cc place)) }.same 6
        [(BitVec.ofNat 64 (b.offsetAt b.write), .n32)]).done) ∧
  (∀ (s : State) (f : Form) (x : Iss) (l : Nat) (b : Buf) (pop : Bool), Issues s (if pop then .cbpop f else .cbsig f) x →
    x.Once [] l → x.OwnBuf b → recFree x.v = true →
    Answers s (if pop then .cbpop f else .cbsig f)
      (x.releases 7 (if pop then .pop (cbIndex x.f) (cbCount x.f) else .sig (cbIndex x.f) (cbCount x.f)))) ∧
  (∀ (s : State) (f : Form) (x : Iss) (l : Nat), Issues s (.cbinit f) x → x.Once [[.n32, .i32], [.n32, .i32]] l →
    let n := bits x.f.x13 0 5
    let base := bits (opnd (x.vals l) 0) 0 32
    let c := bits (opnd (x.vals l) 1) 12 9
    let z := bits (opnd (x.vals l) 1) 0 10
    n < x.launch Launch.nb → base % 128 = 0 → bits (opnd (x.vals l) 1) 21 11 = 0 → bits (opnd (x.vals l) 1) 10 2 = 0 →
    2 ≤ c → c ≤ 256 → 1 ≤ z → z ≤ 512 → base + 128 * z * c ≤ x.share →
    (taskChains x.w x.v.task x.v.place).any (fun ws => ws.any (namesBuf n)) = false →
    Answers s (.cbinit f) ({ x.pop with
      w := x.w.upd (fun d => updBuf d x.v.task x.v.place n (fun b => { b with
        binds := b.binds ++ [{ at_ := x.cc + 8, base, bytes := 128 * z, count := c }] })) } : Iss).done)

/-- R316 to R319: of a buffer just bound, slots are taken, signalled and popped in the order of their offsets, and its
counters say how many are filled and free. -/
def Obligations.BuffersAreFirstInFirstOut : Prop :=
  ∀ (b : Buf) (y : BufBind) (n : Nat), n ≤ y.count → 0 < y.count →
    let t := Buf.takeN n (b.bind y)
    let p := t.signal n
    (b.bind y).filled = 0 ∧ (b.bind y).free = y.count ∧
    t.free = y.count - n ∧ t.write = n % y.count ∧ t.filled = 0 ∧ t.unsent = List.range n ∧
    p.filled = n ∧ p.free = y.count - n ∧ (∀ i, i < n → p.offsetAt (p.head + i) = y.base + y.bytes * i) ∧
    (p.pop n).filled = 0 ∧ (p.pop n).free = y.count ∧ (p.pop n).head = n % y.count

/-- R324, R337, R341, R344: `spost` sends a post of its ring; `swait` delivers the payload of a slot whose phase is the awaited one,
and no post of the slot acts any more in its cc; `send` sends its messages; `inwait` passes once the inbox's head slot is filled. -/
def Sys2Proof.Machine.Claims.RingsAndMessagesComplete : Prop :=
  (∀ (s : State) (f : Form) (x : Iss) (l : Nat), Issues s (.spost f) x → x.Once [[.n32, .i32]] l →
    ringIndex x.f < x.launch Launch.ns → recFree x.v = true →
    Answers s (.spost f) (x.releases 6 (.post (ringIndex x.f) (ringSlot x.f) (opnd (x.vals l) 0)))) ∧
  (∀ (s : State) (f : Form) (x : Iss) (l : Nat) (g : Ring), Issues s (.swait f) x → x.Once [] l →
    ringAt x.w.d x.v.task x.v.place (ringIndex x.f) = some g → ringIndex x.f < x.launch Launch.ns →
    (g.slots.getD (ringSlot x.f) (false, 0)).1 = x.f.x13.getLsbD 6 →
    dueOn x.w.d x.v.task x.v.place (1, 8 * ringIndex x.f + ringSlot x.f) = [] →
    ownCounter x.v (1, 8 * ringIndex x.f + ringSlot x.f) = false →
    Answers s (.swait f) ({ x with
      w := x.w.upd (fun d => updTaskQuad d x.v.task x.v.place (fun q => { q with
        rings := updAt q.rings (ringIndex x.f) (fun g => { g with waited := keep g.waited (ringSlot x.f) x.cc }) })) }.same 6
      [((g.slots.getD (ringSlot x.f) (false, 0)).2.setWidth 64, .n32)]).done) ∧
  (∀ (s : State) (f : Form) (x : Iss), Issues s (.send f) x → x.GuardReady →
    (x.active = [] → Answers s (.send f) x.done) ∧
    ∀ (pl : Place) (q : Nat × Nat), x.active ≠ [] → formPlace x.f = some pl → placeQuad x.w.d x.v pl = some q →
      let args (l : Nat) : List Entry := (x.v.lane l).q.take (bits x.f.x13 8 4)
      (∀ l ∈ x.active, ∀ e ∈ args l, e.pending x.cc = false ∧ e.tag ≠ .empty) → recFree x.v = true →
      let r : Rec := { x.recOf 2 8 (maskOf x.active) (.send (4 * (q.1 + 12 * q.2) + pl.index) (bits x.f.x13 0 8)) [] with
        state := .walk, messages := x.active.map (fun l => (l, (args l).map (fun e => (e.val, e.tag)))) }
      Answers s (.send f) ((x.addRec r).done.upd (fun d => departRec d x.v.uid r.seq))) ∧
  (∀ (s : State) (f : Form) (x : Iss), Issues s (.inwait f) x → x.GuardReady →
    (x.active = [] ∨ inboxReady x.cc x.v (bits x.f.x13 0 2) 0 = true) → Answers s (.inwait f) x.done)

namespace Sys2Proof.Machine

/-- R335: the chain a `copy` queues. -/
def Iss.chainOf (x : Iss) (a : Nat) (eng : Engine) : Chain :=
  let inbox := if x.f.x13.getLsbD 12 then some (bits x.f.x13 10 2) else none
  { seq := eng.seq, wave := x.v.uid, n := x.v.n, ctx := x.v.ctx, launchId := x.v.launchId, task := x.v.task,
    pos := x.v.place, core := x.v.core, rec_ := x.v.recSeq, pc := x.p.pc, inbox, head := a, entry := a, words := [],
    lines := [], used := [], index := none, os := 0, od := 0, loops := [], moved := 0, taken := [], landed := false, written := 0, leaveAsked := none, leaveDone := false,
    wait := .none, step := 0, running := false }

end Sys2Proof.Machine

/-- R335, R336, R326 to R328: `copy` queues a chain on an engine of the wave's quad and delivers its handle; `cstat` delivers
the status of a handle; `tdesc` writes the image of a descriptor that is well formed. -/
def Sys2Proof.Machine.Claims.CopiesAndDescriptorsComplete : Prop :=
  (∀ (s : State) (f : Form) (x : Iss) (l : Nat), Issues s (.copy f) x → x.Once [[.n32, .i32]] l →
    let a := bits (opnd (x.vals l) 0) 0 32
    let pos := x.w.d.posOf x.v
    let ei := chooseEngine (x.w.d.quad pos) (bits x.f.x13 8 2)
    let eng := (x.w.d.quad pos).engines.getD ei { chains := [], seq := 0, done := [] }
    let k := bits x.f.x13 10 2
    let iv := x.f.x13.getLsbD 12
    a < x.share → a % 32 = 0 → eng.chains.length < 16 → recFree x.v = true → (iv = true → inboxRoom x.v k = true) →
    let r : Rec := { x.recOf 1 4 (maskOf (x.active.take 1)) (.copy ei (ei * 65536 + eng.seq)) [] with
      inbox := if iv then some k else none }
    let y := (x.pop.addRec r).same 4 [(BitVec.ofNat 64 (ei * 65536 + eng.seq), .n32)]
    Answers s (.copy f) ({ y with
      v := if iv then y.v.reserve k r.seq else y.v
      w := x.w.upd (fun d => d.updQuad pos (fun q => { q with
        engines := updAt q.engines ei (fun e => { e with chains := e.chains ++ [x.chainOf a eng], seq := (e.seq + 1) % 65536 }) })) }
      : Iss).done) ∧
  (∀ (s : State) (f : Form) (x : Iss) (l : Nat), Issues s (.cstat f) x → x.Once [[.n32]] l →
    Answers s (.cstat f)
      (x.pop.same 12 [(handleStatus (x.w.d.quad (x.w.d.posOf x.v)) (bits (opnd (x.vals l) 0) 0 32), .n64)]).done) ∧
  (∀ (s : State) (f : Form) (x : Iss) (l : Nat), Issues s (.tdesc f) x → x.Once [[.n32, .i32]] l →
    let dn := bits x.f.x13 0 6
    let a := bits (opnd (x.vals l) 0) 0 32
    let im := readImage x.w x.v.task x.v.place a
    dn < x.launch Launch.nd → a % 128 = 0 → a + 128 ≤ x.share → shareUnsettled x.v a 128 = false →
    lostIn x.w.d (kShare x.v.task x.v.place a) 128 = none → descFormOk im = true →
    descBase im % descElem im = 0 → descSpanOk im x.share = true →
    (taskChains x.w x.v.task x.v.place).any (fun ws => ws.any (namesDesc dn)) = false →
    Answers s (.tdesc f) ({ x.pop with
      w := x.w.upd (fun d => updTaskQuad d x.v.task x.v.place (fun q => { q with
      descs := updAt q.descs dn (fun e => (e.1, some im)) })) }.goto x.next 40 {}))

/-- R338: `nqpop` of a service wave delivers four RAW zeros where the ring is empty, and else the four words at the head,
which advances. -/
def Sys2Proof.Machine.Claims.NotificationPopsComplete : Prop :=
  ∀ (s : State) (f : Form) (x : Iss) (l : Nat) (c : Ctx), Issues s (.nqpop f) x → x.Once [] l → x.w.d.ctx x.v.ctx = some c →
    x.service = true →
    (c.nqCount = 0 → Answers s (.nqpop f) (x.same 60 (List.replicate 4 (0, .raw))).done) ∧
    (∀ k, c.nqCount ≠ 0 → direct x.w c (c.nqSlot c.nqHead) false = .key k →
      Answers s (.nqpop f) (({ x with
        w := x.w.upd (fun d => d.updCtx c.id (fun c => { c with nqHead := (c.nqHead + 1) % 2 ^ 32 })) } : Iss).same 60
          ((notifWords x.w k).map (fun y => (y, .raw)))).done)

/-- Buffer, ring, message, copy, descriptor and notification forms complete: the claims above. -/
def Obligations.TransportFormsComplete : Prop :=
  Claims.BufferFormsComplete ∧
  Claims.RingsAndMessagesComplete ∧
  Claims.CopiesAndDescriptorsComplete ∧
  Claims.NotificationPopsComplete

/-! ## Groups and tables (R108, R367 to R388, R394) -/

namespace Sys2Proof.Machine

/-- R368: a group form with an active lane, on a group its wave is a member of. -/
structure Iss.InGroup (x : Iss) (accs : List (List Ty)) (l : Nat) (g : Group) : Prop where
  once : x.Once accs l
  group : groupOf x.w.d x.v (gidOf x.f) = some g
  member : (x.v.gid (gidOf x.f)).member = true

/-- R372: an arrival is sent: the wave's state for the group says that it has arrived in this generation. -/
def Iss.arrives (x : Iss) (g : Group) (next : Iss → Work) : Work :=
  let k := gidOf x.f
  let r : Rec := { x.recOf 2 5 (maskOf (x.active.take 1)) (.arrival k g.gen) [] with state := .walk }
  (next { x.addRec r with v := (x.addRec r).v.setGid k (fun y => { y with arr := true, gen := g.gen }) }).upd
    (fun d => departRec d x.v.uid r.seq)

end Sys2Proof.Machine

/-- R185, R372: an arrival first waits for the wave's tile stores and asks for a commit of its core; once that has come, `garr`
arrives and completes. `gbar` arrives and then waits, like `gwait`, for the release and the entry after it; the predicate
delivered is BROKEN. Where another split of the wave has arrived in the same generation meanwhile, neither arrives again. A `gwait`
without an arrival completes at once with a false predicate, also on a broken group, of which R373 says that every later `gwait`
delivers true (log 82, DEDUCED). -/
def Sys2Proof.Machine.Claims.GroupBarriersComplete : Prop :=
  (∀ (s : State) (i : Instr) (x : Iss) (l : Nat) (g : Group), Issues s i x → (∃ f, i = .garr f ∨ i = .gbar f) → x.InGroup [] l g →
    x.p.stage = .idle → ((x.v.gid (gidOf x.f)).arr = false ∨ released x.v (gidOf x.f) g = true) →
    fenceDone x.v [] (fenceSet x.w.d x.v 0).2 = true → Answers s i (x.boundary false 5 .arrive)) ∧
  (∀ (s : State) (f : Form) (x : Iss) (l : Nat) (g : Group) (b : Nat), Issues s (.garr f) x → x.InGroup [] l g →
    x.p.stage = .arrive b → b ≤ (x.w.d.core x.core).committed →
    ((x.v.gid (gidOf x.f)).arr = true → (x.v.gid (gidOf x.f)).gen ≠ g.gen) → recFree x.v = true →
    Answers s (.garr f) (x.arrives g Iss.done)) ∧
  (∀ (s : State) (f : Form) (x : Iss) (l : Nat) (g : Group) (b : Nat), Issues s (.gbar f) x → x.InGroup [] l g →
    x.p.stage = .arrive b → b ≤ (x.w.d.core x.core).committed →
    ((x.v.gid (gidOf x.f)).arr = true → (x.v.gid (gidOf x.f)).gen ≠ g.gen) → recFree x.v = true →
    Answers s (.gbar f) (x.arrives g (fun y => (y.stage (.arriving y.v.recSeq)).wait 5))) ∧
  (∀ (s : State) (f : Form) (x : Iss) (l : Nat) (g : Group) (b : Nat) (wait : Bool),
    Issues s (if wait then .gbar f else .garr f) x → x.InGroup [] l g →
    x.p.stage = .arrive b → b ≤ (x.w.d.core x.core).committed →
    (x.v.gid (gidOf x.f)).arr = true → (x.v.gid (gidOf x.f)).gen = g.gen →
    Answers s (if wait then .gbar f else .garr f) (if wait then (x.stage (.arriving x.v.recSeq)).wait 5 else x.done)) ∧
  (∀ (s : State) (f : Form) (x : Iss) (l : Nat) (g : Group), Issues s (.gwait f) x → x.InGroup [] l g →
    x.p.stage = .idle → (x.v.gid (gidOf x.f)).arr = false →
    Answers s (.gwait f) (x.setPred x.active x.f.pd 4 (fun _ => false)).done) ∧
  (∀ (s : State) (i : Instr) (x : Iss) (l b : Nat) (g : Group), Issues s i x → (∃ f, i = .gwait f ∨ i = .gbar f) →
    x.InGroup [] l g → x.p.stage = .entering (some b) → b ≤ (x.w.d.core x.core).entered →
    Answers s i (x.setPred x.active x.f.pd 4 (fun _ => g.broken)).done)

/-- R374, R369: `gset` and `gget` send a request to the group unit, to be performed 8 cc later; the result of `gget` is pending. -/
def Sys2Proof.Machine.Claims.GroupSlotsComplete : Prop :=
  (∀ (s : State) (f : Form) (x : Iss) (l : Nat) (g : Group), Issues s (.gset f) x → x.InGroup [[]] l g → recFree x.v = true →
    let k := gidOf x.f
    let r : Rec := x.recOf 2 9 (maskOf (x.active.take 1)) (.gset k (groupSlot x.f) (opnd (x.vals l) 0) (opndTag (x.vals l) 0)) []
    let y := x.binds [] r
    Answers s (.gset f) (y.done.upd (fun d => { d with groupReqs := d.groupReqs ++ [groupReq y.v r k (x.cc + 8)] }))) ∧
  (∀ (s : State) (f : Form) (x : Iss) (l : Nat) (g : Group), Issues s (.gget f) x → x.InGroup [] l g → recFree x.v = true →
    let k := gidOf x.f
    let r : Rec := { x.recOf 0 0 (maskOf x.active) (.gget k (groupSlot x.f)) [] with state := .timed (x.cc + 40) }
    let y := x.binds [.n64] r
    Answers s (.gget f) (y.done.upd (fun d => { d with groupReqs := d.groupReqs ++ [groupReq y.v r k (x.cc + 8)] })))

/-- R382: `launch` binds its result to an entry that waits for a commit of its core. -/
def Sys2Proof.Machine.Claims.LaunchInstructionsIssue : Prop :=
  ∀ (s : State) (f : Form) (x : Iss) (l : Nat), Issues s (.launch f) x → x.Once [[.ptr]] l →
    let a : VAddr := (opnd (x.vals l) 0).setWidth 57
    let r : Rec := { x.recOf 2 10 (maskOf x.active) (.launch a) [] with state := .walk }
    (a.toNat % 128 ≠ 0 → Answers s (.launch f) (x.trapAt tAlign x.p.pc 0 0 a.toNat)) ∧
    (a.toNat % 128 = 0 → recFree x.v = true →
      let b := requestBoundary (x.binds [.n32] r).done x.core false
      Answers s (.launch f) (b.1.upd (fun d =>
        departRec (d.updWave x.v.uid (fun v => v.updRec r.seq (fun r => { r with phys := [b.2] }))) x.v.uid r.seq)))

/-- gbar, garr, gwait, gset, gget and launch complete: the claims above. -/
def Obligations.GroupFormsComplete : Prop :=
  Claims.GroupBarriersComplete ∧ Claims.GroupSlotsComplete ∧ Claims.LaunchInstructionsIssue

/-- R108, R388, R394: `srd` delivers a special register; a service register is refused to a wave without the service bit by
PROT, as is a buffer register past the task's buffers. `swr` writes the flags or the trap enables, keeping the flags raised
in this cc, and refuses a bit outside the register by ILLEGAL (log 28, DEDUCED: R108 does not say what such a bit does). -/
def Sys2Proof.Machine.Claims.SpecialRegistersComplete : Prop :=
  (∀ (s : State) (f : Form) (x : Iss) (l : Nat), Issues s (.srd f) x → x.Once [] l →
    let n := bits x.f.x13 0 8
    (srService n = true → x.service = false → Answers s (.srd f) (x.trap tProt 0)) ∧
    (0x40 ≤ n → n ≤ 0x5F → x.launch Launch.nb ≤ n - 0x40 → Answers s (.srd f) (x.trap tProt 0)) ∧
    ((srService n = true → x.service = true) → (0x40 ≤ n → n ≤ 0x5F → n - 0x40 < x.launch Launch.nb) →
      Answers s (.srd f) (x.same 12 [(BitVec.ofNat 64 (srValue s.dev x.v x.p n), srTag n)]).done)) ∧
  (∀ (s : State) (f : Form) (x : Iss) (l : Nat), Issues s (.swr f) x → x.Once [[.n32, .i32, .raw]] l →
    let n := bits x.f.x13 0 8
    let a := (opnd (x.vals l) 0).toNat
    ((if n = 8 then 2 else 32) ≤ a → Answers s (.swr f) (x.trap tIllegal 0)) ∧
    (a < (if n = 8 then 2 else 32) → Answers s (.swr f) ({ x.pop with
      v := if n = 7 then { x.pop.v with fpFlags := BitVec.ofNat 5 a ||| (raisedIn x.v x.cc).1 }
        else if n = 8 then { x.pop.v with intFlag := a == 1 || (raisedIn x.v x.cc).2 }
        else { x.pop.v with fpTrapEn := BitVec.ofNat 5 a } } : Iss).done))

/-- R80, R378, R377: `place` delivers the position a place word names, 0 for one outside the rectangle. -/
def Sys2Proof.Machine.Claims.PlacesDeliver : Prop :=
  ∀ (s : State) (f : Form) (x : Iss) (l : Nat) (p : Place), Issues s (.place f) x →
    let y : Iss := { x with g := { x.g with ra := x.f.imm.isNone } }
    y.Once [[.i32, .n32, .raw]] l → placeOf ((x.f.imm.getD (opnd (y.vals l) 0)).setWidth 32) = some p →
    (Answers s (.place f) (y.pop.same 6 [(BitVec.ofNat 64 (placeValue s.dev x.v p), .n32)]).done) ∧
    (placeQuad s.dev x.v p = none → placeValue s.dev x.v p = 0)

/-- R384, R385, R387: page-table forms of a service wave: `ptset` and `pgcnt` bind their result to an entry; `tlbinv` starts an
invalidation once the earlier `ptset`s are written, and completes when that has; without the service bit each raises PROT. -/
def Sys2Proof.Machine.Claims.PageTableFormsComplete : Prop :=
  (∀ (s : State) (f : Form) (x : Iss) (l : Nat), Issues s (.ptset f) x →
    let full := x.f.x13.getLsbD 5
    let y : Iss := { x with g := { x.g with rb := full } }
    y.Once [[.ptr], [.n64, .i64, .raw]] l →
    (x.service = false → Answers s (.ptset f) (y.trap tProt 0)) ∧
    (x.service = true → recFree x.v = true → Answers s (.ptset f)
      (y.binds [.n32] (y.recOf 1 11 (maskOf y.active) (.ptset ((opnd (y.vals l) 0).setWidth 57) full (x.f.x13.getLsbD 4)
        (bits x.f.x13 0 4) (opnd (y.vals l) 1)) [])).done)) ∧
  (∀ (s : State) (f : Form) (x : Iss) (l : Nat), Issues s (.pgcnt f) x → x.Once [[.ptr]] l →
    (x.service = false → Answers s (.pgcnt f) (x.trap tProt 0)) ∧
    (x.service = true → recFree x.v = true → Answers s (.pgcnt f)
      (x.binds [.n32] { x.recOf (if x.f.x13.getLsbD 0 then 2 else 0) 13 (maskOf x.active)
        (.pgcnt ((opnd (x.vals l) 0).setWidth 57) (x.f.x13.getLsbD 0)) [] with state := .timed (x.cc + 200) }).done)) ∧
  (∀ (s : State) (f : Form) (x : Iss) (l : Nat), Issues s (.tlbinv f) x → x.Once [[.ptr], [.n32, .n64]] l →
    let a : VAddr := (opnd (x.vals l) 0).setWidth 57
    let n := (opnd (x.vals l) 1).toNat
    let num := x.w.d.invalNum + 1
    (x.p.stage = .idle → x.service = false → Answers s (.tlbinv f) (x.trap tProt 0)) ∧
    (x.p.stage = .idle → x.service = true → a.toNat % 4096 = 0 → n % 4096 = 0 → n ≤ 2 ^ 40 →
      x.v.recs.all (fun r => r.kind != 11) = true → recFree x.v = true →
      let r := x.recOf 0 12 (maskOf (x.active.take 1)) (.tlbinv a n num) []
      Answers s (.tlbinv f) ((((x.addRec r).stage (.tlbinv num)).wait 10).upd (fun d =>
        startInval d x.v.ctx a.toNat n (some (x.v.uid, r.seq))))) ∧
    (∀ k, x.p.stage = .tlbinv k → s.dev.invals.all (fun i => i.num != k) = true → Answers s (.tlbinv f) x.pop.done))

/-- srd, swr, place, ptset, pgcnt and tlbinv complete: the claims above. -/
def Obligations.SystemFormsComplete : Prop :=
  Claims.SpecialRegistersComplete ∧ Claims.PlacesDeliver ∧ Claims.PageTableFormsComplete

/-- R254: what a walk finds. A leaf it answers is valid, has no reserved field set, and lies on a multiple of its page's
size; the page sizes of each level are those of the table. -/
def Obligations.WalksFindLeaves : Prop :=
  (∀ (w : Work) (va : VAddr) (l base : Nat) (e : Word) (k level n : Nat), walkFrom w va l base = .leaf e k level n →
    pteV e = true ∧ pteL e = true ∧ leafReserved e = false ∧ level ≤ l ∧ pageBytes level (pteSize e) = some n ∧
    ptePa e % n = 0 ∧ keyRegion k = 0 ∧ w.word k = e) ∧
  (∀ level size n, pageBytes level size = some n ↔
    (level = 0 ∧ (size, n) ∈ [(0, 4096), (1, 16384), (2, 65536), (3, 262144)]) ∨
    (level = 1 ∧ (size, n) ∈ [(0, 2097152), (1, 33554432), (2, 536870912)]) ∨ (level = 2 ∧ size = 0 ∧ n = 1073741824))

/-- R384: a `ptset` that finds a malformed or absent entry writes nothing and delivers 1; one of a whole entry that is no
leaf of the same size writes nothing and delivers 2; any other delivers 0 and writes only entries of its group. That a
malformed entry counts as no entry is the model's reading (log 37). -/
def Obligations.PageTableWritesStayInTheGroup : Prop :=
  ∀ (w : Work) (c : Ctx) (a : VAddr) (full val : Bool) (m : Nat) (v : Word),
    let r := performPtset w c a full val m v
    ((∀ e k l n, walk w c a ≠ .leaf e k l n) → r = (w, 1)) ∧
    (∀ e k l n, walk w c a = .leaf e k l n →
      let g := 8 * groupEntries l (pteSize e)
      (full = true → (pteV v = false ∨ pteL v = false ∨ pteSize v ≠ pteSize e) → r = (w, 2)) ∧
      (r.2 = 2 ∨ (r.2 = 0 ∧ ∀ b, (keyRegion b ≠ 0 ∨ keyOffset b / g ≠ keyOffset k / g) → r.1.byte b = w.byte b)))

/-! ## Steps of the device -/

namespace Sys2Proof.Machine

/-- R40, R48: what the launch unit takes next: a queue with a descriptor, or a request of a `launch`; `waits` says whether its
acceptance resumes after a wait. -/
def queueReady (d : Dev) (n : Nat) (waits : Bool) (q : LaunchQueue) (c : Ctx) : Prop :=
  d.queues[n]? = some q ∧ d.ctx q.ctx = some c ∧ q.enabled = true ∧ q.head ≠ q.tail ∧ q.waitsOn.isSome = waits ∧ q.resumed = waits
def requestReady (d : Dev) (waits : Bool) (q : LaunchReq) (c : Ctx) : Prop :=
  d.launchReqs.find? (fun q => q.waitsOn.isSome == waits && q.resumed == waits && !uninjected d q.wave q.seq) = some q ∧
    d.ctx q.ctx = some c

/-- The step that accepts, and the one that resumes acceptance. -/
def acceptStep (waits : Bool) (q : Option Nat) : Instr := if waits then .acceptanceResume q else .launchAccept q

end Sys2Proof.Machine

/-- R40, R46, R383, R435: outside the safe state and without a replay, the launch unit accepts the descriptor at the head of an
enabled queue, in the order of the tail writes, whose head advances unless a page of it does not translate; or that of a
`launch`. In replay mode the next launch of the log is taken with the images the log holds. A TAIL past the ring is rejected by
REJECT. -/
def Sys2Proof.Machine.Claims.LaunchUnitAccepts : Prop :=
  (∀ (s : State) (n : Nat) (waits : Bool) (q : LaunchQueue) (c : Ctx), s.dev.mg.safe = false → s.dev.mg.recMode ≠ .replay →
    queueReady s.dev n waits q c → (waits = false → nextQueue s.dev = some n) →
    Answers s (acceptStep waits (some n)) (acceptQueue s.work n q c) ∧
    (∀ id w q', takeAt s.work (.queue n) c q.headAt = .inl (id, w) → w.d.queues[n]? = some q' →
      (acceptQueue s.work n q c).d.queues[n]? = some { q' with head := (q.head + 1) % 65536, waitsOn := none, resumed := false })) ∧
  (∀ (s : State) (waits : Bool) (q : LaunchReq) (c : Ctx), s.dev.mg.safe = false → s.dev.mg.recMode ≠ .replay →
    requestReady s.dev waits q c → Answers s (acceptStep waits none) (acceptRequest s.work q c (takeRequest q c))) ∧
  (∀ (s : State) (n i id : Nat) (c : Ctx) (t : Taken), s.dev.mg.safe = false →
    nextInput s.dev = some (.launch (.queue n) i id t) → s.dev.ctx i = some c →
    Answers s (.launchAccept (some n)) (settleLaunch (s.work.upd dropInput) c t).2) ∧
  (∀ (s : State) (n : Nat) (v : Word) (q : LaunchQueue), s.dev.queues[n]? = some q →
    Answers s (.launchQueueTailWrite n v)
      (if s.dev.mg.safe = false ∧ bits v 16 48 = 0 ∧ (bits v 0 16 + 65536 - q.head) % 65536 ≤ 2 ^ q.log2
        then s.work.upd (fun d => { d with
          queues := updAt d.queues n (fun q => { q with tail := bits v 0 16 })
          tails := if bits v 0 16 = q.head then d.tails else d.tails ++ [(n, bits v 0 16)] })
        else s.work.upd (fun d => reject d (queueOffset n + 24))))

/-- R37, R42, R47, R48, R57: a running launch whose tasks have all ended and committed retires, its tasks go, and its
notification is posted; the first waiting task that fits is placed, which makes a ready launch run; and tasks are chosen for
pre-emption where a waiting one has waited its quantum, and the places are kept for it. -/
def Sys2Proof.Machine.Claims.LaunchesRunAndRetire : Prop :=
  (∀ (s : State) (c i : Nat) (l : Launch), s.dev.launch c i = some l → l.state = .running →
    (∀ t ∈ s.dev.tasks, t.ctx = c → t.launchId = i → taskOver s.dev t = true) →
    let w := (setLaunch s.work c i .retired).upd (fun d =>
      { d with tasks := d.tasks.filter (fun t => !(t.ctx == c && t.launchId == i)) })
    Answers s (.launchRetire c i) (post w .launchUnit c (launchNotif w.d ((w.d.launch c i).getD l)) (.launch c i))) ∧
  (∀ (s : State) (t : Task) (ox oy : Nat) (l : Launch), s.dev.mg.safe = false → nextPlacement s.dev = some (t, ox, oy) →
    s.dev.launch t.ctx t.launchId = some l → t.placedOnce = false →
    let w := s.work.upd (fun d => placeTask d l t ox oy)
    Answers s .taskPlacement (if l.state = .ready then setLaunch w l.ctx l.id .running else w)) ∧
  (∀ (s : State) (t : Task) (vs : List Nat), rotationChoice s.dev = some (t, vs) →
    Answers s .rotationPreempt (s.work.upd (fun d =>
      (vs.foldl choose d).updTask t.uid (fun u => { u with claim := originFor d (leavingTasks d ++ vs) t }))))

/-- Launches are accepted, placed, rotated and retired: the claims above. -/
def Obligations.LaunchesPass : Prop :=
  Claims.LaunchUnitAccepts ∧ Claims.LaunchesRunAndRetire

/-- R53, R35, R227: a cc passes; a swap period ends with a swap, at once or when the chosen split has left issue; a sleep
that has run out and a yield that has ended let their split issue again. -/
def Sys2Proof.Machine.Claims.CyclesPass : Prop :=
  (∀ s : State, Answers s .coreCycle (passCycle s.work) ∧ (passCycle s.work).d.cc = s.dev.cc + 1 ∧
    (passCycle s.work).d.issued = [] ∧ (passCycle s.work).d.tried = [] ∧ KeepsMemory s ((passCycle s.work).after s)) ∧
  (∀ (s : State) (u : Nat) (v : Wave) (p : Split), s.dev.wave u = some v → v.spilled ≠ [] → 4096 ≤ v.spillCount →
    longestLoaded v = some p → Answers s (.splitSwapPeriod u) (s.work.upd (fun d => d.updWave u (fun v =>
      let due := { v with spillCount := v.spillCount - 4096 }
      if inIssue d v p then { due with swapDue := true, swapSplit := p.num } else swapSplits due p.num d.cc)))) ∧
  (∀ (s : State) (u : Nat) (v : Wave) (p : Split), s.dev.wave u = some v → v.swapDue = true → v.split v.swapSplit = some p →
    inIssue s.dev v p = false → Answers s (.splitSwapDeferred u) (s.work.upd (fun d => d.updWave u (fun v =>
      if p.loaded then swapSplits v p.num d.cc else { v with swapDue := false })))) ∧
  (∀ (s : State) (u n : Nat) (v : Wave) (p : Split), s.dev.wave u = some v → v.split n = some p →
    (p.asleep = true → p.sleep = 0 → Answers s (.sleepExpiry u n) (s.work.upd (fun d => d.updWave u (fun v =>
      v.updSplit n (fun p => { p with asleep := false }))))) ∧
    (∀ y, p.yield = some y → y.fresh = false → (y.peers = [] ∨ y.until_ ≤ s.dev.cc) → Answers s (.yieldEnd u n) (s.work.upd (fun d =>
      d.updWave u (fun v => v.updSplit n (fun p => { p with yield := none }))))))

namespace Sys2Proof.Machine

/-- R93: a record entry whose replies have come by a cc, of an operation that only waits for them. -/
def repliesCome (cc : Nat) (r : Rec) : Prop :=
  r.frozen = false ∧ r.injected = true ∧ r.results ≠ [] ∧ (r.state = .sent ∨ r.state = .replied ∨ ∃ c, r.state = .timed c ∧ c ≤ cc) ∧
  (match r.op with
   | .load _ _ _ | .store _ | .atom _ _ _ | .update _ _ _ | .reduce _ _ _ _ | .gget _ _ | .gset _ _ _ _ | .arrival _ _ |
     .launch _ | .send _ _ => True
   | _ => False)

end Sys2Proof.Machine

/-- R93, R293, R264, R384, R387, R319, R324, R418, R105: what arrives for a record entry: replies are accepted; an access whose turn
has come is performed; a page-table form delivers its status, a page count its count; a counter operation acts in its turn, and
is kept in its unit's filter until it is acknowledged, as a page count that resets is (log 18). A delivery fills its inbox slot. -/
def Sys2Proof.Machine.Claims.ArrivalsAreTaken : Prop :=
  (∀ (s : State) (u q : Nat) (v : Wave) (r : Rec), s.dev.wave u = some v → v.rec_ q = some r →
    (repliesCome s.dev.cc r → Answers s (.longLatencyArrival u q) (acceptReplies s.work v r)) ∧
    (∀ w, r.results = [] → r.state = .sent → r.frozen = false → r.injected = true → ((∃ n, r.op = .store n) ∨ ∃ t n k, r.op = .load t n k) →
      performRec s.work v r = some w → Answers s (.longLatencyArrival u q) w) ∧
    (∀ c a full val m x, r.frozen = false → r.injected = true → r.state = .sent → r.op = .ptset a full val m x →
      s.dev.ctx v.ctx = some c → (∀ k, walk s.work c a ≠ .lost k) →
      Answers s (.longLatencyArrival u q) (acceptAll (performPtset s.work c a full val m x).1 v r
        [(BitVec.ofNat 64 (performPtset s.work c a full val m x).2, .n32)])) ∧
    (∀ c a, r.frozen = false → r.injected = true → r.state = .timed c → c ≤ s.dev.cc → r.op = .pgcnt a false →
      Answers s (.longLatencyArrival u q) (acceptAll { s.work with d := (performPgcnt s.dev v.ctx a false).1 } v r
        [(BitVec.ofNat 64 (performPgcnt s.dev v.ctx a false).2, .n32)])) ∧
    (∀ c a d, r.frozen = false → r.injected = true → r.state = .timed c → c ≤ s.dev.cc → r.op = .pgcnt a true →
      heldResult s.dev v r .watchTable ((lanesOf r.lanes).headD 0) = none →
      let x := performPgcnt s.dev v.ctx a true
      let n := BitVec.ofNat 64 x.2
      keepFilters x.1 ((lanesOf r.lanes).map (fun l => recFilter v r .watchTable l [n])) = some d →
      Answers s (.longLatencyArrival u q) (acceptAll { s.work with d } v r [(n, .n32)])) ∧
    (∀ c d e, r.frozen = false → r.injected = true → r.state = .timed c → c ≤ s.dev.cc →
      ((∃ i n y, r.op = .post i n y) ∨ (∃ i n, r.op = .sig i n) ∨ ∃ i n, r.op = .pop i n) → counterTurn s.dev v r = true →
      heldResult s.dev v r (.bufUnit v.task v.place) 0 = none →
      keepFilters s.dev [recFilter v r (.bufUnit v.task v.place) 0 []] = some d → counterAct d v r = some e →
      Answers s (.longLatencyArrival u q) (settleWave ({ s.work with d := e }.upd (fun d =>
        ({ d with acks := d.acks ++ acksFor d v.launchId (tagOf v r.seq) }).updWave v.uid (fun v => v.dropRec r.seq))) v.uid))) ∧
  (∀ (s : State) (k : Nat) (x : Delivery), s.dev.deliveries[k]? = some x → Answers s (.inboxDelivery k)
    (s.work.upd (fun d => { d.updWave x.wave (fun v => v.deliverInbox d.cc x.inbox x.key x.vals) with
      deliveries := d.deliveries.eraseIdx k })))

namespace Sys2Proof.Machine

/-- The step in progress with a bank's request, or a group unit's, taken. -/
def bankTaken (s : State) (k : Nat) : Work := s.work.upd (fun d => { d with bankReqs := d.bankReqs.eraseIdx k })
def groupTaken (s : State) (k : Nat) : Dev := { s.dev with groupReqs := s.dev.groupReqs.eraseIdx k }

/-- R418: the filter entry of a group unit's request. -/
def groupFilter (q : GroupReq) : Filter :=
  { unit := q.unit, ctx := q.ctx, launchId := q.launchId, task := q.task, tag := q.tag, step := 0, lane := 0, result := [],
    spilled := false }

/-- The lanes of the record entry of a group unit's request. -/
def groupLanes_ (d : Dev) (q : GroupReq) : List Nat := match (d.wave q.wave).bind (fun v => v.rec_ q.seq) with
  | some r => lanesOf r.lanes
  | none => []

end Sys2Proof.Machine

/-- R250, R354, R358, R372, R374, R418, R435: a bank executes an injected request behind no earlier one of its core and replies, keeping its filter
entries, or refuses it where its store has no room, in which case it changes no byte; a group unit likewise; an
acknowledgment frees the entries it names; and a refused request goes again 64 cc later. -/
def Sys2Proof.Machine.Claims.UnitsExecuteRequests : Prop :=
  (∀ (s : State) (k : Nat) (q : BankReq), s.dev.bankReqs[k]? = some q → bankBehind s.dev q = false → uninjected s.dev q.wave q.seq = false →
    bankBad (bankTaken s k).d q = [] →
    let o := bankLanes (bankTaken s k) q
    (∀ d w, keepFilters o.2.2.d o.2.1 = some d →
      (if bankI2 q.op then orderGate { o.2.2 with d } true (q.die * 64 + q.bank) q.launchId q.tag else some { o.2.2 with d }) = some w →
      Answers s (.bankOperation k) (w.upd (fun d => reply d q.wave q.seq o.1))) ∧
    (keepFilters o.2.2.d o.2.1 = none → Answers s (.bankOperation k) ((bankTaken s k).upd (fun d => refuse d q.wave q.seq)))) ∧
  (∀ (s : State) (k : Nat) (q : GroupReq), s.dev.groupReqs[k]? = some q → q.at_ ≤ s.dev.cc →
    uninjected s.dev q.wave q.seq = false →
    (s.dev.groupReqs.take k).all (fun r => r.wave != q.wave || r.entry != q.entry) = true →
    let d := groupTaken s k
    let rs (x : List (Word × Ty)) := (groupLanes_ d q).map (fun l => (l, x))
    (groupI2 q.op = false →
      Answers s (.groupUnitRequest k) { s.work with d := reply (groupExec d q).2 q.wave q.seq (rs (groupExec d q).1) }) ∧
    (∀ d' w, groupI2 q.op = true → marked d q.ctx = false → keepFilters d [groupFilter q] = some d' →
      orderGate { s.work with d := d' } false (q.entry % 8) q.launchId q.tag = some w →
      Answers s (.groupUnitRequest k) { w with d := reply (groupExec w.d q).2 q.wave q.seq (rs []) })) ∧
  (∀ (w : Work) (bank : Bool) (unit launchId tag : Nat), w.d.mg.recMode = .off → orderGate w bank unit launchId tag = some w) ∧
  (∀ (s : State) (k : Nat) (a : Ack), s.dev.acks[k]? = some a → Answers s (.filterAcknowledgment k) (s.work.upd (fun d => { d with
    acks := d.acks.eraseIdx k
    filters := d.filters.filter (fun f => !(f.unit == a.unit && f.launchId == a.launchId && f.tag == a.tag && f.step == a.step)) }))) ∧
  (∀ (s : State) (k c : Nat) (v : Wave) (r : Rec), (refusedRecs s.dev)[k]? = some (v, r, c) → c + 64 ≤ s.dev.cc →
    Answers s (.refusedI2RequestResend k) (s.work.upd (fun d => resend d v r)))

/-- Replies are taken and units execute requests: the claims above. -/
def Obligations.RequestsArePerformed : Prop :=
  Claims.ArrivalsAreTaken ∧ Claims.UnitsExecuteRequests

/-- R372: an arrival counts, and the last member's releases the generation. R374: of the sets of a slot in one cc that of the
highest wave number stands; a read gives what stood before the sets of its own cc. -/
def Obligations.GroupsCountArrivals : Prop :=
  ∀ (g : Group) (cc n : Nat) (v : Word) (t : Ty) (k : Nat), k < g.slots.length → k < g.sets.length →
    (g.release.gen = (g.gen + 1) % 256 ∧ g.release.arrived = 0 ∧ g.release.broken = g.broken) ∧
    (g.arrival = if g.arrived + 1 = g.count then { g with arrived := 0, gen := (g.gen + 1) % 256 }
      else { g with arrived := g.arrived + 1 }) ∧
    (∀ later, later ≠ cc → (∀ m v0 t0, g.sets.getD k none = some (cc, m, v0, t0) → m ≤ n) →
      (g.set cc n k v t).get later k = (v, t)) ∧
    (∀ later m v0 t0, g.sets.getD k none = some (cc, m, v0, t0) → n < m → (g.set cc n k v t).get later k = g.get later k) ∧
    (∀ j, (g.set cc n k v t).get cc j = g.get cc j)

/-- R266 to R268, R270, R275, R281, R282: merged requests begin a boundary in a later cc than the one before it ended, and the device
may add one; a commit is written once its stores stand, and ends when every commit it awaits waits for it, in the same step as
these; a neighbour's number is received; ticks fall, and count; a guard of 1,024 cc ends. -/
def Sys2Proof.Machine.Claims.BoundariesAndTicksPass : Prop :=
  (∀ (s : State) (core : Nat), (s.dev.core core).boundary = none →
    ((s.dev.core core).merged = none ∨ (s.dev.core core).ended < s.dev.cc) →
    Answers s (.mergedBoundaryStart core)
      (tryCommit (s.work.upd (fun d => startBoundary (d.updCore core (fun c => { c with merged := none })) core
        ((s.dev.core core).merged.getD true))) core)) ∧
  (∀ (s : State) (core : Nat) (b : Boundary), (s.dev.core core).boundary = some b →
    (b.written = false → storesStand s.dev core = true → Answers s (.commitComplete core) (tryCommit s.work core)) ∧
    (b.written = true → b.done = false → awaitsNone s.dev b.serial = true → ∃ d, completeBoundary s.dev core = some d ∧
      d.openCommits = s.dev.openCommits.filter (fun q => !(commitGroup s.dev b.serial).contains q) ∧
      (∀ c ∈ commitCores s.dev (commitGroup s.dev b.serial), c < s.dev.cores.length → c ≠ core →
        (d.core c).boundary.map Boundary.done = some true ∧
        some (d.core c).committed = (s.dev.core c).boundary.map Boundary.num) ∧
      Answers s (.commitComplete core) ((jointCores s.dev core).foldl (fun w c => afterBoundary w c [])
        (afterBoundary { s.work with d } core (awaitingEntry s.dev core))))) ∧
  (∀ (s : State) (task core n nx ny nc : Nat) (t : Task) (l : Launch), s.dev.task task = some t →
    s.dev.launch t.ctx t.launchId = some l → core / 4 % 12 < l.w → core / 4 / 12 < l.h →
    (neighbours l.w l.h (core / 4 % 12) (core / 4 / 12) (core % 4)).getD n none = some (nx, ny, nc) →
    Answers s (.neighbourNumberReceived task core n) (s.work.upd (fun d => d.updTask task (fun t => { t with
      cores := updAt t.cores ((core / 4 / 12 * l.w + core / 4 % 12) * 4 + core % 4)
        (fun k => { k with nbr := updAt k.nbr n (fun y => y.receive s.dev.cc (coreNumber s.dev task nx ny nc)) }) })))) ∧
  (∀ s : State, s.dev.hb.next ≤ s.dev.cc → ∃ w, Answers s .packageTick w ∧
    w.d.hb.count = (s.dev.hb.count + 1) % 2 ^ 64 ∧ w.d.hb.logP = s.dev.hbPending.getD s.dev.hb.logP ∧
    w.d.hb.next = s.dev.hb.next + 2 ^ w.d.hb.logP ∧ w.d.hbPending = none ∧ KeepsMemory s (w.after s)) ∧
  (∀ s : State, s.dev.hb.domRunning = true → s.dev.hb.domNext ≤ s.dev.cc → ∃ w, Answers s .domainTick w ∧
    w.d.hb = { s.dev.hb with
      domCount := (s.dev.hb.domCount + 1) % 2 ^ 64, domNext := s.dev.hb.domNext + 16 * 2 ^ s.dev.hb.logP } ∧
    KeepsMemory s (w.after s)) ∧
  (∀ (s : State) (u n c : Nat) (v : Wave) (p : Split), s.dev.wave u = some v → v.split n = some p → p.stage = .scGuard c →
    c + 1024 ≤ s.dev.cc → Answers s (.fencescGuardExpiry u n) (s.work.upd (fun d => d.updWave u (fun v =>
      v.updSplit n (fun p => { p with stage := .scEntry none })))))

/-- Cycles, swaps, ticks and boundaries pass: the claims above. That commits which await each other complete in one step is log 74
(DEDUCED), and that the device may add a boundary of its own is log 75. -/
def Obligations.TimePasses : Prop :=
  Claims.CyclesPass ∧ Claims.BoundariesAndTicksPass

/-- R256, R257, R385, R386, R240, R244, R414, R261: walks complete; an invalidation completes once the accesses it covers have
landed, and the accesses it covers try again; the host may invalidate whole pages; fills arrive, lines leave the LLC, images
that do not fit leave the Toybox a slice's part at a time, counted requests count, but not before a reset of their page that is
due, and soft errors are counted. The size of an image's part (log 78), a wave's events counted under its context (log 47), and an
uncorrectable error counted as it occurs (log 48) are the model's choices. -/
def Obligations.MemorySystemSteps : Prop :=
  (∀ (s : State) (u q : Nat) (w : Work), xlateRec (beginWalk s.work u q) u q false = some w →
    Answers s (.tableWalkComplete u q) (settleWave w u)) ∧
  (∀ (s : State) (k : Nat) (i : Inval), s.dev.invals[k]? = some i → i.pending.all (fun p => !notLanded s.dev p) = true →
    (∀ x, i.wave = some x → uninjected s.dev x.1 x.2 = false) →
    let drop (d : Dev) : Dev := match i.wave with
      | some (u, q) => d.updWave u (fun v => v.dropRec q)
      | none => d
    let w := releaseRange (s.work.upd (fun d => drop { d with invals := d.invals.eraseIdx k })) i
    Answers s (.tlbinvComplete k) (match i.wave with
      | some (u, _) => settleWave w u
      | none => w)) ∧
  (∀ (s : State) (c : Nat) (va : VAddr) (size : Nat), (s.dev.ctx c).isSome = true → va.toNat % 4096 = 0 → size % 4096 = 0 →
    Answers s (.hostInvalidation c va size) (s.work.upd (fun d => startInval d c va.toNat size none)) ∧
    ∀ core e, e ∈ ((startInval s.dev c va.toNat size none).core core).tlb → e.ctx = c → size ≠ 0 →
      ¬ (va.toNat < e.page + e.size ∧ e.page < va.toNat + size)) ∧
  (∀ (s : State) (i : Nat) (x : Counted), s.dev.counted[i]? = some x → resetDue s.dev x = false →
    (∀ j y, j < i → s.dev.counted[j]? = some y → resetDue s.dev y = true) →
    Answers s .countedRequest (countRequest (s.work.upd (fun d => { d with counted := d.counted.eraseIdx i })) x)) ∧
  (∀ (s : State) (core line : Nat) (m : Miss), (s.dev.core core).misses.find? (fun m => m.line == line) = some m →
    ∃ w, Answers s (.l1Fill core line) w ∧ KeepsMemory s (w.after s) ∧
      (core < s.dev.cores.length → ∀ x ∈ (w.d.core core).misses, x.line ≠ line)) ∧
  (∀ (s : State) (line : Nat), ((∃ x ∈ s.dev.dirs, x.line = line) ∨ (∃ c ∈ s.dev.dirty, lineOf c.key = line) ∨
      ∃ x ∈ s.dev.visitors, x.line = line) →
    ∃ w, Answers s (.llcEviction line) w ∧ KeepsMemory s (w.after s) ∧ w.d.dirs = s.dev.dirs.filter (fun x => x.line != line) ∧
      w.d.visitors = s.dev.visitors.filter (fun x => x.line != line) ∧ ∀ c ∈ w.d.dirty, lineOf c.key ≠ line) ∧
  (∀ (s : State) (task : Nat) (t : Task) (i : Image), s.dev.task task = some t → t.image = some i → i.spilled < i.size →
    2097152 * (s.dev.toyboxPending.getD s.dev.toybox) < toyboxUsed s.dev → i.bad = false →
    Answers s (.toyboxSpill task) (s.work.upd (fun d => d.updTask task (fun t => { t with
      image := some { i with spilled := i.spilled + min ((i.size + 127) / 128) (i.size - i.spilled) } })))) ∧
  (∀ (s : State) (p : Part) (a : Nat) (ok : Bool), (ok = true ∨ partHolds p a = true) → ∃ w, Answers s (.softErrorCorrection p a ok) w ∧ KeepsMemory s (w.after s) ∧
    (ok = true → w.d.bad = s.dev.bad ∧ w.d.mg.ueCount = s.dev.mg.ueCount) ∧
    (ok = false → w.d.mg.ueCount = (s.dev.mg.ueCount + 1) % 2 ^ 64 ∧ (keyRegion a ≠ 7 → eccUnit a ∈ w.d.bad)))

namespace Sys2Proof.Machine

/-- R188, R202: a step that moves 256 bytes of an image in progress: its free bit is drawn, and the pages of the bytes are walked. -/
def chunkWork (s : State) (v : Wave) (o : OpSlot) : Work :=
  let w := s.work.freeBit.2
  if o.scratch then w else walkPages w v ((chunkUnits o).map (BitVec.ofNat 57))

end Sys2Proof.Machine

/-- R181, R185, R188, R191 to R195, R202: leave is granted to the first that asked, unless the governor holds grants back; a matrix
operation takes a step with the members of its gang, and completes when the steps of all are done and the time of all their
passes is up; a gang whose members have all arrived leaves the latch and runs as one joint operation where they agree, and else
every member takes ILLEGAL; a tile transfer moves 256 bytes a cc where their pages translate, and an `astr` stores its image, all
at once, when it completes. -/
def Obligations.MatrixEngineSteps : Prop :=
  (∀ (s : State) (k u n : Nat) (chain : Bool) (t : List (Bool × Nat × Nat)), s.dev.gov.held = false → s.dev.gov.hot = false →
    (s.dev.quad k).leaveQueue = (chain, u, n) :: t → Answers s (.leaveGrant k) (s.work.upd (fun d =>
      let d := d.updQuad k (fun q => { q with leaveQueue := t })
      if chain then grantChain d k u n else grantSlot d u n))) ∧
  (∀ (s : State) (u k : Nat) (v : Wave) (o : OpSlot), s.dev.wave u = some v → v.slots[k]? = some o → (o.kind = .mma ∨ o.kind = .mmas) →
    slotRuns s.dev v o = true → o.begun = true →
    let n := (v.tile o.tile).progress
    let w := s.work.freeBit.2
    let ms := partners s.dev v o
    let r := matRate (opAt o.operand)
    (n < opKs o.operand → Answers s (.matrixKstepComplete u k)
      (kStepAt (ms.foldl (fun w m => walkPages w m.1 (stepPages m.2 n)) w) ms s.work.freeBit.1 n)) ∧
    ((∀ m ∈ ms, opKs m.2.operand ≤ (m.1.tile m.2.tile).progress) →
      o.begunAt + 32 + ((ms.map (fun m => m.2.passes)).sum + r - 1) / r ≤ s.dev.cc →
      Answers s (.matrixOpComplete u k)
        (ms.foldl (fun w m => settleWave (w.upd (fun d => slotDone d m.1.uid m.2.order)) m.1.uid) s.work))) ∧
  (∀ (s : State) (task core : Nat) (t : Task) (l : Launch) (as : List LatchArrival),
    let i := (core / 4 / 12 * l.w + core / 4 % 12) * 4 + core % 4
    s.dev.task task = some t → s.dev.launch t.ctx t.launchId = some l → core / 4 % 12 < l.w → core / 4 / 12 < l.h →
    (t.cores[i]?).bind (readyGang s.dev task (core / 4 % 12) (core / 4 / 12) (core % 4)) = some as →
    let alike := (as.drop 1).all (fun a => arrivalsAgree (as.headD { wave := 0, order := 0, set := 0, operand := 0, b := 0 }) a)
    ∃ w, Answers s (.gangJoin task core) w ∧ KeepsMemory s (w.after s) ∧
      (∀ t', w.d.task task = some t' → ∀ c, t'.cores[i]? = some c → ∀ a ∈ as, a ∉ c.latch) ∧
      (alike = true → w.d.traps = s.dev.traps ∧ ∃ joint, ∀ a ∈ as, ∀ v, w.d.wave a.wave = some v → ∀ o ∈ v.slots, o.order = a.order →
        o.joined = true ∧ o.joint = some joint) ∧
      (alike = false → ∀ a ∈ as, ∀ v, s.dev.wave a.wave = some v → (∃ o ∈ v.slots, o.order = a.order) →
        ∃ x ∈ w.d.traps, x.code = tIllegal ∧ x.wave = some a.wave)) ∧
  (∀ (s : State) (u k : Nat) (v : Wave) (o : OpSlot), s.dev.wave u = some v → v.slots[k]? = some o → o.kind = .ald →
    slotRuns s.dev v o = true → o.begun = true → o.begunAt + 1 ≤ s.dev.cc → o.bytes < imageBytes o.canonical →
    let w := chunkWork s v o
    let ways := unitWays w v o s.work.freeBit.1 (chunkUnits o)
    let w' := (loadChunk w v o ways).upd (fun d => chunkMoved d v o)
    (∀ x, firstStop ways = some x → Answers s (.tileTransferComplete u k) (stopSlot w v o x)) ∧
    (firstStop ways = none → Answers s (.tileTransferComplete u k)
      (if o.bytes + 256 < imageBytes o.canonical then w' else settleWave (w'.upd (fun d => slotDone d u o.order)) u))) ∧
  (∀ (s : State) (u k : Nat) (v : Wave) (o : OpSlot), s.dev.wave u = some v → v.slots[k]? = some o → o.kind = .astr →
    slotRuns s.dev v o = true → o.begun = true →
    let w := chunkWork s v o
    let b := s.work.freeBit.1
    let ways := unitWays w v o b (chunkUnits o)
    (o.bytes + 256 < imageBytes o.canonical →
      o.begunAt + (if o.canonical && o.bytes == 0 && !tileResolved (v.tile o.tile) then 25 else 1) ≤ s.dev.cc →
      (∀ x, firstStop ways = some x → Answers s (.tileTransferComplete u k) (stopSlot w v o x)) ∧
      (firstStop ways = none → Answers s (.tileTransferComplete u k)
        (w.upd (fun d => chunkMoved (countLines d v.ctx (.op u o.order) (wayLines ways)) v o)))) ∧
    (imageBytes o.canonical ≤ o.bytes → counting s.dev (.op u o.order) = false →
      let w := s.work.freeBit.2
      let ways := unitWays w v o b (imageUnits o)
      (∀ x, firstStop ways = some x → Answers s (.tileTransferComplete u k) (stopSlot w v o x)) ∧
      (∀ w', firstStop ways = none → storeImage w v o ways = some w' → Answers s (.tileTransferComplete u k) w')))

namespace Sys2Proof.Machine

/-- R329: the four words of the entry a chain stands at: those it has read, or those it reads now. -/
def entryWords (s : State) (c : Chain) : List Word :=
  if c.words.isEmpty then (List.range 4).map (fun i => shareWord s.work c.task c.pos (c.entry + 8 * i)) else c.words

/-- The chain with the words of its entry, read once. -/
def reading (s : State) (c : Chain) : Chain := { c with words := entryWords s c }

/-- R329, R335, R259, R261: the chain an engine runs stands, begun, waiting for no grant and no page and with no request still to
be counted, at an entry of a kind that lies in the share and can be read, whose words are `x`. -/
structure ChainAt (s : State) (quad engine kind : Nat) (c : Chain) (v : Wave) (x : Nat → Word) : Prop where
  chain : chainOf s.dev quad engine = some c
  wave : s.dev.wave c.wave = some v
  begun : c.running = true ∨ chainOpen s.dev c = true
  landed : c.landed = false
  free : c.wait ≠ .leave ∧ ∀ a, c.wait ≠ .xlate a
  counted : kind ≠ 1 → kind ≠ 2 → counting s.dev (.chain c.wave c.rec_) = false
  share : ∃ q, taskQuad s.dev c.task c.pos = some q ∧ c.entry + 32 ≤ q.share
  sound : c.words = [] → lostIn s.dev (kShare c.task c.pos c.entry) 32 = none
  words : ∀ i, x i = (entryWords s c).getD i 0
  last : x 3 = 0
  kind : ceKind (x 0) = kind

/-- The chain of an engine changed. -/
def chainBecomes (s : State) (quad engine : Nat) (c : Chain) (f : Chain → Chain) : Work :=
  s.work.upd (fun d => updChain d quad engine c f)

end Sys2Proof.Machine

/-- R330, R316, R344: the control entries of a chain: END completes it; LOOP goes back while its count, less one, is not zero; IF
goes to the next entry, or past those it skips; WAITCB goes on once the counter has reached its number, and else waits, and
raises BOUNDS on an unbound buffer; SIGNAL performs its release in its turn and goes on, or raises BOUNDS where fewer slots
are taken and not yet filled. -/
def Sys2Proof.Machine.Claims.ChainEntriesStep : Prop :=
  (∀ (s : State) (k e : Nat) (c : Chain) (v : Wave) (x : Nat → Word), ChainAt s k e 0 c v x →
    bits (x 0) 0 60 = 0 → x 1 = 0 → x 2 = 0 → Answers s (.chainEnd k e) (endChain s.work k e (reading s c))) ∧
  (∀ (s : State) (k e : Nat) (c : Chain) (v : Wave) (x : Nat → Word), ChainAt s k e 3 c v x →
    let n := bits (x 0) 44 16
    let back := bits (x 0) 32 12
    ∀ l ls, bits (x 0) 0 32 = 0 → n ≠ 0 → back ≠ 0 → enterLoop c n = some (l :: ls) →
    (l.count = 1 → Answers s (.chainLoop k e) (chainBecomes s k e c (fun _ => { c.goto (c.entry + 32) with
      os := c.os - (n - 1) * (x 1).toInt, od := c.od - (n - 1) * (x 2).toInt, loops := ls }))) ∧
    (2 ≤ l.count → c.head + 32 * back ≤ c.entry → (∀ m ∈ ls, m.entry < c.entry → m.entry + 32 * back < c.entry) →
      Answers s (.chainLoop k e) (chainBecomes s k e c (fun _ => { c.goto (c.entry - 32 * back) with
        os := c.os + (x 1).toInt, od := c.od + (x 2).toInt, loops := { l with count := l.count - 1 } :: ls })))) ∧
  (∀ (s : State) (k e : Nat) (c : Chain) (v : Wave) (x : Nat → Word) (b : Buf), ChainAt s k e 4 c v x →
    let src := bits (x 0) 58 2
    let skip := bits (x 0) 38 12
    src ≤ 1 → skip ≠ 0 → bits (x 0) 32 6 = 0 → x 1 = 0 → x 2 = 0 → bits (x 0) 52 6 < 32 →
    bufAt s.dev c.task c.pos (bits (x 0) 52 6) = some b → b.unready = false →
    Answers s (.chainIf k e) (chainBecomes s k e c (fun c => c.goto (c.entry +
      (if ifHolds (bits (x 0) 50 2) (if src = 0 then b.filled else b.free) (bits (x 0) 0 32) then 32 else 32 * (1 + skip)))))) ∧
  (∀ (s : State) (k e : Nat) (c : Chain) (v : Wave) (x : Nat → Word) (b : Buf), ChainAt s k e 6 c v x →
    let n := bits (x 0) 0 32
    bits (x 0) 57 2 = 0 → bits (x 0) 32 20 = 0 → x 1 = 0 → x 2 = 0 → 0 < n → n ≤ 256 →
    bufAt s.dev c.task c.pos (bits (x 0) 52 5) = some b → b.unready = false →
    let have_ := if (x 0).getLsbD 59 then b.free else b.filled
    (b.bound = false → Answers s (.chainWaitcb k e) (stopChain s.work k e (reading s c) tBounds 0)) ∧
    (b.bound = true → n ≤ have_ → Answers s (.chainWaitcb k e) (chainBecomes s k e c (fun c => c.goto (c.entry + 32)))) ∧
    (b.bound = true → have_ < n → c.wait ≠ .waitcb → Answers s (.chainWaitcb k e)
      (chainBecomes s k e c (fun _ => { reading s c with wait := .waitcb, running := true })))) ∧
  (∀ (s : State) (k e : Nat) (c : Chain) (v : Wave) (x : Nat → Word) (b : Buf) (d : Dev), ChainAt s k e 5 c v x →
    let n := bits (x 0) 0 32
    let idx := bits (x 0) 52 6
    (x 0).getLsbD 58 = false → (x 0).getLsbD 59 = false → (x 0).getLsbD 51 = false → bits (x 0) 32 19 = 0 → x 1 = 0 → x 2 = 0 →
    idx < 32 → 0 < n → n ≤ 256 → bufAt s.dev c.task c.pos idx = some b → b.unready = false →
    b.inOrder s.dev.cc (c.place 0 e) = true →
    (b.unsent.length < n → Answers s (.chainSignal k e) (stopChain s.work k e (reading s c) tBounds 0)) ∧
    (n ≤ b.unsent.length → signalAt s.dev e (reading s c) v false idx (BitVec.ofNat 64 n) c.pos = some d →
      Answers s (.chainSignal k e) (s.work.upd (fun _ => updChain d k e c (fun c =>
        { c.goto (c.entry + 32) with step := (c.step + 1) % 65536 })))))

/-- R329, R316, R331 to R334, R344, R321, R322: an entry past the share, of an unknown kind, or with a fourth word not zero, stops
the chain by BOUNDS or ILLEGAL; a MOVE and a GATHER take their slots, or stop by BOUNDS on an unbound buffer, and then their
elements move; slots whose bytes have landed are published in their turn; a quad stalled for 4,096 cc enlarges the smallest
full buffer that is awaited. -/
def Sys2Proof.Machine.Claims.ChainTransfersStep : Prop :=
  (∀ (s : State) (k e kind : Nat) (c : Chain) (v : Wave) (q : TaskQuad), chainOf s.dev k e = some c → s.dev.wave c.wave = some v →
    (c.running = true ∨ chainOpen s.dev c = true) → c.landed = false → (c.wait ≠ .leave ∧ ∀ a, c.wait ≠ .xlate a) →
    taskQuad s.dev c.task c.pos = some q → (kind ≠ 1 → kind ≠ 2 → counting s.dev (.chain c.wave c.rec_) = false) →
    let x (i : Nat) : Word := (entryWords s c).getD i 0
    ∀ i, (kind, i) ∈ [(0, Instr.chainEnd k e), (1, .chainMove k e), (2, .chainGather k e), (3, .chainLoop k e), (4, .chainIf k e),
      (5, .chainSignal k e), (6, .chainWaitcb k e)] →
    (q.share < c.entry + 32 → Answers s i (stopChain s.work k e c tBounds 0)) ∧
    (c.entry + 32 ≤ q.share → (c.words = [] → lostIn s.dev (kShare c.task c.pos c.entry) 32 = none) →
      (7 ≤ ceKind (x 0) ∨ x 3 ≠ 0) → Answers s i (stopChain s.work k e c tIllegal 0))) ∧
  (∀ (s : State) (k e : Nat) (c : Chain) (v : Wave) (x : Nat → Word) (g : Bool), ChainAt s k e (if g then 2 else 1) c v x →
    let i : Instr := if g then .chainGather k e else .chainMove k e
    let c' := reading s c
    let p := planTransfer s.work c' v g (x 0) (x 1) (x 2)
    let all (ps : List Nat) (b : Nat) (f : Buf → Bool) : Prop := ∀ q ∈ ps, ∀ y, bufAt s.dev c.task q b = some y → f y = true
    (∀ ps b d, p = .slots ps b → all ps b Buf.bound → takeSlots s.dev k e c' ps b = some d → Answers s i { s.work with d }) ∧
    (∀ ps b, p = .slots ps b → all ps b Buf.bound → takeSlots s.dev k e c' ps b = none → c.wait ≠ .slot →
      Answers s i (chainBecomes s k e c (fun _ => { c' with wait := .slot, running := true }))) ∧
    (∀ ps b, p = .slots ps b → all ps b (fun y => !y.unready) → ¬ all ps b Buf.bound →
      Answers s i (stopChain s.work k e c' tBounds 0)) ∧
    (∀ code, p = .fault code → Answers s i (stopChain s.work k e c' code 0)) ∧
    (∀ t w, p = .go t → runTransfer s.work k e c' v t = .ok w → Answers s i w)) ∧
  (∀ (s : State) (k e : Nat) (c : Chain), chainOf s.dev k e = some c → c.landed = true →
    (c.leaveAsked = none ∨ c.leaveDone = true) → counting s.dev (.chain c.wave c.rec_) = false →
    let w0 := c.words.headD 0
    let place := c.place 0 e
    (ceHold w0 = true ∨ ∀ t ∈ c.taken, ∀ b, bufAt s.dev c.task t.1 (ceCbn w0) = some b → b.inOrder s.dev.cc place = true) →
    let w := if ceHold w0 then s.work else s.work.upd (fun d =>
      c.taken.foldl (fun d t => updBuf d c.task t.1 (ceCbn w0) (fun b => (b.publish t.2.1).act d.cc place)) d)
    Answers s (.slotLanding k e) (w.upd (fun d => updChain d k e c (fun c => c.goto (c.entry + 32))))) ∧
  (∀ (s : State) (k pos n : Nat) (t : Task) (b : Buf), 4096 ≤ (s.dev.quad k).stallRun →
    smallestFull s.dev (fullAwaited s.dev k) = some (t, pos, n) → bufAt s.dev t.uid pos n = some b →
    let e := growSlots b (s.dev.quad k).spare
    (e ≠ 0 → Answers s (.quadStallEnlarge k) (enlarge s.work k t pos n e b)) ∧
    (e = 0 → Answers s (.quadStallEnlarge k) (deadlock s.work k)))

/-- The entries of a chain act: the claims above. -/
def Obligations.ChainsStep : Prop :=
  Claims.ChainEntriesStep ∧ Claims.ChainTransfersStep

/-! ## Messages, traps and pre-emption (R338 to R342, R403 to R421) -/

namespace Sys2Proof.Machine

/-- R448, R435, R438: a write of a context's register that is taken, and one that is refused, which only sets REJECT. The
package stands as the recorder leaves it, with the write in its log. -/
def CtxWrites (s : State) (i : Instr) (block off : Nat) (value : Word) (c : Ctx) (ok : Prop) (f : Dev → Dev) : Prop :=
  ∀ w, inputGate s.work (.mmio (blockOffset block + off) value) = some w → blockCtx w.d block = some c →
    (w.d.mg.safe = false → ok → Answers s i (w.upd f)) ∧
    (w.d.mg.safe = true ∨ ¬ ok → Answers s i (w.upd (fun d => reject d (blockOffset block + off))))

/-- R421, R418: a wave whose entries are issued again: its filter entries go, and its task is resident once its last wave is. -/
def replayEnds (d : Dev) (v : Wave) (u : Nat) : Dev :=
  let quiet (v : Wave) : Wave := { v with replaying := false, recs := v.recs.map (fun r => { r with replaying := false }) }
  clearMarks (endReplay { d.updWave u quiet with filters := d.filters.filter (fun f => !filterOf v f) } v.task)

/-- R10, R438: a write of a device register that is taken, and one that is refused. -/
def RegWrites (s : State) (i : Instr) (off : Nat) (ok : Prop) (f : Dev → Dev) : Prop :=
  (s.dev.mg.safe = false → ok → Leaves s i (f s.dev)) ∧ (s.dev.mg.safe = true ∨ ¬ ok → Leaves s i (reject s.dev off))

end Sys2Proof.Machine

/-- R338, R340 to R342: a message reaches the core it names, or is refused there and sent again 64 cc later; the oldest that
has a free slot spawns its handler, or traps where its Marionette entry is not valid; the oldest held notification is
written; CX_NQHEAD advances within the ring, and is refused elsewhere. -/
def Obligations.MessageStepsPass : Prop :=
  (∀ (s : State) (k : Nat) (q : MsgReq) (t : Task), s.dev.msgReqs[k]? = some q → q.refusedAt = none →
    uninjected s.dev q.wave q.seq = false → s.dev.task q.msg.task = some t → t.holds = true → Answers s (.messageAccept k) (receive s.work k q t)) ∧
  (∀ (s : State) (k c : Nat) (q : MsgReq), s.dev.msgReqs[k]? = some q → q.refusedAt = some c → c + 64 ≤ s.dev.cc →
    Leaves s (.messageResend k) { s.dev with msgReqs := updAt s.dev.msgReqs k (fun q => { q with refusedAt := none }) }) ∧
  (∀ (s : State) (core i slot : Nat) (m : Msg) (t : Task) (l : Launch) (c : Ctx),
    (enum (s.dev.core core).messages).find? (fun im => mayHandle s.dev im.2 && (handlerSlot s.dev core im.2.ctx).isSome) = some (i, m) →
    handlerSlot s.dev core m.ctx = some slot → s.dev.task m.task = some t → s.dev.launch m.ctx m.launchId = some l →
    s.dev.ctx m.ctx = some c →
    let d := s.dev.updCore core (fun c => { c with messages := c.messages.eraseIdx i })
    let e := c.marion.getD m.handler 0
    (e.getLsbD 63 = true → Leaves s (.handlerSpawn core)
      (addWave d (handlerWave d l t core slot (BitVec.ofNat 57 (bits e 0 57)) m))) ∧
    (e.getLsbD 63 = false → Leaves s (.handlerSpawn core) (raise d (messageTrap d t m)))) ∧
  (∀ (s : State) (u : Nat) (c : Ctx) (h : HeldNotif) (rest : List HeldNotif) (w : Work), s.dev.ctx u = some c →
    c.held = h :: rest → (writeNotif s.work c h.entry = .written w ∨ writeNotif s.work c h.entry = .dropped w) →
    Answers s (.heldNotificationWrite u)
      (xlateWritten (finish (w.upd (fun d => d.updCtx u (fun c => { c with held := rest }))) h.fin) u h.fin)) ∧
  (∀ (s : State) (b : Nat) (v : Word) (c : Ctx), blockCtx s.dev b = some c →
    CtxWrites s (.cxNqheadWrite b v) b 0x010 v c
      (bits v 32 32 = 0 ∧ (c.nqTail + 2 ^ 32 - bits v 0 32) % 2 ^ 32 ≤ c.nqCount)
      (fun d => d.updCtx c.id (fun c => { c with nqHead := bits v 0 32 })))

/-- R405, R407, R408: the traps of a cc are delivered. A program-visible one halts its wave, whose split stands at the stop
point (or at the `rejoin` it has arrived at), with its record of eight dwords in the trap buffer of its context; a resume lets a
halted wave issue again from there, and naming any other wave has no effect; nor has naming one whose trap is unfinished,
its notification being held (R340, log 85). -/
def Obligations.TrapsHaltAndResume : Prop :=
  (∀ s : State, s.dev.traps ≠ [] → Answers s .trapDelivery ((deliverTraps s.work).upd clearMarks)) ∧
  (∀ (s : State) (b : Nat) (v : Word) (c : Ctx), CtxWrites s (.cxResumeWrite b v) b 0x028 v c (bits v 48 16 = 0)
    (fun d => resume d c.id (bits v 16 32) (bits v 0 16))) ∧
  (∀ (d : Dev) (v : Wave) (t : Trap) (p : Split), p ∈ v.splits → (∀ q ∈ v.splits, q.num = p.num → q = p) → t.wave = some v.uid →
    t.split = some p.num →
    let q : Split := if p.arrived then { p with trapped := true }
      else { p with pc := t.pc, trapped := true, stage := .idle, wait := none }
    let h := haltWave d v [t]
    h.halted = true ∧ h.haltList = v.haltList ++ [(p.num, t.code)] ∧ q ∈ h.splits ∧
    h.lanes = v.lanes ∧ h.counters = v.counters ∧
    (resumeWave h).halted = false ∧ { q with trapped := false } ∈ (resumeWave h).splits) ∧
  (∀ (d : Dev) (ctx l n : Nat),
    (∀ v ∈ d.waves, v.ctx = ctx → v.launchId = l → v.n = n → v.handler = none → v.halted = true → trapHeld d v = true) →
    resume d ctx l n = d) ∧
  (∀ (d : Dev) (v : Wave), v ∈ d.waves → v.handler = none → v.halted = true → trapHeld d v = false →
    resumeWave v ∈ (resume d v.ctx v.launchId v.n).waves) ∧
  (∀ (c : Ctx) (ds : List Word), c.trapRecs.length ≤ 256 → (c.trapCount % 256 ≤ c.trapRecs.length) →
    (addRecord c ds).trapCount = c.trapCount + 1 ∧ (addRecord c ds).trapRecs[c.trapCount % 256]? = some { dwords := ds } ∧
    (addRecord c ds).trapRecs.length ≤ 256)

/-- R409 to R411, R416, R420, R421, R21: a task chosen for pre-emption stops, settles once its requests have landed, leaves its
places, and is restored where it next fits, no save and no restore beginning while a Toybox change is pending; a wave whose
entries are issued again goes on. A context's HOLD and DC_SUSPEND choose its tasks. -/
def Obligations.PreemptionStepsPass : Prop :=
  (∀ (s : State) (u : Nat) (t : Task), s.dev.task u = some t → (s.dev.traps.any (fun x => x.task == u && fatal x.code)) = false →
    (t.state = .saving → (s.dev.waves.any (fun v => v.task == u && v.stopped)) = false →
      s.dev.toyboxPending = none → Leaves s (.preemptionStart u) (startSave s.dev t)) ∧
    (t.state = .saving → (s.dev.waves.all (fun v => v.task != u || v.stopped)) = true → settled s.work u = true →
      Leaves s (.settleComplete u) (freeze s.dev t)) ∧
    (t.state = .settled → reassembling s.dev t = false → commitsUnderWay s.dev t = false → Leaves s (.saveComplete u) (leavePlaces s.dev t))) ∧
  (∀ (s : State) (t : Task) (ox oy : Nat) (i : Image) (l : Launch) (c : Ctx), s.dev.mg.safe = false →
    nextPlacement s.dev = some (t, ox, oy) → t.image = some i → s.dev.launch t.ctx t.launchId = some l →
    s.dev.ctx t.ctx = some c → (s.dev.traps.any (fun x => x.task == t.uid)) = false → s.dev.toyboxPending = none →
    (i.bad = true → Leaves s (.restore t.uid) (taskTrap s.dev t.uid tMemerr (kImage t.uid))) ∧
    (i.bad = false → c.policy.getLsbD 1 = true → i.edited = true → Leaves s (.restore t.uid) (taskTrap s.dev t.uid tProt 0)) ∧
    (i.bad = false → (c.policy.getLsbD 1 = false ∨ i.edited = false) →
      Answers s (.restore t.uid) (restoreTask s.work l t i ox oy))) ∧
  (∀ (s : State) (u : Nat) (v : Wave), s.dev.wave u = some v → v.replaying = true → v.stopped = false → v.awaitsEntry = false →
    (v.recs.any (fun r => r.replaying && (r.state == .walk || recI2 r))) = false →
    Answers s (.replayComplete u) (settleWave (s.work.upd (fun d => replayEnds d v u)) u)) ∧
  (∀ (s : State) (b : Nat) (v : Word) (c : Ctx), CtxWrites s (.cxSuspendWrite b v) b 0x080 v c (bits v 2 62 = 0) (fun d =>
    let d' := d.updCtx c.id (fun c => { c with hold := v.getLsbD 0 })
    if v.getLsbD 0 then chooseAll d' c.id
    else { d' with tasks := updWhere (fun t => t.ctx == c.id && c.hold && (t.state == .waiting || t.state == .saved)) (fun t => { t with waitSince := d'.cc }) d'.tasks })) ∧
  (∀ (s : State) (v : Word), RegWrites s (.dcSuspendWrite v) 0x00020018 (bits v 16 48 = 0) (fun d => chooseAll d (bits v 0 16)))

/-! ## The meshes (R347 to R363) -/

namespace Sys2Proof.Machine

/-- R348, R352 to R355: the source of a flit may inject it: its header is good, the mesh is not in drain, fewer than sixteen of
its flits are undelivered, its throttle lets it, its packet's flits go in order, and its productive output is free once
the flits that arrived have left. -/
structure MayInject (s : State) (m : Mesh) (f : Flit) (x y : Nat) (e : Endpoint) : Prop where
  safe : s.dev.mg.safe = false
  router : routerOf f.src = (x, y)
  source : (s.dev.mesh m).endpoint f.src = e
  header : flitOk m f = true
  going : e.stopped = false ∧ (s.dev.mesh m).drain = false
  allowance : e.undelivered < 16
  throttle : throttleOk e s.dev.cc = true
  order : inOrder e f = true
  quiet : (s.dev.mesh m).arrived s.dev.cc x y = []
  free : (s.dev.mesh m).portFree s.dev.cc x y (productive m f x y) = true
  room : productive m f x y = .here → mayAccept (s.dev.mesh m) x y false f = true
  roomB : productive m f x y = .bridge → mayAccept (s.dev.mesh m) x y true f = true

/-- R352, R353, R355, R361: the flit an endpoint's port holds, and what taking it leaves of the mesh: one that finds no slot goes back
to its router; a reply that reaches a quad under reset is discarded; that its AGE has saturated is kept for the drain. -/
def offeredAt (x y : Nat) (b : Bool) (o : Moving × Bool) : Bool := o.1.x == x && o.1.y == y && o.2 == b
def accepted (mesh : Mesh) (m : MeshState) (cc x y : Nat) (b : Bool) (o : Moving) : MeshState :=
  let f := o.flit
  let m := { m with offered := m.offered.eraseP (offeredAt x y b) }.noteAge cc o
  let e := endpointAt x y b
  let taken (m : MeshState) : MeshState := m.updEndpoint f.src (fun e => { e with undelivered := e.undelivered - 1 })
  (if f.cnt = 0 ∨ discards mesh (m.endpoint e) cc o = true then taken m else match slotOf m (m.endpoint e) f with
    | some i => taken (m.updEndpoint e (fun e => e.insert i cc f))
    | none => { m with flits := m.flits ++ [o] }).tidy cc

end Sys2Proof.Machine

/-- R349 to R355, R359, R360, R362: a flit is injected; a router with arrived flits sends them on; an endpoint accepts the flit
offered to it; a complete packet frees its slot, going by a port where it is at a bridge, or into the image of a task that is
being saved, and an incomplete one frees it after 1,048,576 cc, counted and notified; a throttle window ends; a mesh enters
and leaves drain. That row 0 is the northmost, which the ports of a router rest on, is the model's choice (log 42); so is that
the notification names the endpoint and the slot as it does (log 43). -/
def Obligations.MeshStepsPass : Prop :=
  (∀ (s : State) (m : Mesh) (f : Flit) (x y : Nat) (e : Endpoint), MayInject s m f x y e →
    let came : Port := if f.src < 448 then .here else .bridge
    let d := s.dev.updMesh m (fun k => (k.updEndpoint f.src (fun e => e.inject s.dev.cc f)).leave s.dev.cc x y
      (productive m f x y) f came)
    Leaves s (.flitInject m f) (match coreAt x y with
      | some i => count d i f.ctx 13
      | none => d)) ∧
  (∀ (s : State) (m : Mesh) (x y : Nat), s.dev.mg.safe = false → (s.dev.mesh m).arrived s.dev.cc x y ≠ [] → Leaves s (.flitRoute m x y)
    (((sortBy (Moving.rank s.dev.cc) ((s.dev.mesh m).arrived s.dev.cc x y)).foldl (sendFlit m x y) s.dev).updMesh m
      (fun k => k.tidy s.dev.cc))) ∧
  (∀ (s : State) (m : Mesh) (x y : Nat) (b : Bool) (o : Moving × Bool),
    (s.dev.mesh m).offered.find? (offeredAt x y b) = some o →
    let d := if o.1.flit.cnt = 0 ∧ m = .request then leavePort s.dev (endpointAt x y b) else s.dev
    Leaves s (.flitAccept m x y b) (d.updMesh m (fun k => accepted m k s.dev.cc x y b o.1))) ∧
  (∀ (s : State) (m : Mesh) (e k : Nat) (r : Reasm), ((s.dev.mesh m).endpoint e).reasm.find? (fun r => r.slot == k) = some r →
    (r.complete = true → Leaves s (.packetReassembled m e k)
      (keepPacket (freeSlot (if m = .request then leavePort s.dev e else s.dev) m e k) e r)) ∧
    (r.complete = false → r.since + 1048576 ≤ s.dev.cc →
      let w := s.work.upd (fun d => (freeSlot d m e k).updMg (fun g => { g with reasm := g.reasm + 1 }))
      Answers s (.reassemblyTimeout m e k)
        (post w (.endpoint e) r.ctx (notif w.d nkReassembly r.ctx e (BitVec.ofNat 64 (2 ^ k)) 0) .none))) ∧
  (∀ (s : State) (m : Mesh) (e : Nat), e < 464 → ((s.dev.mesh m).endpoint e).windowAt + 256 ≤ s.dev.cc →
    Leaves s (.throttleWindow m e) (s.dev.updMesh m (fun k => k.updEndpoint e (fun e =>
      { e with level := throttleLevel e.deflections, lastWindow := e.deflections, deflections := 0, windowAt := s.dev.cc })))) ∧
  (∀ (s : State) (m : Mesh), (s.dev.mesh m).drain = false → (s.dev.mesh m).drainDue s.dev.cc = true →
    Leaves s (.drainEntry m) ((s.dev.updMesh m (fun k => { k with drain := true, drainClear := none, aged := none }.tidy s.dev.cc)).updMg
      (fun g => { g with drains := g.drains + 1 }))) ∧
  (∀ (s : State) (m : Mesh) (c : Nat), (s.dev.mesh m).drain = true → (s.dev.mesh m).drainClear = some c →
    (s.dev.mesh m).anySaturated s.dev.cc = false → (s.dev.mesh m).offered = [] → c + 64 ≤ s.dev.cc →
    Leaves s (.drainExit m) (s.dev.updMesh m (fun k => { k with drain := false, drainClear := none })))

/-- R350: a flit that leaves by its productive port is one router nearer to its destination, and at its destination it goes to
the endpoint. On the request mesh it goes along the row first, and on the reply mesh along the column. -/
def Obligations.ProductivePortsApproach : Prop :=
  ∀ (m : Mesh) (f : Flit) (x y : Nat), f.dx < 32 → f.dy < 14 → x < 32 → y < 14 →
    let far (x y : Nat) : Nat := ((x : Int) - f.dx).natAbs + ((y : Int) - f.dy).natAbs
    (far x y = 0 → productive m f x y = if f.br then .bridge else .here) ∧
    (far x y ≠ 0 → ∃ x' y', across x y (productive m f x y) = some (x', y') ∧ far x' y' + 1 = far x y ∧ x' < 32 ∧ y' < 14 ∧
      (m = .request → x ≠ f.dx → y' = y) ∧ (m = .reply → y ≠ f.dy → x' = x))

/-! ## The debugger, management and the host (R21, R361, R363, R400, R402, R432 to R449) -/

/-- R427, R432, R433: the holder of the debug right edits a live item of a halted wave, which is then marked edited, and reads it; an
item that is not live it neither edits nor reads; CX_DEBUG grants the right, or takes it away with the breakpoints and
watchpoints of the context, and its debug-halted waves resume. Which site's items are live, and that no write gives the tag
EMPTY, is the model's reading (log 93). -/
def Obligations.DebugStepsPass : Prop :=
  (∀ (s : State) (u : Nat) (item : DebugItem) (x : Word) (t : Ty) (v : Wave) (c : Ctx), s.dev.wave u = some v →
    s.dev.ctx v.ctx = some c → c.debug = true → v.halted = true → residentWave s.dev v = true → editOk v item x t = true →
    Leaves s (.debuggerWrite u item x t) (s.dev.updWave u (fun v => { editItem v item x t with edited := true }))) ∧
  (∀ (s : State) (u : Nat) (item : DebugItem) (x : Word) (t : Ty) (v : Wave), s.dev.wave u = some v → itemLive v item = false →
    (∃ m, exec (.debuggerWrite u item x t) s = .refused (.notEnabled m)) ∧ debugRead s.dev v item = none) ∧
  (∀ (d : Dev) (v : Wave) (c : Ctx) (lane k : Nat) (e : Entry), d.ctx v.ctx = some c → c.debug = true → v.halted = true →
    residentWave d v = true →
    (itemLive v (.queue lane k) = true → (v.lane lane).q[k - 1]? = some e → debugRead d v (.queue lane k) = some (e.val, e.tag)) ∧
    (itemLive v (.frame lane k) = true → (v.lane lane).f[k]? = some e → debugRead d v (.frame lane k) = some (e.val, e.tag))) ∧
  (∀ (s : State) (b : Nat) (v : Word) (c : Ctx), CtxWrites s (.cxDebugWrite b v) b 0x070 v c (bits v 1 63 = 0) (fun d =>
    if v.getLsbD 0 then d.updCtx c.id (fun c => { c with debug := true }) else resumeDebug (clearDebug d c.id) c.id)) ∧
  (∀ (v : Wave) (l a : Nat) (x : Word) (t : Ty), l < v.lanes.length → 1 ≤ a → a ≤ (v.lane l).q.length →
    ((editItem v (.queue l a) x t).lane l).q[a - 1]? = some { val := fit t x, tag := t, pend := .clear } ∧
    (∀ j, j ≠ a - 1 → ((editItem v (.queue l a) x t).lane l).q[j]? = (v.lane l).q[j]?) ∧
    (∀ k, k ≠ l → (editItem v (.queue l a) x t).lane k = v.lane k))

/-- R26, R437, R438, R442 to R446, log 45: power-good boots the package where an enrolled key signed the image in flash, ready where the
self-test meets the operating minimum, and else in the safe state; a mailbox command frees the mailbox; a firmware image
that verifies is kept; MG_REJECT clears when read; a key slot takes one key, and only on a command an enrolled key signed. -/
def Sys2Proof.Machine.Claims.ManagementStepsPass : Prop :=
  (∀ (s : State) (r : SelfTest), (s.dev.powered = true → s.dev.mg.ready = false ∧ s.dev.mg.safe = false) →
    Answers s (.powerGood r) ((wipe s.work).upd (fun d => boot (unbooted d) r)) ∧ (wipe s.work).d = s.dev ∧
    (∀ k, bootSlot s.dev.mg = some k → (boot (unbooted s.dev) r).mg.ready = minimumMet r ∧
      (boot (unbooted s.dev) r).mg.safe = !minimumMet r ∧ (boot (unbooted s.dev) r).mg.running = s.dev.mg.flash ∧
      (boot (unbooted s.dev) r).mg.signer = k) ∧
    (bootSlot s.dev.mg = none → (boot (unbooted s.dev) r).mg.ready = false ∧ (boot (unbooted s.dev) r).mg.safe = true ∧
      (boot (unbooted s.dev) r).mg.fwrec = true)) ∧
  (∀ s : State, Leaves s .powerLoss { s.dev with powered := false }) ∧
  (∀ (s : State) (v : Word) (k : Nat), bits v 1 63 = 0 → v.getLsbD 0 = true → signerOf s.dev.mg.keys (loadedImage s.work) = some k →
    Leaves s (.fwCtlCommit v)
      (let d := s.dev.updMg (fun m => { m with flash := loadedImage s.work, flashKey := k })
       if s.dev.ctxs.isEmpty then unbooted d else d)) ∧
  (∀ (s : State) (v : Word), bits v 1 63 = 0 → (v.getLsbD 0 = false ∨ signerOf s.dev.mg.keys (loadedImage s.work) = none) →
    Leaves s (.fwCtlCommit v) s.dev) ∧
  (∀ (s : State) (i : Instr) (code : Nat) (f : Dev → Dev) (slot key signer : Nat),
    (i = .attest ∧ code = 1 ∧ f = attest) ∨
      (i = .enroll slot key signer ∧ code = 2 ∧ f = (fun d => plainReply (enrollKey d slot key signer))) ∨
      (i = .revoke slot signer ∧ code = 3 ∧ f = (fun d => plainReply (revokeKey d slot signer))) ∨
      (i = .query ∧ code = 4 ∧ f = plainReply) →
    mailHolds s.dev code = true → Leaves s i (f s.dev) ∧ (f s.dev).mg.mbCmd.getLsbD 63 = false) ∧
  (∀ s : State, Leaves s .mgRejectRead (s.dev.updMg (fun m => { m with reject := none }))) ∧
  (∀ (d : Dev) (slot key signer : Nat) (k : KeySlot), d.mg.keys[slot]? = some k →
    (keyLive d signer = false → enrollKey d slot key signer = d ∧ revokeKey d slot signer = d) ∧
    (keyLive d signer = true →
      (enrollKey d slot key signer).mg.keys[slot]? = some (if k.key.isSome then k else { k with key := some key }) ∧
      (revokeKey d slot signer).mg.keys[slot]? = some { k with revoked := true }))

/-- R21, R361, R363, R439 to R441: a failing unit is mapped out once no task holds it; a self-test marks a quad that fails; a
containment reset ends the tasks of a quad, and its end marks the quad; pending changes take effect at their boundary;
the governor takes its measurements, and paces the more the greater the excess; a port retries a frame, and fails. That the
tasks that cover a quad of its die hold an LLC slice is the model's choice (log 64), and so is where m of issue pacing steps
(log 87). -/
def Sys2Proof.Machine.Claims.UnitManagementPasses : Prop :=
  (∀ (s : State) (p : Part), s.dev.mg.failing.contains p = true →
    (unitTasks s.dev p = [] → unitCommits s.dev p = false →
      let d := match p with
        | .quad pos => mapOutQuad s.dev pos
        | _ => s.dev
      Leaves s (.mapOut p) (d.updMg (fun m => { m with
        failing := m.failing.filter (· != p), mappedOut := m.mappedOut ++ [p] }))) ∧
    ((unitTasks s.dev p).any (fun t => t.state == .resident) = true →
      Leaves s (.mapOut p) (((unitTasks s.dev p).map Task.uid).foldl choose s.dev))) ∧
  (∀ (s : State) (k : Nat) (pass : Bool), k < 72 → positionPresent s.dev k = true → unitTasks s.dev (.quad k) = [] →
    Leaves s (.idleSelfTest k pass) (if pass then s.dev else s.dev.updMg (fun m => markFailing m (.quad k)))) ∧
  (∀ (s : State) (k : Nat), k < 72 → positionPresent s.dev k = true → (s.dev.quad k).resetting = false →
    let d := dropRequests (quadEndpoints s.dev k (fun e => { e with
      stopped := true, begun := [], deflections := 0, lastWindow := 0, level := 0, windowAt := s.dev.cc })) k
    Leaves s (.quadContainmentReset k) (((unitTasks s.dev (.quad k)).foldl (fun d t => taskTrap d t.uid tReset 0) d).updQuad k
      (fun q => { q with resetting := true }))) ∧
  (∀ (s : State) (k : Nat), (s.dev.quad k).resetting = true →
    Leaves s (.quadResetEnd k) (((quadEndpoints s.dev k (fun e => { e with stopped := false, undelivered := 0, resetAt := s.dev.cc })).updQuad k
      (fun q => { q with resetting := false })).updMg (fun m => markFailing m (.quad k)))) ∧
  (∀ (s : State) (n : Nat), s.dev.toyboxPending = some n → moving s.dev = false → toyboxUsed s.dev ≤ 2097152 * n →
    Leaves s .contextBoundaryChange { s.dev with toybox := n, toyboxPending := none }) ∧
  (∀ (s : State) (x : Nat × Word) (rest : List (Nat × Word)), toyboxChange s.dev = none → s.dev.placePending = x :: rest →
    let ready := (changedPlaces s.dev x.1 x.2).filter (placeReady s.dev x.1)
    (changedPlaces s.dev x.1 x.2 = [] →
      Leaves s .contextBoundaryChange { s.dev with placePending := s.dev.placePending.filter (· != x) }) ∧
    (ready ≠ [] → Leaves s .contextBoundaryChange (ready.foldl (fun d pe => placeChange d x.1 pe) s.dev))) ∧
  (∀ (s : State) (p : Nat), s.dev.gov.window + 16384 ≤ s.dev.cc →
    let limit := powerLimit s.dev.mg.c8m
    let m := if p ≤ limit then 0 else pacingOf (p - limit)
    Leaves s (.governorMeasurement p) { s.dev.updMg (fun m => { m with power := p }) with
      gov := { s.dev.gov with window := s.dev.cc, held := decide (limit * 95 < p * 100), pacing := m } }) ∧
  (∀ a b : Nat, a ≤ b → 1 ≤ pacingOf b ∧ pacingOf b ≤ pacingOf a ∧ pacingOf a ≤ 4) ∧
  (∀ (s : State) (n : Nat), ∃ h, Leaves s (.junctionTemperatureLimit n)
      { s.dev.updMg (fun m => { m with temp := n }) with gov := { s.dev.gov with hot := h } } ∧
    (105 * 16 ≤ n → h = true) ∧ (n ≤ 100 * 16 → h = false) ∧ (100 * 16 < n → n < 105 * 16 → h = s.dev.gov.hot)) ∧
  (∀ (s : State) (k : Nat) (p : PortState), s.dev.ports[k]? = some p →
    Leaves s (.mojorPortFailure k) { s.dev with ports := updAt s.dev.ports k (fun p => { p with working := false }) } ∧
    (p.working = true → Leaves s (.mojorLinkRetry k)
      { s.dev with ports := updAt s.dev.ports k (fun p => { p with retries := p.retries + 1 }) }))

/-- Power-up, firmware, keys, mapping out and power: the claims above. -/
def Obligations.ManagementPasses : Prop :=
  Claims.ManagementStepsPass ∧ Claims.UnitManagementPasses

/-- R10, R21, R364, R400, R438, R445, R447 to R449: the registers with a row of their own take a good word and refuse any other, and
all words in the safe state; a refused write only sets MG_REJECT. Firmware writes Q0 and Q1 of a launch queue that is not
enabled, and no one writes Q2; MG_RECCTL, MG_RECBASE and MG_MBCMD take their words in the safe state too. The registers with
an input of their own are reached at their offsets. A virtual function reaches the registers that its BAR0 names, and no
others. That MG_MBCMD refuses a command while it is busy, and that recording begins with an empty log, are the model's choices
(logs 51, 40), and so is where a function's tail registers lie (log 80). -/
def Obligations.RegisterWritesTakeOrReject : Prop :=
  (∀ (s : State) (v : Word), RegWrites s (.dcToyboxWrite v) 0x00020000 (v.toNat ≤ 128)
    (fun d => { d with toyboxPending := some v.toNat })) ∧
  (∀ (s : State) (v : Word), RegWrites s (.dcHbperWrite v) 0x00020008 (8 ≤ v.toNat ∧ v.toNat ≤ 16)
    (fun d => { d with hbPending := some v.toNat })) ∧
  (∀ (s : State) (v : Word), (s.dev.mg.safe = false → bits v 9 54 = 0 →
      let runs := v.getLsbD 63 && s.dev.hb.domRunning
      ∃ w, Answers s (.dcDomainWrite v) w ∧ KeepsMemory s (w.after s) ∧
        w.d.hb = { s.dev.hb with
          pkgNumber := bits v 0 9, domRunning := v.getLsbD 63, domCount := if runs then s.dev.hb.domCount else 0
          domNext := w.d.hb.domNext } ∧
        (runs = true → w.d.hb.domNext = s.dev.hb.domNext) ∧
        (runs = false → s.dev.cc < w.d.hb.domNext ∧ w.d.hb.domNext ≤ s.dev.cc + 16 * 2 ^ s.dev.hb.logP)) ∧
    (s.dev.mg.safe = true ∨ bits v 9 54 ≠ 0 → Leaves s (.dcDomainWrite v) (reject s.dev 0x00020010))) ∧
  (∀ (s : State) (die : Nat) (v : Word), die < 8 → RegWrites s (.dcPlacemapWrite die v) (0x00020020 + 8 * die)
    (bits v 45 19 = 0 ∧ ∀ p, p < 9 → bits v (5 * p) 4 ≤ 9)
    (fun d => { d with placePending := d.placePending.filter (fun x => x.1 != die) ++ [(die, v)] })) ∧
  (∀ (s : State) (core : Nat) (v : Word), core < 288 → RegWrites s (.crHclrWrite core v) (coreOffset core + 0x40) (bits v 8 56 = 0)
    (fun d => d.updCore core (fun c => { c with
      hist := (enum c.hist).map (fun ih => if v.getLsbD ih.1 then List.replicate 20 0 else ih.2) }))) ∧
  (∀ (s : State) (core k : Nat) (v : Word), core < 288 → k < 16 → RegWrites s (.crPmccfgWrite core k v) (coreOffset core + 4 * k)
    (bits v 32 32 = 0 ∧ bits v 16 13 = 0 ∧ bits v 0 8 ≤ 16)
    (fun d => d.updCore core (fun c => { c with pmcs := updAt c.pmcs k (fun p => { p with next := some (v.setWidth 32) }) }))) ∧
  (∀ (s : State) (b : Nat) (v : Word) (c : Ctx) (l : Launch), blockCtx s.dev b = some c →
    CtxWrites s (.cxRelocbaseWrite b v) b 0x090 v c (bits v 57 7 = 0 ∧ bits v 0 3 = 0 ∧
        (s.dev.launch c.id c.relocId).isSome = true ∧ ∀ t ∈ s.dev.tasks, t.ctx = c.id → t.launchId = c.relocId → t.holds = false)
      (fun d => d.updLaunch c.id c.relocId (fun l => moveLaunch l (v.setWidth 57))) ∧
    (moveLaunch l (v.setWidth 57)).codeBase = v.setWidth 57 ∧
    (moveLaunch l (v.setWidth 57)).pcV - v.setWidth 57 = l.pcV - l.codeBase) ∧
  (∀ (s : State) (m : Master) (o : Nat) (v : Word), m ∈ [.firmware, .function 0] →
    ((o < 0x1000 ∧ (o < 0x058 ∨ (0x068 ≤ o ∧ o < 0x080) ∨ 0x108 ≤ o)) ∨ (0x1000 ≤ o ∧ o < 0x00010000) ∨ 0x02000000 ≤ o) →
    Leaves s (.mmioWrite m o v) (reject s.dev o)) ∧
  (∀ (s : State) (m : Master) (o : Nat) (v : Word), m ∈ [.firmware, .function 0] → o < 0x1000000 → o % 8 = 0 → ∃ t,
    exec (.mmioWrite m (0x01000000 + o) v) s = .next t ∧ t.dev = s.dev ∧
    (∀ i, i < 8 → t.mem.read (kLoad (o + i)) = (wordBytes v).getD i 0) ∧
    KeepsOutside s t ((List.range 8).map (fun i => kLoad (o + i)))) ∧
  (∀ (s : State) (m : Master) (v : Word) (k : Nat), m ∈ [.firmware, .function 0] → k < 15 → Leaves s (.mmioWrite m (0x088 + 8 * k) v)
    (s.dev.updMg (fun m => { m with mbData := updAt m.mbData k (fun _ => v) }))) ∧
  (∀ (s : State) (m : Master) (v : Word), m ∈ [.firmware, .function 0] →
    (3 ≤ v.toNat → Leaves s (.mmioWrite m 0x058 v) (reject s.dev 0x058)) ∧
    (v = 0 → Leaves s (.mmioWrite m 0x058 v) (s.dev.updMg (fun m => { m with recMode := .off }))) ∧
    (v = 1 → s.dev.mg.recMode ≠ .record →
      Leaves s (.mmioWrite m 0x058 v) (s.dev.updMg (fun m => { m with recMode := .record, recLog := [], recFull := false }))) ∧
    (v = 1 → s.dev.mg.recMode = .record → Leaves s (.mmioWrite m 0x058 v) s.dev) ∧
    (v = 2 → Leaves s (.mmioWrite m 0x058 v) (s.dev.updMg (fun m => { m with recMode := .replay }))) ∧
    Leaves s (.mmioWrite m 0x060 v) (s.dev.updMg (fun m => { m with recBase := v })) ∧
    (let ok : Prop := bits v 16 47 = 0 ∧ 1 ≤ bits v 0 16 ∧ bits v 0 16 ≤ 4 ∧ s.dev.mg.mbCmd.getLsbD 63 = false
     (ok → Leaves s (.mmioWrite m 0x080 v) (s.dev.updMg (fun m => { m with mbCmd := v ||| BitVec.ofNat 64 (2 ^ 63) }))) ∧
     (¬ ok → Leaves s (.mmioWrite m 0x080 v) (reject s.dev 0x080)))) ∧
  (∀ (s : State) (q : Nat) (v : Word) (x : LaunchQueue), q < 64 → s.dev.queues[q]? = some x →
    let set (f : LaunchQueue → LaunchQueue) (d : Dev) : Dev := { d with queues := updAt d.queues q f }
    RegWrites s (.mmioWrite .firmware (queueOffset q) v) (queueOffset q) (x.q0.getLsbD 63 = false ∧ queueOk s.dev v x.q1 = true)
      (set (fun x => { x with q0 := v })) ∧
    RegWrites s (.mmioWrite .firmware (queueOffset q + 8) v) (queueOffset q + 8)
      (x.q0.getLsbD 63 = false ∧ bits v 57 7 = 0 ∧ v.toNat % 128 = 0) (set (fun x => { x with q1 := v })) ∧
    Leaves s (.mmioWrite .firmware (queueOffset q + 16) v) (reject s.dev (queueOffset q + 16)) ∧
    (∀ k, k < 3 → Leaves s (.mmioWrite (.function 0) (queueOffset q + 8 * k) v) (reject s.dev (queueOffset q + 8 * k)))) ∧
  (∀ (s : State) (m : Master) (v : Word) (b c k q : Nat), m ∈ [.firmware, .function 0] → b < 256 → c < 288 → k < 16 → q < 64 →
    exec (.mmioWrite m 0x100 v) s = exec (.fwCtlCommit v) s ∧
    exec (.mmioWrite m (queueOffset q + 24) v) s = exec (.launchQueueTailWrite q v) s ∧
    exec (.mmioWrite m (blockOffset b + 0x010) v) s = exec (.cxNqheadWrite b v) s ∧
    exec (.mmioWrite m (blockOffset b + 0x028) v) s = exec (.cxResumeWrite b v) s ∧
    exec (.mmioWrite m (blockOffset b + 0x070) v) s = exec (.cxDebugWrite b v) s ∧
    exec (.mmioWrite m (blockOffset b + 0x080) v) s = exec (.cxSuspendWrite b v) s ∧
    exec (.mmioWrite m (blockOffset b + 0x090) v) s = exec (.cxRelocbaseWrite b v) s ∧
    exec (.mmioWrite m (coreOffset c + 4 * k) v) s = exec (.crPmccfgWrite c k v) s ∧
    exec (.mmioWrite m (coreOffset c + 0x40) v) s = exec (.crHclrWrite c v) s) ∧
  (∀ (s : State) (v : Word) (die : Nat), die < 8 →
    exec (.mmioWrite .firmware 0x00020000 v) s = exec (.dcToyboxWrite v) s ∧
    exec (.mmioWrite .firmware 0x00020008 v) s = exec (.dcHbperWrite v) s ∧
    exec (.mmioWrite .firmware 0x00020010 v) s = exec (.dcDomainWrite v) s ∧
    exec (.mmioWrite .firmware 0x00020018 v) s = exec (.dcSuspendWrite v) s ∧
    exec (.mmioWrite .firmware (0x00020020 + 8 * die) v) s = exec (.dcPlacemapWrite die v) s) ∧
  (∀ (s : State) (o : Nat) (v : Word), 0x00020000 ≤ o → o < 0x00020100 →
    Leaves s (.mmioWrite (.function 0) o v) (reject s.dev o)) ∧
  (∀ (s : State) (m : Master) (core k : Nat) (second : Bool) (v : Word), m ∈ [.firmware, .function 0] → core < 288 → k < 4 →
    RegWrites s (.mmioWrite m (coreOffset core + 0x80 + 16 * k + if second then 8 else 0) v)
      (coreOffset core + 0x80 + 16 * k + if second then 8 else 0) (watchOk second (4, 44) v = true)
      (fun d => d.updCore core (fun c => { c with watch := updAt c.watch k (setPair second v) }))) ∧
  (∀ (s : State) (m : Master) (b o : Nat) (v : Word) (c : Ctx) (saved : Bool) (ok : Ctx → Bool) (f : Ctx → Ctx),
    m ∈ [.firmware, .function 0] → b < 256 → o < 0x1000 → ctxReg o v = some (saved, ok, f) → blockCtx s.dev b = some c →
    CtxWrites s (.mmioWrite m (0x00100000 + 0x1000 * b + o) v) b o v c (ok c = true ∧ (saved = true ∨ hasSaved s.dev c.id = false))
      (fun d => d.updCtx c.id f)) ∧
  (∀ (s : State) (n o : Nat) (v : Word), n ≠ 0 → (∀ k, functionOffset s.dev n o = some k →
      exec (.mmioWrite (.function n) o v) s = exec (.mmioWrite (.function 0) k v) s) ∧
    (functionOffset s.dev n o = none → Leaves s (.mmioWrite (.function n) o v) (reject s.dev o)))

/-- R248, R364, R402, R426, R435, R448: a host write stores its bytes and no other, but for what the recorder has put into its
region; a context is created with a free number and block, for a function, with the stop sites of its images, and destroyed
with its tasks, waves and launches; a packet of another package is taken. That the images of a context's creation name its
stop sites is the model's reading (log 21), and what the recorder writes into its region is free (log 40). -/
def Obligations.HostStepsPass : Prop :=
  (∀ (s : State) (a : Nat) (bs : List Byte), a + bs.length ≤ 2 ^ 52 → ∃ t,
    exec (.hostWriteToDeviceMemory .host a bs) s = .next t ∧
    (∀ i, i < bs.length → t.mem.read (kHost (a + i)) = bs.getD i 0) ∧
    KeepsOutside s t ((List.range bs.length).map (fun i => kHost (a + i)))) ∧
  (∀ (s : State) (b : Bool) (a : Nat) (bs : List Byte) (w : Work),
    let sp : HostSpace := if b then .hbm else .abacus
    a + bs.length ≤ hostSize sp → s.dev.mg.safe = false → inputGate s.work (.hostMemory sp a bs) = some w → ∃ t,
    exec (.hostWriteToDeviceMemory sp a bs) s = .next t ∧
    (∀ i, i < bs.length → t.mem.read (hostKey sp (a + i)) = bs.getD i 0) ∧
    KeepsOutside (w.after s) t ((List.range bs.length).map (fun i => hostKey sp (a + i)))) ∧
  (∀ (s : State) (x : LogItem) (w : Work), inputGate s.work x = some w → s.dev.mg.recMode ≠ .record → KeepsMemory s (w.after s)) ∧
  (∀ (s : State) (p : Packet) (w w' : Work), s.dev.mg.safe = false → inputGate s.work (.inbound p) = some w → inbound w p = some w' →
    Answers s (.mojorInboundPacket p) w') ∧
  (∀ (s : State) (c b fn root : Nat) (images : List CodeImage), s.dev.mg.ready = true → c < 65536 → b < 256 → fn ≤ 32 →
    root % 4096 = 0 → (∀ x ∈ s.dev.ctxs, x.id ≠ c ∧ x.block ≠ b) →
    Leaves s (.contextCreation c { block := b, fn } { ptRoot := root, images }) { s.dev with
      ctxs := s.dev.ctxs ++ [{ newCtx c b fn root with sites := images.flatMap stopSites }] }) ∧
  (∀ (s : State) (c : Nat), (s.dev.ctx c).isSome = true → Leaves s (.contextDestruction c) (destroyCtx s.dev c) ∧
    (destroyCtx s.dev c).ctx c = none ∧ (∀ t ∈ (destroyCtx s.dev c).tasks, t.ctx ≠ c) ∧
    (∀ v ∈ (destroyCtx s.dev c).waves, v.ctx ≠ c) ∧ (∀ l ∈ (destroyCtx s.dev c).launches, l.ctx ≠ c))

/-! ## The machine -/

/-- R244, R281, R395, R354, R402: what the spec gives for power-up: the Toybox of 128 MiB, in units of 2 MiB; a heartbeat
every 1,024 cc, counts 0; throttle levels, deflections and histograms 0; and a new context's threshold of 256, with no
debug right. Memory lists nothing, and nothing is live. -/
def Obligations.ResetHoldsPowerUpValues : Prop :=
  State.reset.Safe ∧ State.reset.mem.cells = [] ∧
  (let d := State.reset.dev
   d.toybox = 64 ∧ d.hb.logP = 10 ∧ d.hb.count = 0 ∧ d.hb.domCount = 0 ∧ d.waves = [] ∧ d.tasks = [] ∧ d.launches = [] ∧
   d.ctxs = [] ∧ d.traps = [] ∧
   (∀ m e, ((d.mesh m).endpoint e).level = 0 ∧ ((d.mesh m).endpoint e).deflections = 0 ∧ ((d.mesh m).endpoint e).undelivered = 0) ∧
   (∀ k, (d.core k).hist = List.replicate 8 (List.replicate 20 0) ∧ (d.core k).leaveGrants = 0)) ∧
  (∀ c b f r, (newCtx c b f r).acThr = 256 ∧ (newCtx c b f r).debug = false ∧ (newCtx c b f r).trapCount = 0 ∧
    (newCtx c b f r).nqLost = 0)

/-- Log 1: a step keeps the canonical form of memory: addresses strictly rising, and no entry equal to what an unlisted
address reads as. So equal memories are equal data in every run. The form is the model's own. -/
def Obligations.StepsKeepMemoryCanonical : Prop :=
  ∀ s t : State, s.Safe → step s = .next t → t.Safe

/-- R61 to R82: for every instruction the encodings express, with every operand at every value they admit, the bytes of its
encoding, followed by any others, decode to it and to their number. -/
def Obligations.DecodingUndoesEncoding : Prop :=
  ∀ (i : Instr) (rest : List Byte), i.WellFormed → Decode.decode (encodeBytes i ++ rest) = .ok (i, 8 * (encode i).length)

/-- R54, R83, R84, R261, log 3: a step takes the first input of the agenda, or the model's own choice where there is none. An event
is its own effect, but a cc does not end while something is due in it; an attempt to issue of the split of a scheduler that
tries next, none of its splits being about to wake, fetches at the split's PC, and is the effect of the instruction it decodes there; an untranslated page makes it
wait, one that may not be executed raises PROT, an uncorrectable word MEMERR, and words that are no instruction ILLEGAL.
Without a supply nothing but power-good happens. -/
def Obligations.StepRunsTheDecodedInstruction : Prop :=
  (∀ (s : State) (rest : List Input), s.dev.powered = true →
    let s' : State := { s with dev := { s.dev with agenda := rest } }
    (∀ i, s.dev.agenda = .event i :: rest → (i ≠ .coreCycle ∨ ccOpen s' = false) → step s = exec i s') ∧
    (s.dev.agenda = .event .coreCycle :: rest → ccOpen s' = true → ∃ m, step s = .refused (.notEnabled m)) ∧
    (∀ u n, s.dev.agenda = .issue u n :: rest → inTurn s'.dev u n = false → ∃ m, step s = .refused (.notEnabled m)) ∧
    (∀ u n, s.dev.agenda = .issue u n :: rest → (firstNext s' (wakeEvents s'.dev u)).isSome = true →
      ∃ m, step s = .refused (.notEnabled m)) ∧
    (∀ u n v p c, s.dev.agenda = .issue u n :: rest → inTurn s'.dev u n = true → firstNext s' (wakeEvents s'.dev u) = none →
      s'.dev.wave u = some v → v.split n = some p → s'.dev.ctx v.ctx = some c → mayTry s'.dev v p = true →
      let w := trying s'.work v p c
      let traps (code addr : Nat) : Work := w.upd (fun d => raise d (splitTrap v p code p.pc 0 0 addr))
      (∀ ws i k, fetchAll s'.work c p.pc = .words ws → Decode.words ws = .ok (i, k) →
        step s = exec i { s' with dev := { w.d with issuer := some (u, n) } }) ∧
      (∀ ws e, fetchAll s'.work c p.pc = .words ws → Decode.words ws = .error e → step s = .next ((traps tIllegal 0).after s')) ∧
      (∀ k, fetchAll s'.work c p.pc = .lost k → step s = .next ((traps tMemerr (keyOffset k)).after s')) ∧
      (∀ va, fetchAll s'.work c p.pc = .denied va → step s = .next ((traps tProt va.toNat).after s')) ∧
      (∀ va, fetchAll s'.work c p.pc = .untranslated va → step s = .next ((fetchWaits w v p va).after s')))) ∧
  (∀ (s : State), s.dev.powered = true → s.dev.agenda = [] →
    (∀ t, firstNext s (internalEvents s.dev) = some t → step s = t) ∧
    (∀ u n, firstNext s (internalEvents s.dev) = none → nextTry s.dev = some (u, n) → step s = attempt u n s) ∧
    (firstNext s (internalEvents s.dev) = none → nextTry s.dev = none →
      step s = if s.dev.traps = [] then exec .coreCycle s else exec .trapDelivery s)) ∧
  (∀ (s : State) (r : SelfTest) (rest : List Input), s.dev.powered = false →
    (s.dev.agenda = [] → step s = .fault .unpowered) ∧
    (s.dev.agenda = .event (.powerGood r) :: rest →
      step s = exec (.powerGood r) { s with dev := { s.dev with agenda := rest } }) ∧
    (∀ u n, s.dev.agenda = .issue u n :: rest → step s = .fault .unpowered))

/-- R61 to R82, R112, R122, R131: words written out from the encoding tables: the padding word, the worked word of
R81's example, a compare, a drop; and words that are no instruction. -/
def Obligations.DecodedWordsAreRight : Prop :=
  let plain : Form := {
    guard := { inv := false, p := 7 }, ds := .push, fd := 0, sa := .age 0, sb := .age 0, sc := .age 0, packed := false,
    ty := .i32, st := false, modw := none, imm := none, x13 := 0 }
  decodeTableWord 64 0x017C000000000000 = some (.nop { plain with ds := .discard, ty := .empty }) ∧
  (let m : Modifier := {
     na := false, aa := false, nb := false, ab := false, nc := false, ac := false, sat := true, clamp := .none, scale := 0,
     rnd := .dflt, raw := false }
   decodeTableWord 128 0x02000000000000000235207400024005 = some (.iadd { plain with
     guard := { inv := false, p := 3 }, ds := .pushFrame, fd := 9, sb := .x13, x13 := 5, modw := some m })) ∧
  decodeTableWord 64 0x3078400200220000 = some (.icmp .lt { plain with ds := .frame, fd := 2, sb := .age 1 }) ∧
  decodeTableWord 64 0x207C010000100002 = some (.drop { plain with ds := .discard, sa := .age 2, ty := .empty, x13 := 2 }) ∧
  decodeTableWord 64 0 = none ∧ decodeTableWord 64 0x0178000000000000 = none ∧ decodeTableWord 64 0x203C010000100002 = none

namespace Sys2Proof.Machine

/-- R227: a split, whatever it yields to. -/
def Split.awake (p : Split) : Split := { p with yield := none }

/-- The splits of a wave, whatever they yield to. -/
def Wave.calls (v : Wave) : List Split := v.splits.map Split.awake

/-- An issue with ST clear, its safe point counted. -/
def Iss.plain (y : Iss) : Iss :=
  { y with f := { y.f with st := false }, v := { y.v with counters := { y.v.counters with safePoints := y.v.counters.safePoints + 1 } } }

/-- R29, R227: a step changed waves, the schedulers of cores and what marks an issue, and nothing else of the device. -/
structure OnlyIssues (d e : Dev) : Prop where
  rest : e = { d with
    waves := e.waves, cores := e.cores, quads := e.quads, events := e.events, issued := e.issued, traps := e.traps,
    issuer := none }
  cores : ∀ k, e.core k = { d.core k with scheds := (e.core k).scheds }
  quads : ∀ k, e.quad k = { d.quad k with issuedInCc := (e.quad k).issuedInCc }

/-- The forms of majors 0x01 to 0x60: those that compute. -/
def computes (i : Instr) : Bool := match formSpec i with
  | some g => decide (g.major < 0x80)
  | none => false

end Sys2Proof.Machine

/-- R29, R53, R227, R399: what an issue that retires changes besides what its instruction computed (`y`): its split goes on at
`pc`, its wave counts it, and other splits are no longer awaited; no byte of memory, no other wave, task, launch or
context, and nothing of a core but its schedulers. -/
def Obligations.RetiringKeepsTheRest : Prop :=
  (∀ (s t : State) (i : Instr) (y : Iss) (pc : VAddr) (n : Nat) (occ : Occupancy), y.w.ws = [] → y.f.st = false →
    Answers s i (y.goto pc n occ) → exec i s = .next t →
    t.mem = s.mem ∧ t.dev.traps = y.w.d.traps ∧ OnlyIssues y.w.d t.dev ∧
    (∀ u v, y.w.d.wave u = some v → u ≠ y.v.uid → ∃ v', t.dev.wave u = some v' ∧ v' = { v with splits := v'.splits } ∧
      v'.calls = v.calls) ∧
    (∀ v, y.w.d.wave y.v.uid = some v → ∃ v', t.dev.wave y.v.uid = some v' ∧
      v' = { y.v with splits := v'.splits, counters := { y.v.counters with issued := y.v.counters.issued + 1 } } ∧
      v'.calls = (y.v.updSplit y.p.num (fun _ => (y.retired pc n occ).p)).calls)) ∧
  (∀ (y : Iss) (pc : VAddr) (n : Nat) (occ : Occupancy), (y.retired pc n occ).p = { y.p with
    pc := pc, readyAt := y.cc + n, inIssueUntil := y.cc + max occ.half occ.sfu, ageing := 0, stage := .idle, wait := none }) ∧
  (∀ (y : Iss) (pc : VAddr) (n : Nat) (occ : Occupancy) (c : Ctx), y.f.st = true →
    (coreLines y.w.d (y.w.d.coreOf y.v)).length < 28672 → y.w.d.ctx y.v.ctx = some c → c.trCtl.getLsbD 63 = false →
    (siteAt y.w.d y.v y.p.pc = none → y.goto pc n occ = y.plain.goto pc n occ) ∧
    (∀ site, siteAt y.w.d y.v y.p.pc = some site → y.p.trapped = false → y.goto pc n occ =
      if armed c site.kernel site.ordinal then (y.plain.goto pc n occ).upd (fun d => raise d
        { splitTrap (y.retired pc n occ).v (y.retired pc n occ).p tBreak (y.retired pc n occ).p.stopPoint y.lanes
            (2 ^ 31 + site.ordinal % 8192) 0 with site := some site })
      else y.plain.goto pc n occ))

/-- R68, R103, R106, R107: whatever an instruction of the computing majors does, be it to retire, to wait or to trap: it changes
no byte of memory and no task, launch or context; of another wave only what its splits yield to; and of its own wave
nothing but lanes, splits, counters, inboxes and flags, and the codebooks for `cbkld`, with those they replaced. -/
def Obligations.ComputationsKeepTheRest : Prop :=
  ∀ (s t : State) (i : Instr) (x : Iss), Issues s i x → computes i = true → x.f.st = false → exec i s = .next t →
    t.mem = s.mem ∧ OnlyIssues s.dev t.dev ∧
    (∀ u v, s.dev.wave u = some v → u ≠ x.v.uid → ∃ v', t.dev.wave u = some v' ∧ v' = { v with splits := v'.splits } ∧
      v'.calls = v.calls) ∧
    (∃ v', t.dev.wave x.v.uid = some v' ∧ KeepsWave x.v { v' with books := x.v.books, oldBooks := x.v.oldBooks } ∧
      ((∀ f, i ≠ .cbkld f) → v'.books = x.v.books ∧ v'.oldBooks = x.v.oldBooks) ∧
      (∀ q ∈ x.v.splits, q.num ≠ x.p.num → q.awake ∈ v'.calls))

/-- R290, R292, R298: what a performed access leaves: a load changes no byte; a store gives its bytes at their bank the values
it carries, and bytes of phased memory go into the version of its wave; an atomic operation changes no byte but its own.
And an access that issues in a safe point's absence changes no byte of memory. -/
def Obligations.StoresStayInTheirBytes : Prop :=
  (∀ (w : Work) (v : Wave) (r : Rec) (vs : List (Nat × Nat)) (a : Access) (k b : Nat), b ∉ accKeys v a k →
    (performAcc w v r vs a k).2.byte b = w.byte b) ∧
  (∀ (w : Work) (v : Wave) (r : Rec) (vs : List (Nat × Nat)) (a : Access) (k i : Nat), (∃ n, r.op = .store n) →
    (accKeys v a k).Nodup → a.data.length = a.bytes → i < a.bytes →
    let key := (accKeys v a k).getD i 0
    (performAcc w v r vs a k).2.byte key = if (accKeys v a k).any keyPhased then w.byte key else a.data.getD i 0) ∧
  (∀ (w : Work) (v : Wave) (r : Rec) (vs : List (Nat × Nat)) (a : Access) (k b : Nat), (∃ t n wd, r.op = .load t n wd) →
    (performAcc w v r vs a k).2.byte b = w.byte b) ∧
  (∀ (s : State) (i : Instr) (o : AtomOp) (f : Form) (x : Iss) (g : AccessForm) (ts : List (Nat × Target)),
    (i, g) ∈ accessForms o x f → Issues s i x → x.f.st = false → x.active ≠ [] → x.addresses g.width = .targets ts →
    KeepsMemory s ((x.enters g.tags (g.entry x ts)).after s))
end

