-- ==== Sys2Proof/Laws/Issue.lean ====
section
/-! SUPPORT. Issues: `exec` of an encoded instruction that issues is what its meaning does to the issue; and, for each shared
form of a meaning, what it does when the operands can be read, wait, or trap. -/

namespace Sys2Proof.Machine

/-! ## From `exec` to the meaning -/

/-- R82, R431, R43: past the checks of its encoding, of a home-side match and of its role, an issue does what its meaning
says. -/
theorem Issues.act_eq {s : State} {i : Instr} {x : Iss} (h : Issues s i x) (k : Iss → Work) : x.act k = k x := by
  have hw : (if x.f.st && x.p.stage == .idle then x.v.homeWatch else none) = none := by
    have := h.unwatched
    cases hs : (x.f.st && x.p.stage == .idle) <;> simp_all
  unfold Iss.act
  rw [hw]
  simp [h.instr, h.encoded, h.role]

/-- R83: an instruction that issues does what its meaning says. -/
theorem State.issue_next {s : State} {i : Instr} {x : Iss} (h : Issues s i x) (k : Iss → Work) :
    s.issue i k = .next ((k x).after s) := by
  have ha := h.act_eq k
  obtain ⟨w, v, p, j, g, f, ls⟩ := x
  obtain ⟨⟨h1, h2, h3, h4, h5, h6, h7, h8, h12⟩, h9, h10, h11⟩ := h
  simp only at h1 h2 h3 h4 h5 h6 h7 h8 h9 h10 h11 h12
  subst h6 h7 h8
  simp [State.issue, State.run, h1, h2, h3, h4, h5, State.work, h12] at ha ⊢
  rw [ha]

/-- The same, as an answer. -/
theorem Answers.of_issue {s : State} {i : Instr} {x : Iss} (h : Issues s i x) {k : Iss → Work} (hk : exec i s = s.issue i k) :
    Answers s i (k x) := by
  unfold Answers
  rw [hk, State.issue_next h]

/-- The same, for a meaning whose work is known. -/
theorem Answers.of_eq {s : State} {i : Instr} {x : Iss} (h : Issues s i x) {k : Iss → Work} (hk : exec i s = s.issue i k)
    {w : Work} (e : k x = w) : Answers s i w := e ▸ Answers.of_issue h hk

/-- The fields of an issue that begins. -/
theorem Issues.form_eq {s : State} {i : Instr} {x : Iss} (h : Issues s i x) {f : Form} (hf : formOf i = some f) : x.f = f := by
  have := h.form
  rw [hf] at this
  exact (Option.some.inj this).symm

theorem Issues.cc {s : State} {i : Instr} {x : Iss} (h : Issues s i x) : x.cc = s.dev.cc := by
  rw [Iss.cc, h.work]; rfl

theorem Issues.ws {s : State} {i : Instr} {x : Iss} (h : Issues s i x) : x.w.ws = [] := by rw [h.work]; rfl

/-! ## Gates -/

theorem Iss.gated_ready {x : Iss} {ls : List Nat} {accs : List (List Ty)} (h : x.Readable ls accs) (k : Iss → Work) :
    x.gated ls accs k = k x := by
  unfold Iss.gated; rw [show x.gate ls accs = .ready from h]

/-- What a gated form does: it proceeds, waits, or traps. -/
theorem Iss.gated_cases (x : Iss) (ls : List Nat) (accs : List (List Ty)) (k : Iss → Work) :
    x.gated ls accs k = k x ∨ (∃ c, x.gated ls accs k = x.wait c) ∨ ∃ c m, x.gated ls accs k = x.trap c m := by
  unfold Iss.gated
  split
  · exact .inr (.inl ⟨_, rfl⟩)
  · exact .inr (.inr ⟨_, _, rfl⟩)
  · exact .inl rfl

/-- R71: a form gated only by its guard. -/
theorem Iss.guardGate_ready {x : Iss} (h : x.GuardReady) (k : Iss → Work) : x.guardGate k = k x := by
  unfold Iss.guardGate; rw [show guardPending x.cc x.v x.p x.f = false from h]; rfl

theorem Iss.guardGate_cases (x : Iss) (k : Iss → Work) : x.guardGate k = k x ∨ ∃ c, x.guardGate k = x.wait c := by
  unfold Iss.guardGate
  split
  · exact .inr ⟨_, rfl⟩
  · exact .inl rfl

theorem Iss.Readable.guard {x : Iss} {ls : List Nat} {accs : List (List Ty)} (h : x.Readable ls accs) : x.GuardReady := by
  unfold Iss.Readable Iss.gate at h
  unfold Iss.GuardReady
  cases hg : guardPending x.cc x.v x.p x.f
  · rfl
  · simp [hg] at h

/-! ## Shared forms -/

/-- R68, R110: a form that computes in each lane delivers its results. -/
theorem Iss.laneOp_ready {x : Iss} {accs : List (List Ty)} {lat : Nat} {tags : List Ty}
    {compute : Iss → Nat → List (Word × Ty) → List (Word × Ty)} (h : x.Readable x.active accs) :
    x.laneOp accs lat tags compute = (x.delivered lat tags (fun l => compute x l (x.vals l))).done :=
  Iss.gated_ready h _

/-- All a form that computes in each lane can do. -/
theorem Iss.laneOp_cases (x : Iss) (accs : List (List Ty)) (lat : Nat) (tags : List Ty)
    (compute : Iss → Nat → List (Word × Ty) → List (Word × Ty)) :
    x.laneOp accs lat tags compute = (x.delivered lat tags (fun l => compute x l (x.vals l))).done ∨
    (∃ c, x.laneOp accs lat tags compute = x.wait c) ∨ ∃ c m, x.laneOp accs lat tags compute = x.trap c m :=
  Iss.gated_cases x _ _ _

/-- R69: a form that writes a predicate writes it. -/
theorem Iss.predOp_ready {x : Iss} {accs : List (List Ty)} {lat : Nat} {compute : Iss → Nat → List (Word × Ty) → Bool}
    (h : x.Readable x.active accs) :
    x.predOp accs lat compute = (x.pop.setPred x.active x.f.pd lat (fun l => compute x l (x.vals l))).done :=
  Iss.gated_ready h _

theorem Iss.predOp_cases (x : Iss) (accs : List (List Ty)) (lat : Nat) (compute : Iss → Nat → List (Word × Ty) → Bool) :
    x.predOp accs lat compute = (x.pop.setPred x.active x.f.pd lat (fun l => compute x l (x.vals l))).done ∨
    (∃ c, x.predOp accs lat compute = x.wait c) ∨ ∃ c m, x.predOp accs lat compute = x.trap c m :=
  Iss.gated_cases x _ _ _

/-- R71: a form that reads predicates of X13 proceeds once they are not pending. -/
theorem Iss.predGate_ready {x : Iss} {ks : List Nat} (h : x.PredsReady ks) (k : Iss → Work) :
    x.predGate ks k = k x := by
  unfold Iss.predGate
  rw [show (x.active.any fun l => ks.any (predPending x.cc (x.v.lane l))) = false from h]
  rfl

/-! ## Popped inboxes -/

/-- R106: popping inboxes changes only the inboxes. -/
theorem popInboxes_eq (v : Wave) (ss : List (Src × Nat)) :
    popInboxes v ss = { v with inboxes := (popInboxes v ss).inboxes } := by
  unfold popInboxes
  generalize hw : v.inboxes = b
  rw [show v = { v with inboxes := b } by rw [← hw]]
  clear hw
  induction ss generalizing b with
  | nil => rfl
  | cons q t ih =>
    rw [List.foldl_cons]
    split
    · exact ih _
    · exact ih _

/-! ## Results and flags -/

/-- R68: only the results of the executing lanes matter. -/
theorem Iss.deliver_congr {x : Iss} {act : List Nat} {tags : List Ty} {res res' : Nat → List Entry}
    (h : ∀ l ∈ act, res l = res' l) : x.deliver act tags res = x.deliver act tags res' := by
  have e : (fun il : Nat × Lane => if act.contains il.1 then deliverLane x.f il.2 (res il.1)
      else if inMask x.p.home il.1 then zeroLane x.f il.2 tags else il.2) =
      fun il => if act.contains il.1 then deliverLane x.f il.2 (res' il.1)
      else if inMask x.p.home il.1 then zeroLane x.f il.2 tags else il.2 := by
    funext il
    by_cases hc : act.contains il.1
    · simp only [hc, if_true]; rw [h _ (List.contains_iff_mem.mp hc)]
    · simp only [hc, Bool.false_eq_true, if_false]
  unfold Iss.deliver
  rw [e]

/-- R69: only the predicates of the executing lanes matter. -/
theorem Iss.setPred_congr {x : Iss} {act : List Nat} {pd lat : Nat} {val val' : Nat → Bool}
    (h : ∀ l ∈ act, val l = val' l) : x.setPred act pd lat val = x.setPred act pd lat val' := by
  have e : (fun il : Nat × Lane => if act.contains il.1 && pd != 7
      then { il.2 with p := il.2.p.set pd { val := val il.1, ready := x.cc + lat } } else il.2) =
      fun il => if act.contains il.1 && pd != 7
      then { il.2 with p := il.2.p.set pd { val := val' il.1, ready := x.cc + lat } } else il.2 := by
    funext il
    by_cases hc : act.contains il.1
    · rw [h _ (List.contains_iff_mem.mp hc)]
    · simp only [hc, Bool.false_and, Bool.false_eq_true, if_false]
  unfold Iss.setPred
  rw [e]

/-- R106: popping inboxes changes only the inboxes, and depends on them alone. -/
theorem popInboxes_inboxes (ss : List (Src × Nat)) {u v : Wave} (h : u.inboxes = v.inboxes) :
    (popInboxes u ss).inboxes = (popInboxes v ss).inboxes := by
  unfold popInboxes
  induction ss generalizing u v with
  | nil => exact h
  | cons q t ih =>
    rw [List.foldl_cons, List.foldl_cons]
    apply ih
    split
    · exact congrArg (updAt · _ _) h
    · exact h

theorem Iss.pop_eq (x : Iss) : x.pop = { x with v := { x.v with inboxes := x.pop.v.inboxes } } := by
  unfold Iss.pop
  split
  · rfl
  · show ({ x with v := popInboxes x.v x.srcs } : Iss) = _
    rw [popInboxes_eq]

/-- R107: raising flags and popping inboxes commute. -/
theorem Iss.pop_flag (x : Iss) (fl : Fl) : (x.flag fl).pop = x.pop.flag fl := by
  unfold Iss.pop
  show (if x.active.isEmpty then _ else _) = _
  split
  · rfl
  · show ({ x.flag fl with v := popInboxes (x.flag fl).v x.srcs } : Iss) = _
    rw [popInboxes_eq (x.flag fl).v, popInboxes_inboxes x.srcs (u := (x.flag fl).v) (v := x.v) rfl, popInboxes_eq x.v]
    rfl

theorem Iss.pop_intFlag (x : Iss) (b : Bool) : (x.intFlag b).pop = x.pop.intFlag b := by
  unfold Iss.pop
  show (if x.active.isEmpty then _ else _) = _
  split
  · rfl
  · show ({ x.intFlag b with v := popInboxes (x.intFlag b).v x.srcs } : Iss) = _
    rw [popInboxes_eq (x.intFlag b).v, popInboxes_inboxes x.srcs (u := (x.intFlag b).v) (v := x.v) rfl, popInboxes_eq x.v]
    rfl

/-- The result a list of lanes with results gives for a lane among them. -/
theorem find_lane {α : Type} {ls : List Nat} {g : Nat → α} {l : Nat} (h : l ∈ ls) :
    (ls.map (fun l => (l, g l))).find? (fun o => o.1 == l) = some (l, g l) := by
  induction ls with
  | nil => cases h
  | cons a t ih =>
    rw [List.map_cons, List.find?_cons]
    by_cases ha : a = l
    · subst ha; simp
    · rw [show ((a, g a).1 == l) = false by simpa using ha]
      exact ih (by simpa [Ne.symm ha] using h)

/-- R155: where no raised flag is enabled, the flags are set and the instruction has its effect. -/
theorem Iss.raiseFlags_ready {x : Iss} {rs : List (Nat × Fl)} (h : orFlags (rs.map Prod.snd) &&& x.v.fpTrapEn = 0)
    (k : Iss → Work) : x.raiseFlags rs k = k (x.flag (orFlags (rs.map Prod.snd))) := by
  unfold Iss.raiseFlags
  simp only [h, if_true, ite_self]

/-- R155: where a raised flag is enabled, FPE is raised with the raised flags, naming the lanes that raise an enabled one. -/
theorem Iss.raiseFlags_traps {x : Iss} {rs : List (Nat × Fl)} (h : orFlags (rs.map Prod.snd) &&& x.v.fpTrapEn ≠ 0)
    (k : Iss → Work) : x.raiseFlags rs k = (x.flag (orFlags (rs.map Prod.snd))).trapAt tFpe x.p.pc
      (maskOf ((rs.filter (fun r => decide (r.2 &&& x.v.fpTrapEn ≠ 0))).map Prod.fst)) (orFlags (rs.map Prod.snd)).toNat 0 := by
  unfold Iss.raiseFlags
  rw [if_neg (by rintro h0; rw [h0] at h; simp at h), if_neg h]

/-- R154, R155: a float form whose operands can be read, and which raises no enabled flag, delivers its results. -/
theorem Iss.floatOp_ready {x : Iss} {accs : List (List Ty)} {lat : Nat} {occ : Occupancy} {tags : List Ty}
    {compute : Iss → Nat → List (Word × Ty) → List (Word × Ty) × Fl} (h : x.Readable x.active accs)
    (hf : orFlags (x.active.map (fun l => (compute x l (x.vals l)).2)) &&& x.v.fpTrapEn = 0) :
    x.floatOp accs lat occ tags compute =
      ((x.flag (orFlags (x.active.map (fun l => (compute x l (x.vals l)).2)))).delivered lat tags
        (fun l => (compute x l (x.vals l)).1)).doneOcc occ := by
  unfold Iss.floatOp
  rw [Iss.gated_ready h]
  have e : List.map Prod.snd (List.map (fun o => (o.1, o.2.2)) (x.active.map (fun l => (l, compute x l (x.vals l))))) =
      x.active.map (fun l => (compute x l (x.vals l)).2) := by
    simp [Function.comp_def]
  simp only
  rw [Iss.raiseFlags_ready (by rw [e]; exact hf), e]
  congr 1
  refine Iss.deliver_congr fun l hl => ?_
  rw [find_lane hl]
  rfl

theorem Iss.floatOp_traps {x : Iss} {accs : List (List Ty)} {lat : Nat} {occ : Occupancy} {tags : List Ty}
    {compute : Iss → Nat → List (Word × Ty) → List (Word × Ty) × Fl} (h : x.Readable x.active accs)
    (hf : orFlags (x.active.map (fun l => (compute x l (x.vals l)).2)) &&& x.v.fpTrapEn ≠ 0) :
    x.floatOp accs lat occ tags compute =
      (x.flag (orFlags (x.active.map (fun l => (compute x l (x.vals l)).2)))).trapAt tFpe x.p.pc
        (maskOf (x.active.filter (fun l => decide ((compute x l (x.vals l)).2 &&& x.v.fpTrapEn ≠ 0))))
        (orFlags (x.active.map (fun l => (compute x l (x.vals l)).2))).toNat 0 := by
  unfold Iss.floatOp
  rw [Iss.gated_ready h]
  have e : List.map Prod.snd (List.map (fun o => (o.1, o.2.2)) (x.active.map (fun l => (l, compute x l (x.vals l))))) =
      x.active.map (fun l => (compute x l (x.vals l)).2) := by
    simp [Function.comp_def]
  simp only
  rw [Iss.raiseFlags_traps (by rw [e]; exact hf), e]
  congr 2
  rw [List.map_map, List.filter_map, List.map_map]
  simp [Function.comp_def]

/-- R164: a float comparison whose operands can be read, and which raises no enabled flag, writes its predicate. -/
theorem Iss.floatPred_ready {x : Iss} {accs : List (List Ty)} {lat : Nat} {occ : Occupancy}
    {compute : Iss → Nat → List (Word × Ty) → Bool × Fl} (h : x.Readable x.active accs)
    (hf : orFlags (x.active.map (fun l => (compute x l (x.vals l)).2)) &&& x.v.fpTrapEn = 0) :
    x.floatPred accs lat occ compute =
      ((x.flag (orFlags (x.active.map (fun l => (compute x l (x.vals l)).2)))).pop.setPred x.active x.f.pd lat
        (fun l => (compute x l (x.vals l)).1)).doneOcc occ := by
  unfold Iss.floatPred
  rw [Iss.gated_ready h]
  have e : List.map Prod.snd (List.map (fun o => (o.1, o.2.2)) (x.active.map (fun l => (l, compute x l (x.vals l))))) =
      x.active.map (fun l => (compute x l (x.vals l)).2) := by
    simp [Function.comp_def]
  simp only
  rw [Iss.raiseFlags_ready (by rw [e]; exact hf), e]
  congr 1
  refine Iss.setPred_congr fun l hl => ?_
  rw [find_lane hl]

/-- All a float form can do: it delivers its results, waits, or traps. -/
theorem Iss.floatOp_cases (x : Iss) (accs : List (List Ty)) (lat : Nat) (occ : Occupancy) (tags : List Ty)
    (compute : Iss → Nat → List (Word × Ty) → List (Word × Ty) × Fl) :
    (∃ fl, x.floatOp accs lat occ tags compute =
      ((x.flag fl).delivered lat tags (fun l => (compute x l (x.vals l)).1)).doneOcc occ) ∨
    (∃ c, x.floatOp accs lat occ tags compute = x.wait c) ∨ (∃ c m, x.floatOp accs lat occ tags compute = x.trap c m) ∨
    ∃ fl m, x.floatOp accs lat occ tags compute = (x.flag fl).trapAt tFpe x.p.pc m fl.toNat 0 := by
  by_cases h : x.Readable x.active accs
  · by_cases hf : orFlags (x.active.map (fun l => (compute x l (x.vals l)).2)) &&& x.v.fpTrapEn = 0
    · exact .inl ⟨_, Iss.floatOp_ready h hf⟩
    · exact .inr (.inr (.inr ⟨_, _, Iss.floatOp_traps h hf⟩))
  · unfold Iss.floatOp Iss.gated
    unfold Iss.Readable at h
    generalize x.gate x.active accs = g at h
    cases g with
    | ready => exact absurd rfl h
    | wait c => exact .inr (.inl ⟨c, rfl⟩)
    | trap c m => exact .inr (.inr (.inl ⟨c, m, rfl⟩))

end Sys2Proof.Machine
end

