-- ==== Sys2Proof/Laws/Access.lean ====
section
/-! SUPPORT. Memory instructions and the forms that act once for the wave: what their shared operations do when the operands
can be read, with no active lane, and all they can do. -/

namespace Sys2Proof.Machine

/-- R292: with no active lane a memory form makes no access. -/
theorem Iss.memOp_idle {x : Iss} (ha : x.active = []) (cls kind width : Nat) (tags : List Ty) (op : RecOp)
    (fill : Iss → Nat → Access → Access) :
    x.memOp cls kind width tags op fill = (x.deliver [] tags (fun _ => [])).done := by
  unfold Iss.memOp
  rw [ha]
  rfl

/-- R290: addresses turned away. -/
theorem Iss.memOp_trap {x : Iss} (ha : x.active ≠ []) {cls kind width : Nat} {tags : List Ty} {op : RecOp}
    {fill : Iss → Nat → Access → Access} {c : Nat} {m : LaneMask} {a : Nat} (h : x.addresses width = .trap c m a) :
    x.memOp cls kind width tags op fill = x.trapAt c x.p.pc m 0 a := by
  unfold Iss.memOp
  rw [if_neg (by simpa using ha), h]

/-- The accesses of a memory form at its targets. -/
def Iss.accessesAt (x : Iss) (width : Nat) (fill : Iss → Nat → Access → Access) (ts : List (Nat × Target)) : List Access :=
  ts.map (fun t => fill x t.1 { lane := t.1, target := t.2, bytes := width, data := [], b := 0, c := 0 })

/-- The record entry of a memory form: on its way at once where every lane names scratchpad, and past the mesh too where that
is the wave's own quad's, else to be walked. -/
def Iss.accessEntry (x : Iss) (cls kind : Nat) (op : RecOp) (as : List Access) : Rec :=
  let r := x.recOf cls kind (maskOf x.active) op as
  let near := as.all (fun a => match a.target with
    | .quad p _ => p == x.v.x + 12 * x.v.y
    | _ => false)
  if as.all Access.share then { r with phys := as.map (directKey x.v), injected := near || coreInjects x.w.d x.core }
  else { r with state := .walk }

theorem Iss.memOp_targets {x : Iss} (ha : x.active ≠ []) {cls kind width : Nat} {tags : List Ty} {op : RecOp}
    {fill : Iss → Nat → Access → Access} {ts : List (Nat × Target)} (h : x.addresses width = .targets ts) :
    x.memOp cls kind width tags op fill = x.access tags (x.accessEntry cls kind op (x.accessesAt width fill ts)) := by
  unfold Iss.memOp
  rw [if_neg (by simpa using ha), h]
  rfl

/-- All a memory form can do once its operands can be read. -/
theorem Iss.memOp_cases (x : Iss) (cls kind width : Nat) (tags : List Ty) (op : RecOp) (fill : Iss → Nat → Access → Access) :
    x.memOp cls kind width tags op fill = (x.deliver [] tags (fun _ => [])).done ∨
    (∃ c m a, x.memOp cls kind width tags op fill = x.trapAt c x.p.pc m 0 a) ∨
    ∃ r, x.memOp cls kind width tags op fill = x.access tags r := by
  by_cases ha : x.active = []
  · exact .inl (Iss.memOp_idle ha ..)
  · cases h : x.addresses width with
    | targets ts => exact .inr (.inr ⟨_, Iss.memOp_targets ha h⟩)
    | trap c m a => exact .inr (.inl ⟨c, m, a, Iss.memOp_trap ha h⟩)

/-- R271, R276, R293, R430: an access with a free entry, which nothing of its wave holds back, room for what it stores, and no
watched page that does not translate issues. -/
theorem Iss.access_ready {x : Iss} {r : Rec} (hf : recFree x.v = true) (hh : x.heldBy r = none)
    (hs : storeFull x.w x.v r = false) (hw : ∀ va, r.watched x.w x.v ≠ .wait va) (tags : List Ty) :
    x.access tags r = startRec (match r.watched x.w x.v with
      | .hit a => ((x.pop.addRec r).deliver x.active tags (fun _ => x.bound tags)).softTrap tWatch
          (x.v.ctx % 65536) a
      | _ => ((x.pop.addRec r).deliver x.active tags (fun _ => x.bound tags)).done) x.v.uid x.v.recSeq := by
  unfold Iss.access
  rw [hh]
  simp only
  rw [if_neg (by simp [hs]), if_neg (by simp [hf])]
  have hu : ((x.pop.addRec r).deliver x.active tags (fun _ => x.bound tags)).v.uid = x.v.uid := by
    show x.pop.v.uid = x.v.uid
    rw [Iss.pop_eq]
  have hc : ((x.pop.addRec r).deliver x.active tags (fun _ => x.bound tags)).v.ctx = x.v.ctx := by
    show x.pop.v.ctx = x.v.ctx
    rw [Iss.pop_eq]
  cases hx : r.watched x.w x.v with
  | wait va => exact absurd hx (hw va)
  | none => simp only [hu]
  | hit a => simp only [hu, hc]

/-- All an access can do: issue, wait in a class, find no room, or wait for a watched page. -/
theorem Iss.access_cases (x : Iss) (tags : List Ty) (r : Rec) :
    (recFree x.v = true ∧ x.heldBy r = none ∧ storeFull x.w x.v r = false ∧ ∀ va, r.watched x.w x.v ≠ .wait va) ∨
    (∃ c, x.access tags r = x.wait c) ∨ x.access tags r = x.full ∨ ∃ va, x.access tags r = x.waitPage va := by
  unfold Iss.access
  cases hh : x.heldBy r with
  | some c => exact .inr (.inl ⟨c, rfl⟩)
  | none =>
    by_cases hs : storeFull x.w x.v r = true
    · exact .inr (.inr (.inl (by simp only; rw [if_pos hs])))
    · by_cases hf : recFree x.v = true
      · cases hw : r.watched x.w x.v with
        | wait va => exact .inr (.inr (.inr ⟨va, by simp only; rw [if_neg hs, if_neg (by simp [hf])]⟩))
        | none => exact .inl ⟨hf, rfl, by simpa using hs, by simp⟩
        | hit a => exact .inl ⟨hf, rfl, by simpa using hs, by simp⟩
      · exact .inr (.inl ⟨10, by simp only; rw [if_neg hs, if_pos (by simp [hf])]⟩)

/-! ## Forms that act once for the wave (R292) -/

theorem Iss.onceOp_ready {x : Iss} {accs : List (List Ty)} {l : Nat} (hg : x.GuardReady) (hl : x.active.head? = some l)
    (hr : x.Readable [l] accs) (tags : List Ty) (k : Iss → List (Word × Ty) → Work) :
    x.onceOp accs tags k = k x (x.vals l) := by
  unfold Iss.onceOp
  rw [show guardPending x.cc x.v x.p x.f = false from hg]
  cases ha : x.active with
  | nil => rw [ha] at hl; cases hl
  | cons a t =>
    rw [ha] at hl
    cases Option.some.inj hl
    rw [if_neg (by simp)]
    exact Iss.gated_ready hr _

theorem Iss.onceOp_idle {x : Iss} {accs : List (List Ty)} (hg : x.GuardReady) (hl : x.active = []) (tags : List Ty)
    (k : Iss → List (Word × Ty) → Work) : x.onceOp accs tags k = (x.deliver [] tags (fun _ => [])).done := by
  unfold Iss.onceOp
  rw [show guardPending x.cc x.v x.p x.f = false from hg, hl]
  rfl

/-- All a form that acts once can do. -/
theorem Iss.onceOp_cases (x : Iss) (accs : List (List Ty)) (tags : List Ty) (k : Iss → List (Word × Ty) → Work) :
    (∃ l, x.active.head? = some l ∧ x.onceOp accs tags k = k x (x.vals l)) ∨
    x.onceOp accs tags k = (x.deliver [] tags (fun _ => [])).done ∨
    (∃ c, x.onceOp accs tags k = x.wait c) ∨ ∃ c m, x.onceOp accs tags k = x.trap c m := by
  unfold Iss.onceOp
  split
  · exact .inr (.inr (.inl ⟨_, rfl⟩))
  · cases ha : x.active with
    | nil => exact .inr (.inl rfl)
    | cons a t =>
      obtain h | ⟨c, h⟩ | ⟨c, m, h⟩ := Iss.gated_cases x [a] accs (fun s => k s (s.vals a))
      · exact .inl ⟨a, rfl, h⟩
      · exact .inr (.inr (.inl ⟨c, h⟩))
      · exact .inr (.inr (.inr ⟨c, m, h⟩))

/-- R368: a group form on a group the wave is a member of. -/
theorem Iss.groupOp_ready {x : Iss} {accs : List (List Ty)} {l : Nat} {g : Group} (hg : x.GuardReady)
    (hl : x.active.head? = some l) (hr : x.Readable [l] accs) (hf : groupOf x.w.d x.v (gidOf x.f) = some g)
    (hm : (x.v.gid (gidOf x.f)).member = true) (tags : List Ty) (k : Iss → Nat → Group → List (Word × Ty) → Work) :
    x.groupOp accs tags k = k x (gidOf x.f) g (x.vals l) := by
  unfold Iss.groupOp
  rw [Iss.onceOp_ready hg hl hr]
  simp only [hf, hm, if_true]

/-- R313, R318: a form on a buffer of the wave's own quad. -/
theorem Iss.onBuf_ready {x : Iss} {b : Buf} (hb : bufAt x.w.d x.v.task x.v.place (cbIndex x.f) = some b)
    (hn : cbIndex x.f < x.launch Launch.nb) (hc : cbCount x.f ≤ b.slots) (k : Buf → Work) : x.onBuf k = k b := by
  unfold Iss.onBuf
  rw [hb]
  simp only
  rw [if_neg (by omega), if_neg (by omega)]

/-- R279: a counter release whose record entry is free. -/
theorem Iss.release_ready {x : Iss} (h : recFree x.v = true) (kind : Nat) (op : RecOp) :
    x.release kind op = (x.pop.addRec { x.recOf 2 kind (maskOf (x.active.take 1)) op [] with state := .walk }).done.upd
      (fun d => departRec d x.v.uid (x.recOf 2 kind (maskOf (x.active.take 1)) op []).seq) := by
  unfold Iss.release
  rw [if_neg (by simp [h])]

end Sys2Proof.Machine
end

