-- ==== Sys2Proof/Laws/Control.lean ====
section
/-! SUPPORT. Control flow: what the gates of branches and calls do when they let an instruction through, and all they can do. -/

namespace Sys2Proof.Machine

/-- R208: where fewer than eight marks are held, a mark is pushed and the instruction goes on. -/
theorem Iss.marked_ready {x : Iss} (h : x.p.marks.length < 8) (k : Iss → Work) :
    x.marked k = k { x with v := (pushMark x.v x.p).1, p := (pushMark x.v x.p).2 } := by
  unfold Iss.marked
  rw [if_neg (by omega)]

theorem Iss.marked_cases (x : Iss) (k : Iss → Work) :
    x.marked k = k { x with v := (pushMark x.v x.p).1, p := (pushMark x.v x.p).2 } ∨ x.marked k = x.trap tRejoin 0 := by
  unfold Iss.marked
  split
  · exact .inr rfl
  · exact .inl rfl

/-- R97, R221: what lets a call through. -/
theorem Iss.callGate_ready {x : Iss} {n : Nat} (hd : x.p.depth = x.v.depth) (ha : argPending x.cc n x.v x.p.home = false)
    (hl : x.v.depth ≠ 64) (hs : shadowPending x.cc x.v = false) (k : Iss → Work) : x.callGate n k = k x := by
  unfold Iss.callGate
  simp [hd, ha, hl, hs]

/-- All a call's gate can do. -/
theorem Iss.callGate_cases (x : Iss) (n : Nat) (k : Iss → Work) :
    x.callGate n k = k x ∨ (∃ c, x.callGate n k = x.wait c) ∨ x.callGate n k = x.trap tCalldepth 0 := by
  unfold Iss.callGate
  split
  · exact .inr (.inl ⟨_, rfl⟩)
  split
  · exact .inr (.inl ⟨_, rfl⟩)
  split
  · exact .inr (.inr rfl)
  split
  · exact .inr (.inl ⟨_, rfl⟩)
  · exact .inl rfl

/-- R218: where every target is a multiple of 8, no lane is turned away. -/
theorem crooked_nil {x : Iss} (h : ∀ l ∈ x.active, bits (opnd (x.vals l) 0) 0 3 = 0) : crooked x.targets = [] := by
  unfold crooked Iss.targets
  rw [List.map_eq_nil_iff, List.filter_eq_nil_iff]
  intro a ha
  obtain ⟨l, hl, rfl⟩ := List.mem_map.mp ha
  simp [h l hl]

end Sys2Proof.Machine
end

