-- ==== Sys2Proof/Laws/Matrix.lean ====
section
/-! SUPPORT. The matrix forms: what the gates of tiles and scalars do when they let an instruction through, and all they can
do. -/

namespace Sys2Proof.Machine

/-- R176, R180: the tiles named exist and are not busy. -/
theorem Iss.tileGate_ready {x : Iss} {ts : List Nat}
    (h : ∀ t ∈ ts, t < x.v.tiles.length ∧ (x.v.tile t).busyUntil ≤ x.cc) (k : Iss → Work) : x.tileGate ts k = k x := by
  unfold Iss.tileGate
  rw [if_neg, if_neg]
  · simp only [List.any_eq_true, decide_eq_true_eq, not_exists, not_and]
    exact fun t ht => by have := (h t ht).2; omega
  · simp only [List.any_eq_true, decide_eq_true_eq, not_exists, not_and]
    exact fun t ht => by have := (h t ht).1; omega

theorem Iss.tileGate_cases (x : Iss) (ts : List Nat) (k : Iss → Work) :
    x.tileGate ts k = k x ∨ x.tileGate ts k = x.trap tIllegal 0 ∨ x.tileGate ts k = x.wait 9 := by
  unfold Iss.tileGate
  split
  · exact .inr (.inl rfl)
  split
  · exact .inr (.inr rfl)
  · exact .inl rfl

/-- R176: a form with a scalar acts on that of the lowest active lane. -/
theorem Iss.scalarOp_ready {x : Iss} {accs : List (List Ty)} {l : Nat} (hg : x.GuardReady) (hl : x.active.head? = some l)
    (hr : x.Readable [l] accs) (k : Iss → List (Word × Ty) → Work) : x.scalarOp accs k = k x (x.vals l) := by
  unfold Iss.scalarOp
  rw [show guardPending x.cc x.v x.p x.f = false from hg]
  cases ha : x.active with
  | nil => rw [ha] at hl; cases hl
  | cons a t =>
    rw [ha] at hl
    cases Option.some.inj hl
    rw [if_neg (by simp)]
    exact Iss.gated_ready hr _

/-- R176: with no active lane it only completes. -/
theorem Iss.scalarOp_idle {x : Iss} {accs : List (List Ty)} (hg : x.GuardReady) (hl : x.active = [])
    (k : Iss → List (Word × Ty) → Work) : x.scalarOp accs k = x.done := by
  unfold Iss.scalarOp
  rw [show guardPending x.cc x.v x.p x.f = false from hg, hl]
  rfl

/-- All a form with a scalar can do. -/
theorem Iss.scalarOp_cases (x : Iss) (accs : List (List Ty)) (k : Iss → List (Word × Ty) → Work) :
    (∃ l, x.active.head? = some l ∧ x.scalarOp accs k = k x (x.vals l)) ∨ x.scalarOp accs k = x.done ∨
    (∃ c, x.scalarOp accs k = x.wait c) ∨ ∃ c m, x.scalarOp accs k = x.trap c m := by
  unfold Iss.scalarOp
  split
  · exact .inr (.inr (.inl ⟨_, rfl⟩))
  · cases ha : x.active with
    | nil => exact .inr (.inl rfl)
    | cons a t =>
      obtain h | ⟨c, h⟩ | ⟨c, m, h⟩ := Iss.gated_cases x [a] accs (fun s => k s (s.vals a))
      · exact .inl ⟨a, rfl, h⟩
      · exact .inr (.inr (.inl ⟨c, h⟩))
      · exact .inr (.inr (.inr ⟨c, m, h⟩))

/-- R176: a form without a scalar. -/
theorem Iss.tileOp_ready {x : Iss} {tags : List Ty} (hg : x.GuardReady) (ha : x.active ≠ []) (k : Iss → Work) :
    x.tileOp tags k = k x := by
  unfold Iss.tileOp
  rw [Iss.guardGate_ready hg]
  cases h : x.active with
  | nil => exact absurd h ha
  | cons a t => rfl

theorem Iss.tileOp_idle {x : Iss} {tags : List Ty} (hg : x.GuardReady) (ha : x.active = []) (k : Iss → Work) :
    x.tileOp tags k = (x.deliver [] tags (fun _ => [])).done := by
  unfold Iss.tileOp
  rw [Iss.guardGate_ready hg, ha]
  rfl

theorem Iss.tileOp_cases (x : Iss) (tags : List Ty) (k : Iss → Work) :
    x.tileOp tags k = k x ∨ x.tileOp tags k = (x.deliver [] tags (fun _ => [])).done ∨ ∃ c, x.tileOp tags k = x.wait c := by
  unfold Iss.tileOp
  obtain h | ⟨c, h⟩ := Iss.guardGate_cases x (fun s => if s.active.isEmpty then (s.deliver [] tags (fun _ => [])).done else k s)
  · rw [h]
    split
    · exact .inr (.inl rfl)
    · exact .inl rfl
  · exact .inr (.inr ⟨c, h⟩)

end Sys2Proof.Machine
end

