-- ==== Sys2Proof/Laws/Memory.lean ====
section
/-! SUPPORT. Memory: what a byte reads as after a write, that every write keeps the canonical form, and that canonical
memories that read alike are equal. -/

namespace Sys2Proof.Machine

/-! ## Reads and writes -/

theorem Memory.wfFrom_cons {lo : Option Nat} {a : Nat} {b : Byte} {t : List Host.Cell} :
    Memory.wfFrom lo ((a, b) :: t) = true ↔ (∀ l, lo = some l → l < a) ∧ b ≠ unlistedByte ∧ Memory.wfFrom (some a) t = true := by
  cases lo <;> simp [Memory.wfFrom, and_assoc]

theorem Memory.wfFrom_weaken {l l' : Nat} {t : List Host.Cell} (h : Memory.wfFrom (some l) t = true) (hl : l' ≤ l) :
    Memory.wfFrom (some l') t = true := by
  cases t with
  | nil => rfl
  | cons c t =>
    rw [Memory.wfFrom_cons] at h ⊢
    exact ⟨fun k hk => by cases hk; exact Nat.lt_of_le_of_lt hl (h.1 l rfl), h.2⟩

theorem Memory.wfFrom_none {lo : Option Nat} {t : List Host.Cell} (h : Memory.wfFrom lo t = true) :
    Memory.wfFrom none t = true := by
  cases t with
  | nil => rfl
  | cons c t => rw [Memory.wfFrom_cons] at h ⊢; exact ⟨by simp, h.2⟩

/-- Below the first listed address every byte reads as the unlisted one. -/
theorem readCells_below {l x : Nat} {t : List Host.Cell} (h : Memory.wfFrom (some l) t = true) (hx : x ≤ l) :
    readCells t x = unlistedByte := by
  induction t generalizing l with
  | nil => rfl
  | cons c t ih =>
    obtain ⟨a, b⟩ := c
    rw [Memory.wfFrom_cons] at h
    have := h.1 l rfl
    rw [readCells, if_neg (by omega)]
    exact ih h.2.2 (by omega)

/-- A written byte reads back, and every other byte reads as before. -/
theorem readCells_write {lo : Option Nat} {t : List Host.Cell} (h : Memory.wfFrom lo t = true) (x : Nat) (v : Byte) (y : Nat) :
    readCells (writeCells t x v) y = if y = x then v else readCells t y := by
  induction t generalizing lo with
  | nil =>
    by_cases hv : v = unlistedByte <;> by_cases hy : x = y
    · simp [writeCells, readCells, hv]
    · simp [writeCells, readCells, hv]
    · simp [writeCells, readCells, hv, hy]
    · simp [writeCells, readCells, hv, hy, Ne.symm hy]
  | cons c t ih =>
    obtain ⟨a, b⟩ := c
    rw [Memory.wfFrom_cons] at h
    have hb : ∀ z, z ≤ a → readCells t z = unlistedByte := fun z hz => readCells_below h.2.2 hz
    rw [writeCells]
    by_cases hlt : x < a
    · have hx := hb x (by omega)
      by_cases hv : v = unlistedByte <;> by_cases hy : y = x
      · subst hy; simp [hlt, hv, readCells, show ¬ a = y by omega, hx]
      · simp [hlt, hv, readCells, hy]
      · subst hy; simp [hlt, hv, readCells]
      · simp [hlt, hv, readCells, hy, show ¬ x = y by omega]
    · by_cases hxa : x = a
      · subst hxa
        have hx := hb x (Nat.le_refl x)
        by_cases hv : v = unlistedByte <;> by_cases hy : y = x
        · subst hy; simp [hv, hx]
        · simp [hv, readCells, hy, show ¬ x = y by omega]
        · subst hy; simp [hv, readCells]
        · simp [hv, readCells, hy, show ¬ x = y by omega]
      · rw [if_neg hlt, if_neg hxa, readCells, ih h.2.2, readCells]
        by_cases hy : a = y
        · simp [hy, show ¬ y = x by omega]
        · simp [hy]

theorem writeCells_wf {lo : Option Nat} {t : List Host.Cell} (h : Memory.wfFrom lo t = true) {x : Nat} (v : Byte)
    (hx : ∀ l, lo = some l → l < x) : Memory.wfFrom lo (writeCells t x v) = true := by
  induction t generalizing lo with
  | nil =>
    rw [writeCells]
    split
    · rfl
    · exact Memory.wfFrom_cons.2 ⟨hx, ‹_›, rfl⟩
  | cons c t ih =>
    obtain ⟨a, b⟩ := c
    have hc := Memory.wfFrom_cons.1 h
    rw [writeCells]
    split
    · split
      · exact h
      · exact Memory.wfFrom_cons.2 ⟨hx, ‹_›, Memory.wfFrom_cons.2 ⟨by rintro l ⟨⟩; assumption, hc.2⟩⟩
    · split
      · subst x
        split
        · cases lo with
          | none => exact Memory.wfFrom_none hc.2.2
          | some l => exact Memory.wfFrom_weaken hc.2.2 (Nat.le_of_lt (hx l rfl))
        · exact Memory.wfFrom_cons.2 ⟨hx, ‹_›, hc.2.2⟩
      · exact Memory.wfFrom_cons.2 ⟨hc.1, hc.2.1, ih hc.2.2 (by rintro l ⟨⟩; omega)⟩

/-- R3: a written byte reads back, and every other byte reads as before. -/
theorem Memory.read_write {m : Memory} (h : m.wf = true) (x : Nat) (v : Byte) (y : Nat) :
    (m.write x v).read y = if y = x then v else m.read y := readCells_write h x v y

/-- A write keeps the canonical form. -/
theorem Memory.write_wf {m : Memory} (h : m.wf = true) (x : Nat) (v : Byte) : (m.write x v).wf = true :=
  writeCells_wf h v (by simp)

/-- A list of writes keeps the canonical form. -/
theorem Memory.writeAll_wf {m : Memory} (h : m.wf = true) (ws : List Host.Cell) : (m.writeAll ws).wf = true := by
  induction ws with
  | nil => exact h
  | cons c t ih => exact Memory.write_wf ih c.1 c.2

/-- What a byte reads as after a list of writes: the first of the list that names it. -/
theorem Memory.read_writeAll {m : Memory} (h : m.wf = true) (ws : List Host.Cell) (y : Nat) :
    (m.writeAll ws).read y = ((ws.find? (fun c => c.1 == y)).map Prod.snd).getD (m.read y) := by
  induction ws with
  | nil => rfl
  | cons c t ih =>
    show ((m.writeAll t).write c.1 c.2).read y = _
    rw [Memory.read_write (Memory.writeAll_wf h t), List.find?_cons]
    by_cases hc : y = c.1
    · simp [hc]
    · have : (c.1 == y) = false := by simpa using Ne.symm hc
      rw [if_neg hc, ih, this]

theorem Memory.empty_wf : Memory.empty.wf = true := rfl

/-! ## Equal memories are equal data -/

theorem cells_ext {lo : Option Nat} {s t : List Host.Cell} (hs : Memory.wfFrom lo s = true) (ht : Memory.wfFrom lo t = true)
    (h : ∀ x, readCells s x = readCells t x) : s = t := by
  induction s generalizing lo t with
  | nil =>
    cases t with
    | nil => rfl
    | cons c t => have := h c.1; simp [readCells] at this; exact absurd this.symm (Memory.wfFrom_cons.1 ht).2.1
  | cons c s ih =>
    obtain ⟨a, b⟩ := c
    have hs' := Memory.wfFrom_cons.1 hs
    cases t with
    | nil => have := h a; simp [readCells] at this; exact absurd this hs'.2.1
    | cons c t =>
      obtain ⟨a', b'⟩ := c
      have ht' := Memory.wfFrom_cons.1 ht
      have hab : a = a' := by
        rcases Nat.lt_trichotomy a a' with hl | hl | hl
        · have := h a
          rw [readCells, if_pos rfl, readCells, if_neg (by omega), readCells_below ht'.2.2 (by omega)] at this
          exact absurd this hs'.2.1
        · exact hl
        · have := h a'
          rw [readCells, if_neg (by omega), readCells_below hs'.2.2 (by omega), readCells, if_pos rfl] at this
          exact absurd this.symm ht'.2.1
      subst hab
      have hb : b = b' := by have := h a; simpa [readCells] using this
      subst hb
      congr 1
      refine ih hs'.2.2 ht'.2.2 fun x => ?_
      by_cases hx : x ≤ a
      · rw [readCells_below hs'.2.2 hx, readCells_below ht'.2.2 hx]
      · have := h x; rwa [readCells, if_neg (by omega), readCells, if_neg (by omega)] at this

/-- Canonical memories that read alike are equal. -/
theorem Memory.ext_read {m n : Memory} (hm : m.wf = true) (hn : n.wf = true) (h : ∀ x, m.read x = n.read x) : m = n := by
  cases m; cases n; exact congrArg _ (cells_ext hm hn h)

/-! ## Steps in progress -/

/-- The byte a step sees is the byte memory holds once the step is over. -/
theorem Work.byte_after {w : Work} {s : State} (hm : w.m = s.mem) (h : s.mem.wf = true) (y : Nat) :
    (w.after s).mem.read y = w.byte y := by
  show (s.mem.writeAll w.ws).read y = _
  rw [Memory.read_writeAll h]
  unfold Work.byte
  split
  · simp_all
  · have : w.ws.find? (fun c => c.1 == y) = none := ‹_›
    rw [this, hm]; rfl

/-- Whatever a step does, it keeps the canonical form of memory. -/
theorem State.run_wf {s t : State} {f : Work → Except Refusal Work} (h : s.mem.wf = true) (ht : s.run f = .next t) :
    t.mem.wf = true := by
  unfold State.run at ht
  split at ht
  · cases ht; exact Memory.writeAll_wf h _
  · cases ht

end Sys2Proof.Machine
end

