-- ==== Sys2Proof/Laws/State.lean ====
section
/-! SUPPORT. What each update of the state leaves alone, and what it sets: one lemma for each field and update, so that no
proof about an instruction unfolds a record. -/

namespace Sys2Proof.Machine

variable {d : Dev} {v : Wave} {w : Work} {s : State} {u c i n q : Nat}
  {fw : Wave → Wave} {ft : Task → Task} {fc : Ctx → Ctx} {fl : Launch → Launch} {fk : Core → Core} {fq : Quad → Quad}
  {fm : Mgmt → Mgmt} {fs : Split → Split} {fr : Rec → Rec} {f : Dev → Dev} {b : Byte} {a : Nat}

/-! ## The device with a wave changed -/

@[simp] theorem Dev.updWave_powered : (d.updWave u fw).powered = d.powered := rfl
@[simp] theorem Dev.updWave_cc : (d.updWave u fw).cc = d.cc := rfl
@[simp] theorem Dev.updWave_waves : (d.updWave u fw).waves = updWhere (fun w => w.uid == u) fw d.waves := rfl
@[simp] theorem Dev.updWave_tasks : (d.updWave u fw).tasks = d.tasks := rfl
@[simp] theorem Dev.updWave_launches : (d.updWave u fw).launches = d.launches := rfl
@[simp] theorem Dev.updWave_ctxs : (d.updWave u fw).ctxs = d.ctxs := rfl
@[simp] theorem Dev.updWave_cores : (d.updWave u fw).cores = d.cores := rfl
@[simp] theorem Dev.updWave_quads : (d.updWave u fw).quads = d.quads := rfl
@[simp] theorem Dev.updWave_queues : (d.updWave u fw).queues = d.queues := rfl
@[simp] theorem Dev.updWave_tails : (d.updWave u fw).tails = d.tails := rfl
@[simp] theorem Dev.updWave_launchReqs : (d.updWave u fw).launchReqs = d.launchReqs := rfl
@[simp] theorem Dev.updWave_ringWaits : (d.updWave u fw).ringWaits = d.ringWaits := rfl
@[simp] theorem Dev.updWave_vers : (d.updWave u fw).vers = d.vers := rfl
@[simp] theorem Dev.updWave_storeSerial : (d.updWave u fw).storeSerial = d.storeSerial := rfl
@[simp] theorem Dev.updWave_commitSerial : (d.updWave u fw).commitSerial = d.commitSerial := rfl
@[simp] theorem Dev.updWave_openCommits : (d.updWave u fw).openCommits = d.openCommits := rfl
@[simp] theorem Dev.updWave_home : (d.updWave u fw).home = d.home := rfl
@[simp] theorem Dev.updWave_pipeLog : (d.updWave u fw).pipeLog = d.pipeLog := rfl
@[simp] theorem Dev.updWave_pipeNum : (d.updWave u fw).pipeNum = d.pipeNum := rfl
@[simp] theorem Dev.updWave_dirty : (d.updWave u fw).dirty = d.dirty := rfl
@[simp] theorem Dev.updWave_dirs : (d.updWave u fw).dirs = d.dirs := rfl
@[simp] theorem Dev.updWave_fresh : (d.updWave u fw).fresh = d.fresh := rfl
@[simp] theorem Dev.updWave_visitors : (d.updWave u fw).visitors = d.visitors := rfl
@[simp] theorem Dev.updWave_issueNum : (d.updWave u fw).issueNum = d.issueNum := rfl
@[simp] theorem Dev.updWave_bankReqs : (d.updWave u fw).bankReqs = d.bankReqs := rfl
@[simp] theorem Dev.updWave_groupReqs : (d.updWave u fw).groupReqs = d.groupReqs := rfl
@[simp] theorem Dev.updWave_msgReqs : (d.updWave u fw).msgReqs = d.msgReqs := rfl
@[simp] theorem Dev.updWave_deliveries : (d.updWave u fw).deliveries = d.deliveries := rfl
@[simp] theorem Dev.updWave_filters : (d.updWave u fw).filters = d.filters := rfl
@[simp] theorem Dev.updWave_acks : (d.updWave u fw).acks = d.acks := rfl
@[simp] theorem Dev.updWave_invals : (d.updWave u fw).invals = d.invals := rfl
@[simp] theorem Dev.updWave_invalNum : (d.updWave u fw).invalNum = d.invalNum := rfl
@[simp] theorem Dev.updWave_counted : (d.updWave u fw).counted = d.counted := rfl
@[simp] theorem Dev.updWave_watch : (d.updWave u fw).watch = d.watch := rfl
@[simp] theorem Dev.updWave_xcache : (d.updWave u fw).xcache = d.xcache := rfl
@[simp] theorem Dev.updWave_bad : (d.updWave u fw).bad = d.bad := rfl
@[simp] theorem Dev.updWave_meshReq : (d.updWave u fw).meshReq = d.meshReq := rfl
@[simp] theorem Dev.updWave_meshReply : (d.updWave u fw).meshReply = d.meshReply := rfl
@[simp] theorem Dev.updWave_remote : (d.updWave u fw).remote = d.remote := rfl
@[simp] theorem Dev.updWave_ports : (d.updWave u fw).ports = d.ports := rfl
@[simp] theorem Dev.updWave_placeMap : (d.updWave u fw).placeMap = d.placeMap := rfl
@[simp] theorem Dev.updWave_placePending : (d.updWave u fw).placePending = d.placePending := rfl
@[simp] theorem Dev.updWave_toybox : (d.updWave u fw).toybox = d.toybox := rfl
@[simp] theorem Dev.updWave_toyboxPending : (d.updWave u fw).toyboxPending = d.toyboxPending := rfl
@[simp] theorem Dev.updWave_hb : (d.updWave u fw).hb = d.hb := rfl
@[simp] theorem Dev.updWave_hbWas : (d.updWave u fw).hbWas = d.hbWas := rfl
@[simp] theorem Dev.updWave_hbPending : (d.updWave u fw).hbPending = d.hbPending := rfl
@[simp] theorem Dev.updWave_mg : (d.updWave u fw).mg = d.mg := rfl
@[simp] theorem Dev.updWave_gov : (d.updWave u fw).gov = d.gov := rfl
@[simp] theorem Dev.updWave_traps : (d.updWave u fw).traps = d.traps := rfl
@[simp] theorem Dev.updWave_accepted : (d.updWave u fw).accepted = d.accepted := rfl
@[simp] theorem Dev.updWave_preempts : (d.updWave u fw).preempts = d.preempts := rfl
@[simp] theorem Dev.updWave_uid : (d.updWave u fw).uid = d.uid := rfl
@[simp] theorem Dev.updWave_freeCtr : (d.updWave u fw).freeCtr = d.freeCtr := rfl
@[simp] theorem Dev.updWave_issued : (d.updWave u fw).issued = d.issued := rfl
@[simp] theorem Dev.updWave_tried : (d.updWave u fw).tried = d.tried := rfl
@[simp] theorem Dev.updWave_events : (d.updWave u fw).events = d.events := rfl
@[simp] theorem Dev.updWave_issuer : (d.updWave u fw).issuer = d.issuer := rfl
@[simp] theorem Dev.updWave_agenda : (d.updWave u fw).agenda = d.agenda := rfl

/-! ## The device with a task changed -/

@[simp] theorem Dev.updTask_powered : (d.updTask u ft).powered = d.powered := rfl
@[simp] theorem Dev.updTask_cc : (d.updTask u ft).cc = d.cc := rfl
@[simp] theorem Dev.updTask_waves : (d.updTask u ft).waves = d.waves := rfl
@[simp] theorem Dev.updTask_tasks : (d.updTask u ft).tasks = updWhere (fun t => t.uid == u) ft d.tasks := rfl
@[simp] theorem Dev.updTask_launches : (d.updTask u ft).launches = d.launches := rfl
@[simp] theorem Dev.updTask_ctxs : (d.updTask u ft).ctxs = d.ctxs := rfl
@[simp] theorem Dev.updTask_cores : (d.updTask u ft).cores = d.cores := rfl
@[simp] theorem Dev.updTask_quads : (d.updTask u ft).quads = d.quads := rfl
@[simp] theorem Dev.updTask_queues : (d.updTask u ft).queues = d.queues := rfl
@[simp] theorem Dev.updTask_tails : (d.updTask u ft).tails = d.tails := rfl
@[simp] theorem Dev.updTask_launchReqs : (d.updTask u ft).launchReqs = d.launchReqs := rfl
@[simp] theorem Dev.updTask_ringWaits : (d.updTask u ft).ringWaits = d.ringWaits := rfl
@[simp] theorem Dev.updTask_vers : (d.updTask u ft).vers = d.vers := rfl
@[simp] theorem Dev.updTask_storeSerial : (d.updTask u ft).storeSerial = d.storeSerial := rfl
@[simp] theorem Dev.updTask_commitSerial : (d.updTask u ft).commitSerial = d.commitSerial := rfl
@[simp] theorem Dev.updTask_openCommits : (d.updTask u ft).openCommits = d.openCommits := rfl
@[simp] theorem Dev.updTask_home : (d.updTask u ft).home = d.home := rfl
@[simp] theorem Dev.updTask_pipeLog : (d.updTask u ft).pipeLog = d.pipeLog := rfl
@[simp] theorem Dev.updTask_pipeNum : (d.updTask u ft).pipeNum = d.pipeNum := rfl
@[simp] theorem Dev.updTask_dirty : (d.updTask u ft).dirty = d.dirty := rfl
@[simp] theorem Dev.updTask_dirs : (d.updTask u ft).dirs = d.dirs := rfl
@[simp] theorem Dev.updTask_fresh : (d.updTask u ft).fresh = d.fresh := rfl
@[simp] theorem Dev.updTask_visitors : (d.updTask u ft).visitors = d.visitors := rfl
@[simp] theorem Dev.updTask_issueNum : (d.updTask u ft).issueNum = d.issueNum := rfl
@[simp] theorem Dev.updTask_bankReqs : (d.updTask u ft).bankReqs = d.bankReqs := rfl
@[simp] theorem Dev.updTask_groupReqs : (d.updTask u ft).groupReqs = d.groupReqs := rfl
@[simp] theorem Dev.updTask_msgReqs : (d.updTask u ft).msgReqs = d.msgReqs := rfl
@[simp] theorem Dev.updTask_deliveries : (d.updTask u ft).deliveries = d.deliveries := rfl
@[simp] theorem Dev.updTask_filters : (d.updTask u ft).filters = d.filters := rfl
@[simp] theorem Dev.updTask_acks : (d.updTask u ft).acks = d.acks := rfl
@[simp] theorem Dev.updTask_invals : (d.updTask u ft).invals = d.invals := rfl
@[simp] theorem Dev.updTask_invalNum : (d.updTask u ft).invalNum = d.invalNum := rfl
@[simp] theorem Dev.updTask_counted : (d.updTask u ft).counted = d.counted := rfl
@[simp] theorem Dev.updTask_watch : (d.updTask u ft).watch = d.watch := rfl
@[simp] theorem Dev.updTask_xcache : (d.updTask u ft).xcache = d.xcache := rfl
@[simp] theorem Dev.updTask_bad : (d.updTask u ft).bad = d.bad := rfl
@[simp] theorem Dev.updTask_meshReq : (d.updTask u ft).meshReq = d.meshReq := rfl
@[simp] theorem Dev.updTask_meshReply : (d.updTask u ft).meshReply = d.meshReply := rfl
@[simp] theorem Dev.updTask_remote : (d.updTask u ft).remote = d.remote := rfl
@[simp] theorem Dev.updTask_ports : (d.updTask u ft).ports = d.ports := rfl
@[simp] theorem Dev.updTask_placeMap : (d.updTask u ft).placeMap = d.placeMap := rfl
@[simp] theorem Dev.updTask_placePending : (d.updTask u ft).placePending = d.placePending := rfl
@[simp] theorem Dev.updTask_toybox : (d.updTask u ft).toybox = d.toybox := rfl
@[simp] theorem Dev.updTask_toyboxPending : (d.updTask u ft).toyboxPending = d.toyboxPending := rfl
@[simp] theorem Dev.updTask_hb : (d.updTask u ft).hb = d.hb := rfl
@[simp] theorem Dev.updTask_hbWas : (d.updTask u ft).hbWas = d.hbWas := rfl
@[simp] theorem Dev.updTask_hbPending : (d.updTask u ft).hbPending = d.hbPending := rfl
@[simp] theorem Dev.updTask_mg : (d.updTask u ft).mg = d.mg := rfl
@[simp] theorem Dev.updTask_gov : (d.updTask u ft).gov = d.gov := rfl
@[simp] theorem Dev.updTask_traps : (d.updTask u ft).traps = d.traps := rfl
@[simp] theorem Dev.updTask_accepted : (d.updTask u ft).accepted = d.accepted := rfl
@[simp] theorem Dev.updTask_preempts : (d.updTask u ft).preempts = d.preempts := rfl
@[simp] theorem Dev.updTask_uid : (d.updTask u ft).uid = d.uid := rfl
@[simp] theorem Dev.updTask_freeCtr : (d.updTask u ft).freeCtr = d.freeCtr := rfl
@[simp] theorem Dev.updTask_issued : (d.updTask u ft).issued = d.issued := rfl
@[simp] theorem Dev.updTask_tried : (d.updTask u ft).tried = d.tried := rfl
@[simp] theorem Dev.updTask_events : (d.updTask u ft).events = d.events := rfl
@[simp] theorem Dev.updTask_issuer : (d.updTask u ft).issuer = d.issuer := rfl
@[simp] theorem Dev.updTask_agenda : (d.updTask u ft).agenda = d.agenda := rfl

/-! ## The device with a context changed -/

@[simp] theorem Dev.updCtx_powered : (d.updCtx i fc).powered = d.powered := rfl
@[simp] theorem Dev.updCtx_cc : (d.updCtx i fc).cc = d.cc := rfl
@[simp] theorem Dev.updCtx_waves : (d.updCtx i fc).waves = d.waves := rfl
@[simp] theorem Dev.updCtx_tasks : (d.updCtx i fc).tasks = d.tasks := rfl
@[simp] theorem Dev.updCtx_launches : (d.updCtx i fc).launches = d.launches := rfl
@[simp] theorem Dev.updCtx_ctxs : (d.updCtx i fc).ctxs = updWhere (fun c => c.id == i) fc d.ctxs := rfl
@[simp] theorem Dev.updCtx_cores : (d.updCtx i fc).cores = d.cores := rfl
@[simp] theorem Dev.updCtx_quads : (d.updCtx i fc).quads = d.quads := rfl
@[simp] theorem Dev.updCtx_queues : (d.updCtx i fc).queues = d.queues := rfl
@[simp] theorem Dev.updCtx_tails : (d.updCtx i fc).tails = d.tails := rfl
@[simp] theorem Dev.updCtx_launchReqs : (d.updCtx i fc).launchReqs = d.launchReqs := rfl
@[simp] theorem Dev.updCtx_ringWaits : (d.updCtx i fc).ringWaits = d.ringWaits := rfl
@[simp] theorem Dev.updCtx_vers : (d.updCtx i fc).vers = d.vers := rfl
@[simp] theorem Dev.updCtx_storeSerial : (d.updCtx i fc).storeSerial = d.storeSerial := rfl
@[simp] theorem Dev.updCtx_commitSerial : (d.updCtx i fc).commitSerial = d.commitSerial := rfl
@[simp] theorem Dev.updCtx_openCommits : (d.updCtx i fc).openCommits = d.openCommits := rfl
@[simp] theorem Dev.updCtx_home : (d.updCtx i fc).home = d.home := rfl
@[simp] theorem Dev.updCtx_pipeLog : (d.updCtx i fc).pipeLog = d.pipeLog := rfl
@[simp] theorem Dev.updCtx_pipeNum : (d.updCtx i fc).pipeNum = d.pipeNum := rfl
@[simp] theorem Dev.updCtx_dirty : (d.updCtx i fc).dirty = d.dirty := rfl
@[simp] theorem Dev.updCtx_dirs : (d.updCtx i fc).dirs = d.dirs := rfl
@[simp] theorem Dev.updCtx_fresh : (d.updCtx i fc).fresh = d.fresh := rfl
@[simp] theorem Dev.updCtx_visitors : (d.updCtx i fc).visitors = d.visitors := rfl
@[simp] theorem Dev.updCtx_issueNum : (d.updCtx i fc).issueNum = d.issueNum := rfl
@[simp] theorem Dev.updCtx_bankReqs : (d.updCtx i fc).bankReqs = d.bankReqs := rfl
@[simp] theorem Dev.updCtx_groupReqs : (d.updCtx i fc).groupReqs = d.groupReqs := rfl
@[simp] theorem Dev.updCtx_msgReqs : (d.updCtx i fc).msgReqs = d.msgReqs := rfl
@[simp] theorem Dev.updCtx_deliveries : (d.updCtx i fc).deliveries = d.deliveries := rfl
@[simp] theorem Dev.updCtx_filters : (d.updCtx i fc).filters = d.filters := rfl
@[simp] theorem Dev.updCtx_acks : (d.updCtx i fc).acks = d.acks := rfl
@[simp] theorem Dev.updCtx_invals : (d.updCtx i fc).invals = d.invals := rfl
@[simp] theorem Dev.updCtx_invalNum : (d.updCtx i fc).invalNum = d.invalNum := rfl
@[simp] theorem Dev.updCtx_counted : (d.updCtx i fc).counted = d.counted := rfl
@[simp] theorem Dev.updCtx_watch : (d.updCtx i fc).watch = d.watch := rfl
@[simp] theorem Dev.updCtx_xcache : (d.updCtx i fc).xcache = d.xcache := rfl
@[simp] theorem Dev.updCtx_bad : (d.updCtx i fc).bad = d.bad := rfl
@[simp] theorem Dev.updCtx_meshReq : (d.updCtx i fc).meshReq = d.meshReq := rfl
@[simp] theorem Dev.updCtx_meshReply : (d.updCtx i fc).meshReply = d.meshReply := rfl
@[simp] theorem Dev.updCtx_remote : (d.updCtx i fc).remote = d.remote := rfl
@[simp] theorem Dev.updCtx_ports : (d.updCtx i fc).ports = d.ports := rfl
@[simp] theorem Dev.updCtx_placeMap : (d.updCtx i fc).placeMap = d.placeMap := rfl
@[simp] theorem Dev.updCtx_placePending : (d.updCtx i fc).placePending = d.placePending := rfl
@[simp] theorem Dev.updCtx_toybox : (d.updCtx i fc).toybox = d.toybox := rfl
@[simp] theorem Dev.updCtx_toyboxPending : (d.updCtx i fc).toyboxPending = d.toyboxPending := rfl
@[simp] theorem Dev.updCtx_hb : (d.updCtx i fc).hb = d.hb := rfl
@[simp] theorem Dev.updCtx_hbWas : (d.updCtx i fc).hbWas = d.hbWas := rfl
@[simp] theorem Dev.updCtx_hbPending : (d.updCtx i fc).hbPending = d.hbPending := rfl
@[simp] theorem Dev.updCtx_mg : (d.updCtx i fc).mg = d.mg := rfl
@[simp] theorem Dev.updCtx_gov : (d.updCtx i fc).gov = d.gov := rfl
@[simp] theorem Dev.updCtx_traps : (d.updCtx i fc).traps = d.traps := rfl
@[simp] theorem Dev.updCtx_accepted : (d.updCtx i fc).accepted = d.accepted := rfl
@[simp] theorem Dev.updCtx_preempts : (d.updCtx i fc).preempts = d.preempts := rfl
@[simp] theorem Dev.updCtx_uid : (d.updCtx i fc).uid = d.uid := rfl
@[simp] theorem Dev.updCtx_freeCtr : (d.updCtx i fc).freeCtr = d.freeCtr := rfl
@[simp] theorem Dev.updCtx_issued : (d.updCtx i fc).issued = d.issued := rfl
@[simp] theorem Dev.updCtx_tried : (d.updCtx i fc).tried = d.tried := rfl
@[simp] theorem Dev.updCtx_events : (d.updCtx i fc).events = d.events := rfl
@[simp] theorem Dev.updCtx_issuer : (d.updCtx i fc).issuer = d.issuer := rfl
@[simp] theorem Dev.updCtx_agenda : (d.updCtx i fc).agenda = d.agenda := rfl

/-! ## The device with a launch changed -/

@[simp] theorem Dev.updLaunch_powered : (d.updLaunch c i fl).powered = d.powered := rfl
@[simp] theorem Dev.updLaunch_cc : (d.updLaunch c i fl).cc = d.cc := rfl
@[simp] theorem Dev.updLaunch_waves : (d.updLaunch c i fl).waves = d.waves := rfl
@[simp] theorem Dev.updLaunch_tasks : (d.updLaunch c i fl).tasks = d.tasks := rfl
@[simp] theorem Dev.updLaunch_launches : (d.updLaunch c i fl).launches = updWhere (fun l => l.ctx == c && l.id == i) fl d.launches := rfl
@[simp] theorem Dev.updLaunch_ctxs : (d.updLaunch c i fl).ctxs = d.ctxs := rfl
@[simp] theorem Dev.updLaunch_cores : (d.updLaunch c i fl).cores = d.cores := rfl
@[simp] theorem Dev.updLaunch_quads : (d.updLaunch c i fl).quads = d.quads := rfl
@[simp] theorem Dev.updLaunch_queues : (d.updLaunch c i fl).queues = d.queues := rfl
@[simp] theorem Dev.updLaunch_tails : (d.updLaunch c i fl).tails = d.tails := rfl
@[simp] theorem Dev.updLaunch_launchReqs : (d.updLaunch c i fl).launchReqs = d.launchReqs := rfl
@[simp] theorem Dev.updLaunch_ringWaits : (d.updLaunch c i fl).ringWaits = d.ringWaits := rfl
@[simp] theorem Dev.updLaunch_vers : (d.updLaunch c i fl).vers = d.vers := rfl
@[simp] theorem Dev.updLaunch_storeSerial : (d.updLaunch c i fl).storeSerial = d.storeSerial := rfl
@[simp] theorem Dev.updLaunch_commitSerial : (d.updLaunch c i fl).commitSerial = d.commitSerial := rfl
@[simp] theorem Dev.updLaunch_openCommits : (d.updLaunch c i fl).openCommits = d.openCommits := rfl
@[simp] theorem Dev.updLaunch_home : (d.updLaunch c i fl).home = d.home := rfl
@[simp] theorem Dev.updLaunch_pipeLog : (d.updLaunch c i fl).pipeLog = d.pipeLog := rfl
@[simp] theorem Dev.updLaunch_pipeNum : (d.updLaunch c i fl).pipeNum = d.pipeNum := rfl
@[simp] theorem Dev.updLaunch_dirty : (d.updLaunch c i fl).dirty = d.dirty := rfl
@[simp] theorem Dev.updLaunch_dirs : (d.updLaunch c i fl).dirs = d.dirs := rfl
@[simp] theorem Dev.updLaunch_fresh : (d.updLaunch c i fl).fresh = d.fresh := rfl
@[simp] theorem Dev.updLaunch_visitors : (d.updLaunch c i fl).visitors = d.visitors := rfl
@[simp] theorem Dev.updLaunch_issueNum : (d.updLaunch c i fl).issueNum = d.issueNum := rfl
@[simp] theorem Dev.updLaunch_bankReqs : (d.updLaunch c i fl).bankReqs = d.bankReqs := rfl
@[simp] theorem Dev.updLaunch_groupReqs : (d.updLaunch c i fl).groupReqs = d.groupReqs := rfl
@[simp] theorem Dev.updLaunch_msgReqs : (d.updLaunch c i fl).msgReqs = d.msgReqs := rfl
@[simp] theorem Dev.updLaunch_deliveries : (d.updLaunch c i fl).deliveries = d.deliveries := rfl
@[simp] theorem Dev.updLaunch_filters : (d.updLaunch c i fl).filters = d.filters := rfl
@[simp] theorem Dev.updLaunch_acks : (d.updLaunch c i fl).acks = d.acks := rfl
@[simp] theorem Dev.updLaunch_invals : (d.updLaunch c i fl).invals = d.invals := rfl
@[simp] theorem Dev.updLaunch_invalNum : (d.updLaunch c i fl).invalNum = d.invalNum := rfl
@[simp] theorem Dev.updLaunch_counted : (d.updLaunch c i fl).counted = d.counted := rfl
@[simp] theorem Dev.updLaunch_watch : (d.updLaunch c i fl).watch = d.watch := rfl
@[simp] theorem Dev.updLaunch_xcache : (d.updLaunch c i fl).xcache = d.xcache := rfl
@[simp] theorem Dev.updLaunch_bad : (d.updLaunch c i fl).bad = d.bad := rfl
@[simp] theorem Dev.updLaunch_meshReq : (d.updLaunch c i fl).meshReq = d.meshReq := rfl
@[simp] theorem Dev.updLaunch_meshReply : (d.updLaunch c i fl).meshReply = d.meshReply := rfl
@[simp] theorem Dev.updLaunch_remote : (d.updLaunch c i fl).remote = d.remote := rfl
@[simp] theorem Dev.updLaunch_ports : (d.updLaunch c i fl).ports = d.ports := rfl
@[simp] theorem Dev.updLaunch_placeMap : (d.updLaunch c i fl).placeMap = d.placeMap := rfl
@[simp] theorem Dev.updLaunch_placePending : (d.updLaunch c i fl).placePending = d.placePending := rfl
@[simp] theorem Dev.updLaunch_toybox : (d.updLaunch c i fl).toybox = d.toybox := rfl
@[simp] theorem Dev.updLaunch_toyboxPending : (d.updLaunch c i fl).toyboxPending = d.toyboxPending := rfl
@[simp] theorem Dev.updLaunch_hb : (d.updLaunch c i fl).hb = d.hb := rfl
@[simp] theorem Dev.updLaunch_hbWas : (d.updLaunch c i fl).hbWas = d.hbWas := rfl
@[simp] theorem Dev.updLaunch_hbPending : (d.updLaunch c i fl).hbPending = d.hbPending := rfl
@[simp] theorem Dev.updLaunch_mg : (d.updLaunch c i fl).mg = d.mg := rfl
@[simp] theorem Dev.updLaunch_gov : (d.updLaunch c i fl).gov = d.gov := rfl
@[simp] theorem Dev.updLaunch_traps : (d.updLaunch c i fl).traps = d.traps := rfl
@[simp] theorem Dev.updLaunch_accepted : (d.updLaunch c i fl).accepted = d.accepted := rfl
@[simp] theorem Dev.updLaunch_preempts : (d.updLaunch c i fl).preempts = d.preempts := rfl
@[simp] theorem Dev.updLaunch_uid : (d.updLaunch c i fl).uid = d.uid := rfl
@[simp] theorem Dev.updLaunch_freeCtr : (d.updLaunch c i fl).freeCtr = d.freeCtr := rfl
@[simp] theorem Dev.updLaunch_issued : (d.updLaunch c i fl).issued = d.issued := rfl
@[simp] theorem Dev.updLaunch_tried : (d.updLaunch c i fl).tried = d.tried := rfl
@[simp] theorem Dev.updLaunch_events : (d.updLaunch c i fl).events = d.events := rfl
@[simp] theorem Dev.updLaunch_issuer : (d.updLaunch c i fl).issuer = d.issuer := rfl
@[simp] theorem Dev.updLaunch_agenda : (d.updLaunch c i fl).agenda = d.agenda := rfl

/-! ## The device with a core changed -/

@[simp] theorem Dev.updCore_powered : (d.updCore i fk).powered = d.powered := rfl
@[simp] theorem Dev.updCore_cc : (d.updCore i fk).cc = d.cc := rfl
@[simp] theorem Dev.updCore_waves : (d.updCore i fk).waves = d.waves := rfl
@[simp] theorem Dev.updCore_tasks : (d.updCore i fk).tasks = d.tasks := rfl
@[simp] theorem Dev.updCore_launches : (d.updCore i fk).launches = d.launches := rfl
@[simp] theorem Dev.updCore_ctxs : (d.updCore i fk).ctxs = d.ctxs := rfl
@[simp] theorem Dev.updCore_cores : (d.updCore i fk).cores = updAt d.cores i fk := rfl
@[simp] theorem Dev.updCore_quads : (d.updCore i fk).quads = d.quads := rfl
@[simp] theorem Dev.updCore_queues : (d.updCore i fk).queues = d.queues := rfl
@[simp] theorem Dev.updCore_tails : (d.updCore i fk).tails = d.tails := rfl
@[simp] theorem Dev.updCore_launchReqs : (d.updCore i fk).launchReqs = d.launchReqs := rfl
@[simp] theorem Dev.updCore_ringWaits : (d.updCore i fk).ringWaits = d.ringWaits := rfl
@[simp] theorem Dev.updCore_vers : (d.updCore i fk).vers = d.vers := rfl
@[simp] theorem Dev.updCore_storeSerial : (d.updCore i fk).storeSerial = d.storeSerial := rfl
@[simp] theorem Dev.updCore_commitSerial : (d.updCore i fk).commitSerial = d.commitSerial := rfl
@[simp] theorem Dev.updCore_openCommits : (d.updCore i fk).openCommits = d.openCommits := rfl
@[simp] theorem Dev.updCore_home : (d.updCore i fk).home = d.home := rfl
@[simp] theorem Dev.updCore_pipeLog : (d.updCore i fk).pipeLog = d.pipeLog := rfl
@[simp] theorem Dev.updCore_pipeNum : (d.updCore i fk).pipeNum = d.pipeNum := rfl
@[simp] theorem Dev.updCore_dirty : (d.updCore i fk).dirty = d.dirty := rfl
@[simp] theorem Dev.updCore_dirs : (d.updCore i fk).dirs = d.dirs := rfl
@[simp] theorem Dev.updCore_fresh : (d.updCore i fk).fresh = d.fresh := rfl
@[simp] theorem Dev.updCore_visitors : (d.updCore i fk).visitors = d.visitors := rfl
@[simp] theorem Dev.updCore_issueNum : (d.updCore i fk).issueNum = d.issueNum := rfl
@[simp] theorem Dev.updCore_bankReqs : (d.updCore i fk).bankReqs = d.bankReqs := rfl
@[simp] theorem Dev.updCore_groupReqs : (d.updCore i fk).groupReqs = d.groupReqs := rfl
@[simp] theorem Dev.updCore_msgReqs : (d.updCore i fk).msgReqs = d.msgReqs := rfl
@[simp] theorem Dev.updCore_deliveries : (d.updCore i fk).deliveries = d.deliveries := rfl
@[simp] theorem Dev.updCore_filters : (d.updCore i fk).filters = d.filters := rfl
@[simp] theorem Dev.updCore_acks : (d.updCore i fk).acks = d.acks := rfl
@[simp] theorem Dev.updCore_invals : (d.updCore i fk).invals = d.invals := rfl
@[simp] theorem Dev.updCore_invalNum : (d.updCore i fk).invalNum = d.invalNum := rfl
@[simp] theorem Dev.updCore_counted : (d.updCore i fk).counted = d.counted := rfl
@[simp] theorem Dev.updCore_watch : (d.updCore i fk).watch = d.watch := rfl
@[simp] theorem Dev.updCore_xcache : (d.updCore i fk).xcache = d.xcache := rfl
@[simp] theorem Dev.updCore_bad : (d.updCore i fk).bad = d.bad := rfl
@[simp] theorem Dev.updCore_meshReq : (d.updCore i fk).meshReq = d.meshReq := rfl
@[simp] theorem Dev.updCore_meshReply : (d.updCore i fk).meshReply = d.meshReply := rfl
@[simp] theorem Dev.updCore_remote : (d.updCore i fk).remote = d.remote := rfl
@[simp] theorem Dev.updCore_ports : (d.updCore i fk).ports = d.ports := rfl
@[simp] theorem Dev.updCore_placeMap : (d.updCore i fk).placeMap = d.placeMap := rfl
@[simp] theorem Dev.updCore_placePending : (d.updCore i fk).placePending = d.placePending := rfl
@[simp] theorem Dev.updCore_toybox : (d.updCore i fk).toybox = d.toybox := rfl
@[simp] theorem Dev.updCore_toyboxPending : (d.updCore i fk).toyboxPending = d.toyboxPending := rfl
@[simp] theorem Dev.updCore_hb : (d.updCore i fk).hb = d.hb := rfl
@[simp] theorem Dev.updCore_hbWas : (d.updCore i fk).hbWas = d.hbWas := rfl
@[simp] theorem Dev.updCore_hbPending : (d.updCore i fk).hbPending = d.hbPending := rfl
@[simp] theorem Dev.updCore_mg : (d.updCore i fk).mg = d.mg := rfl
@[simp] theorem Dev.updCore_gov : (d.updCore i fk).gov = d.gov := rfl
@[simp] theorem Dev.updCore_traps : (d.updCore i fk).traps = d.traps := rfl
@[simp] theorem Dev.updCore_accepted : (d.updCore i fk).accepted = d.accepted := rfl
@[simp] theorem Dev.updCore_preempts : (d.updCore i fk).preempts = d.preempts := rfl
@[simp] theorem Dev.updCore_uid : (d.updCore i fk).uid = d.uid := rfl
@[simp] theorem Dev.updCore_freeCtr : (d.updCore i fk).freeCtr = d.freeCtr := rfl
@[simp] theorem Dev.updCore_issued : (d.updCore i fk).issued = d.issued := rfl
@[simp] theorem Dev.updCore_tried : (d.updCore i fk).tried = d.tried := rfl
@[simp] theorem Dev.updCore_events : (d.updCore i fk).events = d.events := rfl
@[simp] theorem Dev.updCore_issuer : (d.updCore i fk).issuer = d.issuer := rfl
@[simp] theorem Dev.updCore_agenda : (d.updCore i fk).agenda = d.agenda := rfl

/-! ## The device with a quad changed -/

@[simp] theorem Dev.updQuad_powered : (d.updQuad i fq).powered = d.powered := rfl
@[simp] theorem Dev.updQuad_cc : (d.updQuad i fq).cc = d.cc := rfl
@[simp] theorem Dev.updQuad_waves : (d.updQuad i fq).waves = d.waves := rfl
@[simp] theorem Dev.updQuad_tasks : (d.updQuad i fq).tasks = d.tasks := rfl
@[simp] theorem Dev.updQuad_launches : (d.updQuad i fq).launches = d.launches := rfl
@[simp] theorem Dev.updQuad_ctxs : (d.updQuad i fq).ctxs = d.ctxs := rfl
@[simp] theorem Dev.updQuad_cores : (d.updQuad i fq).cores = d.cores := rfl
@[simp] theorem Dev.updQuad_quads : (d.updQuad i fq).quads = updAt d.quads i fq := rfl
@[simp] theorem Dev.updQuad_queues : (d.updQuad i fq).queues = d.queues := rfl
@[simp] theorem Dev.updQuad_tails : (d.updQuad i fq).tails = d.tails := rfl
@[simp] theorem Dev.updQuad_launchReqs : (d.updQuad i fq).launchReqs = d.launchReqs := rfl
@[simp] theorem Dev.updQuad_ringWaits : (d.updQuad i fq).ringWaits = d.ringWaits := rfl
@[simp] theorem Dev.updQuad_vers : (d.updQuad i fq).vers = d.vers := rfl
@[simp] theorem Dev.updQuad_storeSerial : (d.updQuad i fq).storeSerial = d.storeSerial := rfl
@[simp] theorem Dev.updQuad_commitSerial : (d.updQuad i fq).commitSerial = d.commitSerial := rfl
@[simp] theorem Dev.updQuad_openCommits : (d.updQuad i fq).openCommits = d.openCommits := rfl
@[simp] theorem Dev.updQuad_home : (d.updQuad i fq).home = d.home := rfl
@[simp] theorem Dev.updQuad_pipeLog : (d.updQuad i fq).pipeLog = d.pipeLog := rfl
@[simp] theorem Dev.updQuad_pipeNum : (d.updQuad i fq).pipeNum = d.pipeNum := rfl
@[simp] theorem Dev.updQuad_dirty : (d.updQuad i fq).dirty = d.dirty := rfl
@[simp] theorem Dev.updQuad_dirs : (d.updQuad i fq).dirs = d.dirs := rfl
@[simp] theorem Dev.updQuad_fresh : (d.updQuad i fq).fresh = d.fresh := rfl
@[simp] theorem Dev.updQuad_visitors : (d.updQuad i fq).visitors = d.visitors := rfl
@[simp] theorem Dev.updQuad_issueNum : (d.updQuad i fq).issueNum = d.issueNum := rfl
@[simp] theorem Dev.updQuad_bankReqs : (d.updQuad i fq).bankReqs = d.bankReqs := rfl
@[simp] theorem Dev.updQuad_groupReqs : (d.updQuad i fq).groupReqs = d.groupReqs := rfl
@[simp] theorem Dev.updQuad_msgReqs : (d.updQuad i fq).msgReqs = d.msgReqs := rfl
@[simp] theorem Dev.updQuad_deliveries : (d.updQuad i fq).deliveries = d.deliveries := rfl
@[simp] theorem Dev.updQuad_filters : (d.updQuad i fq).filters = d.filters := rfl
@[simp] theorem Dev.updQuad_acks : (d.updQuad i fq).acks = d.acks := rfl
@[simp] theorem Dev.updQuad_invals : (d.updQuad i fq).invals = d.invals := rfl
@[simp] theorem Dev.updQuad_invalNum : (d.updQuad i fq).invalNum = d.invalNum := rfl
@[simp] theorem Dev.updQuad_counted : (d.updQuad i fq).counted = d.counted := rfl
@[simp] theorem Dev.updQuad_watch : (d.updQuad i fq).watch = d.watch := rfl
@[simp] theorem Dev.updQuad_xcache : (d.updQuad i fq).xcache = d.xcache := rfl
@[simp] theorem Dev.updQuad_bad : (d.updQuad i fq).bad = d.bad := rfl
@[simp] theorem Dev.updQuad_meshReq : (d.updQuad i fq).meshReq = d.meshReq := rfl
@[simp] theorem Dev.updQuad_meshReply : (d.updQuad i fq).meshReply = d.meshReply := rfl
@[simp] theorem Dev.updQuad_remote : (d.updQuad i fq).remote = d.remote := rfl
@[simp] theorem Dev.updQuad_ports : (d.updQuad i fq).ports = d.ports := rfl
@[simp] theorem Dev.updQuad_placeMap : (d.updQuad i fq).placeMap = d.placeMap := rfl
@[simp] theorem Dev.updQuad_placePending : (d.updQuad i fq).placePending = d.placePending := rfl
@[simp] theorem Dev.updQuad_toybox : (d.updQuad i fq).toybox = d.toybox := rfl
@[simp] theorem Dev.updQuad_toyboxPending : (d.updQuad i fq).toyboxPending = d.toyboxPending := rfl
@[simp] theorem Dev.updQuad_hb : (d.updQuad i fq).hb = d.hb := rfl
@[simp] theorem Dev.updQuad_hbWas : (d.updQuad i fq).hbWas = d.hbWas := rfl
@[simp] theorem Dev.updQuad_hbPending : (d.updQuad i fq).hbPending = d.hbPending := rfl
@[simp] theorem Dev.updQuad_mg : (d.updQuad i fq).mg = d.mg := rfl
@[simp] theorem Dev.updQuad_gov : (d.updQuad i fq).gov = d.gov := rfl
@[simp] theorem Dev.updQuad_traps : (d.updQuad i fq).traps = d.traps := rfl
@[simp] theorem Dev.updQuad_accepted : (d.updQuad i fq).accepted = d.accepted := rfl
@[simp] theorem Dev.updQuad_preempts : (d.updQuad i fq).preempts = d.preempts := rfl
@[simp] theorem Dev.updQuad_uid : (d.updQuad i fq).uid = d.uid := rfl
@[simp] theorem Dev.updQuad_freeCtr : (d.updQuad i fq).freeCtr = d.freeCtr := rfl
@[simp] theorem Dev.updQuad_issued : (d.updQuad i fq).issued = d.issued := rfl
@[simp] theorem Dev.updQuad_tried : (d.updQuad i fq).tried = d.tried := rfl
@[simp] theorem Dev.updQuad_events : (d.updQuad i fq).events = d.events := rfl
@[simp] theorem Dev.updQuad_issuer : (d.updQuad i fq).issuer = d.issuer := rfl
@[simp] theorem Dev.updQuad_agenda : (d.updQuad i fq).agenda = d.agenda := rfl

/-! ## The device with the management registers changed -/

@[simp] theorem Dev.updMg_powered : (d.updMg fm).powered = d.powered := rfl
@[simp] theorem Dev.updMg_cc : (d.updMg fm).cc = d.cc := rfl
@[simp] theorem Dev.updMg_waves : (d.updMg fm).waves = d.waves := rfl
@[simp] theorem Dev.updMg_tasks : (d.updMg fm).tasks = d.tasks := rfl
@[simp] theorem Dev.updMg_launches : (d.updMg fm).launches = d.launches := rfl
@[simp] theorem Dev.updMg_ctxs : (d.updMg fm).ctxs = d.ctxs := rfl
@[simp] theorem Dev.updMg_cores : (d.updMg fm).cores = d.cores := rfl
@[simp] theorem Dev.updMg_quads : (d.updMg fm).quads = d.quads := rfl
@[simp] theorem Dev.updMg_queues : (d.updMg fm).queues = d.queues := rfl
@[simp] theorem Dev.updMg_tails : (d.updMg fm).tails = d.tails := rfl
@[simp] theorem Dev.updMg_launchReqs : (d.updMg fm).launchReqs = d.launchReqs := rfl
@[simp] theorem Dev.updMg_ringWaits : (d.updMg fm).ringWaits = d.ringWaits := rfl
@[simp] theorem Dev.updMg_vers : (d.updMg fm).vers = d.vers := rfl
@[simp] theorem Dev.updMg_storeSerial : (d.updMg fm).storeSerial = d.storeSerial := rfl
@[simp] theorem Dev.updMg_commitSerial : (d.updMg fm).commitSerial = d.commitSerial := rfl
@[simp] theorem Dev.updMg_openCommits : (d.updMg fm).openCommits = d.openCommits := rfl
@[simp] theorem Dev.updMg_home : (d.updMg fm).home = d.home := rfl
@[simp] theorem Dev.updMg_pipeLog : (d.updMg fm).pipeLog = d.pipeLog := rfl
@[simp] theorem Dev.updMg_pipeNum : (d.updMg fm).pipeNum = d.pipeNum := rfl
@[simp] theorem Dev.updMg_dirty : (d.updMg fm).dirty = d.dirty := rfl
@[simp] theorem Dev.updMg_dirs : (d.updMg fm).dirs = d.dirs := rfl
@[simp] theorem Dev.updMg_fresh : (d.updMg fm).fresh = d.fresh := rfl
@[simp] theorem Dev.updMg_visitors : (d.updMg fm).visitors = d.visitors := rfl
@[simp] theorem Dev.updMg_issueNum : (d.updMg fm).issueNum = d.issueNum := rfl
@[simp] theorem Dev.updMg_bankReqs : (d.updMg fm).bankReqs = d.bankReqs := rfl
@[simp] theorem Dev.updMg_groupReqs : (d.updMg fm).groupReqs = d.groupReqs := rfl
@[simp] theorem Dev.updMg_msgReqs : (d.updMg fm).msgReqs = d.msgReqs := rfl
@[simp] theorem Dev.updMg_deliveries : (d.updMg fm).deliveries = d.deliveries := rfl
@[simp] theorem Dev.updMg_filters : (d.updMg fm).filters = d.filters := rfl
@[simp] theorem Dev.updMg_acks : (d.updMg fm).acks = d.acks := rfl
@[simp] theorem Dev.updMg_invals : (d.updMg fm).invals = d.invals := rfl
@[simp] theorem Dev.updMg_invalNum : (d.updMg fm).invalNum = d.invalNum := rfl
@[simp] theorem Dev.updMg_counted : (d.updMg fm).counted = d.counted := rfl
@[simp] theorem Dev.updMg_watch : (d.updMg fm).watch = d.watch := rfl
@[simp] theorem Dev.updMg_xcache : (d.updMg fm).xcache = d.xcache := rfl
@[simp] theorem Dev.updMg_bad : (d.updMg fm).bad = d.bad := rfl
@[simp] theorem Dev.updMg_meshReq : (d.updMg fm).meshReq = d.meshReq := rfl
@[simp] theorem Dev.updMg_meshReply : (d.updMg fm).meshReply = d.meshReply := rfl
@[simp] theorem Dev.updMg_remote : (d.updMg fm).remote = d.remote := rfl
@[simp] theorem Dev.updMg_ports : (d.updMg fm).ports = d.ports := rfl
@[simp] theorem Dev.updMg_placeMap : (d.updMg fm).placeMap = d.placeMap := rfl
@[simp] theorem Dev.updMg_placePending : (d.updMg fm).placePending = d.placePending := rfl
@[simp] theorem Dev.updMg_toybox : (d.updMg fm).toybox = d.toybox := rfl
@[simp] theorem Dev.updMg_toyboxPending : (d.updMg fm).toyboxPending = d.toyboxPending := rfl
@[simp] theorem Dev.updMg_hb : (d.updMg fm).hb = d.hb := rfl
@[simp] theorem Dev.updMg_hbWas : (d.updMg fm).hbWas = d.hbWas := rfl
@[simp] theorem Dev.updMg_hbPending : (d.updMg fm).hbPending = d.hbPending := rfl
@[simp] theorem Dev.updMg_mg : (d.updMg fm).mg = fm d.mg := rfl
@[simp] theorem Dev.updMg_gov : (d.updMg fm).gov = d.gov := rfl
@[simp] theorem Dev.updMg_traps : (d.updMg fm).traps = d.traps := rfl
@[simp] theorem Dev.updMg_accepted : (d.updMg fm).accepted = d.accepted := rfl
@[simp] theorem Dev.updMg_preempts : (d.updMg fm).preempts = d.preempts := rfl
@[simp] theorem Dev.updMg_uid : (d.updMg fm).uid = d.uid := rfl
@[simp] theorem Dev.updMg_freeCtr : (d.updMg fm).freeCtr = d.freeCtr := rfl
@[simp] theorem Dev.updMg_issued : (d.updMg fm).issued = d.issued := rfl
@[simp] theorem Dev.updMg_tried : (d.updMg fm).tried = d.tried := rfl
@[simp] theorem Dev.updMg_events : (d.updMg fm).events = d.events := rfl
@[simp] theorem Dev.updMg_issuer : (d.updMg fm).issuer = d.issuer := rfl
@[simp] theorem Dev.updMg_agenda : (d.updMg fm).agenda = d.agenda := rfl

/-! ## A wave with a split changed -/

@[simp] theorem Wave.updSplit_uid : (v.updSplit n fs).uid = v.uid := rfl
@[simp] theorem Wave.updSplit_task : (v.updSplit n fs).task = v.task := rfl
@[simp] theorem Wave.updSplit_ctx : (v.updSplit n fs).ctx = v.ctx := rfl
@[simp] theorem Wave.updSplit_launchId : (v.updSplit n fs).launchId = v.launchId := rfl
@[simp] theorem Wave.updSplit_taskIndex : (v.updSplit n fs).taskIndex = v.taskIndex := rfl
@[simp] theorem Wave.updSplit_n : (v.updSplit n fs).n = v.n := rfl
@[simp] theorem Wave.updSplit_role : (v.updSplit n fs).role = v.role := rfl
@[simp] theorem Wave.updSplit_j : (v.updSplit n fs).j = v.j := rfl
@[simp] theorem Wave.updSplit_x : (v.updSplit n fs).x = v.x := rfl
@[simp] theorem Wave.updSplit_y : (v.updSplit n fs).y = v.y := rfl
@[simp] theorem Wave.updSplit_core : (v.updSplit n fs).core = v.core := rfl
@[simp] theorem Wave.updSplit_sched : (v.updSplit n fs).sched = v.sched := rfl
@[simp] theorem Wave.updSplit_slot : (v.updSplit n fs).slot = v.slot := rfl
@[simp] theorem Wave.updSplit_service : (v.updSplit n fs).service = v.service := rfl
@[simp] theorem Wave.updSplit_handler : (v.updSplit n fs).handler = v.handler := rfl
@[simp] theorem Wave.updSplit_residentAt : (v.updSplit n fs).residentAt = v.residentAt := rfl
@[simp] theorem Wave.updSplit_lanes : (v.updSplit n fs).lanes = v.lanes := rfl
@[simp] theorem Wave.updSplit_splits : (v.updSplit n fs).splits = updWhere (fun p => p.num == n) fs v.splits := rfl
@[simp] theorem Wave.updSplit_spilled : (v.updSplit n fs).spilled = v.spilled := rfl
@[simp] theorem Wave.updSplit_spillHead : (v.updSplit n fs).spillHead = v.spillHead := rfl
@[simp] theorem Wave.updSplit_spillCount : (v.updSplit n fs).spillCount = v.spillCount := rfl
@[simp] theorem Wave.updSplit_swapDue : (v.updSplit n fs).swapDue = v.swapDue := rfl
@[simp] theorem Wave.updSplit_swapSplit : (v.updSplit n fs).swapSplit = v.swapSplit := rfl
@[simp] theorem Wave.updSplit_created : (v.updSplit n fs).created = v.created := rfl
@[simp] theorem Wave.updSplit_markCounter : (v.updSplit n fs).markCounter = v.markCounter := rfl
@[simp] theorem Wave.updSplit_levels : (v.updSplit n fs).levels = v.levels := rfl
@[simp] theorem Wave.updSplit_depth : (v.updSplit n fs).depth = v.depth := rfl
@[simp] theorem Wave.updSplit_books : (v.updSplit n fs).books = v.books := rfl
@[simp] theorem Wave.updSplit_oldBooks : (v.updSplit n fs).oldBooks = v.oldBooks := rfl
@[simp] theorem Wave.updSplit_pipes : (v.updSplit n fs).pipes = v.pipes := rfl
@[simp] theorem Wave.updSplit_inboxes : (v.updSplit n fs).inboxes = v.inboxes := rfl
@[simp] theorem Wave.updSplit_tiles : (v.updSplit n fs).tiles = v.tiles := rfl
@[simp] theorem Wave.updSplit_slots : (v.updSplit n fs).slots = v.slots := rfl
@[simp] theorem Wave.updSplit_fpFlags : (v.updSplit n fs).fpFlags = v.fpFlags := rfl
@[simp] theorem Wave.updSplit_fpTrapEn : (v.updSplit n fs).fpTrapEn = v.fpTrapEn := rfl
@[simp] theorem Wave.updSplit_intFlag : (v.updSplit n fs).intFlag = v.intFlag := rfl
@[simp] theorem Wave.updSplit_raisedAt : (v.updSplit n fs).raisedAt = v.raisedAt := rfl
@[simp] theorem Wave.updSplit_gids : (v.updSplit n fs).gids = v.gids := rfl
@[simp] theorem Wave.updSplit_phase : (v.updSplit n fs).phase = v.phase := rfl
@[simp] theorem Wave.updSplit_recs : (v.updSplit n fs).recs = v.recs := rfl
@[simp] theorem Wave.updSplit_recSeq : (v.updSplit n fs).recSeq = v.recSeq := rfl
@[simp] theorem Wave.updSplit_counters : (v.updSplit n fs).counters = v.counters := rfl
@[simp] theorem Wave.updSplit_sampled : (v.updSplit n fs).sampled = v.sampled := rfl
@[simp] theorem Wave.updSplit_freedAt : (v.updSplit n fs).freedAt = v.freedAt := rfl
@[simp] theorem Wave.updSplit_halted : (v.updSplit n fs).halted = v.halted := rfl
@[simp] theorem Wave.updSplit_haltList : (v.updSplit n fs).haltList = v.haltList := rfl
@[simp] theorem Wave.updSplit_haltSites : (v.updSplit n fs).haltSites = v.haltSites := rfl
@[simp] theorem Wave.updSplit_debugHalt : (v.updSplit n fs).debugHalt = v.debugHalt := rfl
@[simp] theorem Wave.updSplit_edited : (v.updSplit n fs).edited = v.edited := rfl
@[simp] theorem Wave.updSplit_homeWatch : (v.updSplit n fs).homeWatch = v.homeWatch := rfl
@[simp] theorem Wave.updSplit_heldTraps : (v.updSplit n fs).heldTraps = v.heldTraps := rfl
@[simp] theorem Wave.updSplit_replaying : (v.updSplit n fs).replaying = v.replaying := rfl
@[simp] theorem Wave.updSplit_exited : (v.updSplit n fs).exited = v.exited := rfl
@[simp] theorem Wave.updSplit_freed : (v.updSplit n fs).freed = v.freed := rfl
@[simp] theorem Wave.updSplit_stopped : (v.updSplit n fs).stopped = v.stopped := rfl
@[simp] theorem Wave.updSplit_awaitsEntry : (v.updSplit n fs).awaitsEntry = v.awaitsEntry := rfl
@[simp] theorem Wave.updSplit_seen : (v.updSplit n fs).seen = v.seen := rfl
@[simp] theorem Wave.updSplit_seenStores : (v.updSplit n fs).seenStores = v.seenStores := rfl
@[simp] theorem Wave.updSplit_knows : (v.updSplit n fs).knows = v.knows := rfl
@[simp] theorem Wave.updSplit_learned : (v.updSplit n fs).learned = v.learned := rfl
@[simp] theorem Wave.updSplit_fenceAt : (v.updSplit n fs).fenceAt = v.fenceAt := rfl

/-! ## A wave with a record entry changed -/

@[simp] theorem Wave.updRec_uid : (v.updRec q fr).uid = v.uid := rfl
@[simp] theorem Wave.updRec_task : (v.updRec q fr).task = v.task := rfl
@[simp] theorem Wave.updRec_ctx : (v.updRec q fr).ctx = v.ctx := rfl
@[simp] theorem Wave.updRec_launchId : (v.updRec q fr).launchId = v.launchId := rfl
@[simp] theorem Wave.updRec_taskIndex : (v.updRec q fr).taskIndex = v.taskIndex := rfl
@[simp] theorem Wave.updRec_n : (v.updRec q fr).n = v.n := rfl
@[simp] theorem Wave.updRec_role : (v.updRec q fr).role = v.role := rfl
@[simp] theorem Wave.updRec_j : (v.updRec q fr).j = v.j := rfl
@[simp] theorem Wave.updRec_x : (v.updRec q fr).x = v.x := rfl
@[simp] theorem Wave.updRec_y : (v.updRec q fr).y = v.y := rfl
@[simp] theorem Wave.updRec_core : (v.updRec q fr).core = v.core := rfl
@[simp] theorem Wave.updRec_sched : (v.updRec q fr).sched = v.sched := rfl
@[simp] theorem Wave.updRec_slot : (v.updRec q fr).slot = v.slot := rfl
@[simp] theorem Wave.updRec_service : (v.updRec q fr).service = v.service := rfl
@[simp] theorem Wave.updRec_handler : (v.updRec q fr).handler = v.handler := rfl
@[simp] theorem Wave.updRec_residentAt : (v.updRec q fr).residentAt = v.residentAt := rfl
@[simp] theorem Wave.updRec_lanes : (v.updRec q fr).lanes = v.lanes := rfl
@[simp] theorem Wave.updRec_splits : (v.updRec q fr).splits = v.splits := rfl
@[simp] theorem Wave.updRec_spilled : (v.updRec q fr).spilled = v.spilled := rfl
@[simp] theorem Wave.updRec_spillHead : (v.updRec q fr).spillHead = v.spillHead := rfl
@[simp] theorem Wave.updRec_spillCount : (v.updRec q fr).spillCount = v.spillCount := rfl
@[simp] theorem Wave.updRec_swapDue : (v.updRec q fr).swapDue = v.swapDue := rfl
@[simp] theorem Wave.updRec_swapSplit : (v.updRec q fr).swapSplit = v.swapSplit := rfl
@[simp] theorem Wave.updRec_created : (v.updRec q fr).created = v.created := rfl
@[simp] theorem Wave.updRec_markCounter : (v.updRec q fr).markCounter = v.markCounter := rfl
@[simp] theorem Wave.updRec_levels : (v.updRec q fr).levels = v.levels := rfl
@[simp] theorem Wave.updRec_depth : (v.updRec q fr).depth = v.depth := rfl
@[simp] theorem Wave.updRec_books : (v.updRec q fr).books = v.books := rfl
@[simp] theorem Wave.updRec_oldBooks : (v.updRec q fr).oldBooks = v.oldBooks := rfl
@[simp] theorem Wave.updRec_pipes : (v.updRec q fr).pipes = v.pipes := rfl
@[simp] theorem Wave.updRec_inboxes : (v.updRec q fr).inboxes = v.inboxes := rfl
@[simp] theorem Wave.updRec_tiles : (v.updRec q fr).tiles = v.tiles := rfl
@[simp] theorem Wave.updRec_slots : (v.updRec q fr).slots = v.slots := rfl
@[simp] theorem Wave.updRec_fpFlags : (v.updRec q fr).fpFlags = v.fpFlags := rfl
@[simp] theorem Wave.updRec_fpTrapEn : (v.updRec q fr).fpTrapEn = v.fpTrapEn := rfl
@[simp] theorem Wave.updRec_intFlag : (v.updRec q fr).intFlag = v.intFlag := rfl
@[simp] theorem Wave.updRec_raisedAt : (v.updRec q fr).raisedAt = v.raisedAt := rfl
@[simp] theorem Wave.updRec_gids : (v.updRec q fr).gids = v.gids := rfl
@[simp] theorem Wave.updRec_phase : (v.updRec q fr).phase = v.phase := rfl
@[simp] theorem Wave.updRec_recs : (v.updRec q fr).recs = updWhere (fun r => r.seq == q) fr v.recs := rfl
@[simp] theorem Wave.updRec_recSeq : (v.updRec q fr).recSeq = v.recSeq := rfl
@[simp] theorem Wave.updRec_counters : (v.updRec q fr).counters = v.counters := rfl
@[simp] theorem Wave.updRec_sampled : (v.updRec q fr).sampled = v.sampled := rfl
@[simp] theorem Wave.updRec_freedAt : (v.updRec q fr).freedAt = v.freedAt := rfl
@[simp] theorem Wave.updRec_halted : (v.updRec q fr).halted = v.halted := rfl
@[simp] theorem Wave.updRec_haltList : (v.updRec q fr).haltList = v.haltList := rfl
@[simp] theorem Wave.updRec_haltSites : (v.updRec q fr).haltSites = v.haltSites := rfl
@[simp] theorem Wave.updRec_debugHalt : (v.updRec q fr).debugHalt = v.debugHalt := rfl
@[simp] theorem Wave.updRec_edited : (v.updRec q fr).edited = v.edited := rfl
@[simp] theorem Wave.updRec_homeWatch : (v.updRec q fr).homeWatch = v.homeWatch := rfl
@[simp] theorem Wave.updRec_heldTraps : (v.updRec q fr).heldTraps = v.heldTraps := rfl
@[simp] theorem Wave.updRec_replaying : (v.updRec q fr).replaying = v.replaying := rfl
@[simp] theorem Wave.updRec_exited : (v.updRec q fr).exited = v.exited := rfl
@[simp] theorem Wave.updRec_freed : (v.updRec q fr).freed = v.freed := rfl
@[simp] theorem Wave.updRec_stopped : (v.updRec q fr).stopped = v.stopped := rfl
@[simp] theorem Wave.updRec_awaitsEntry : (v.updRec q fr).awaitsEntry = v.awaitsEntry := rfl
@[simp] theorem Wave.updRec_seen : (v.updRec q fr).seen = v.seen := rfl
@[simp] theorem Wave.updRec_seenStores : (v.updRec q fr).seenStores = v.seenStores := rfl
@[simp] theorem Wave.updRec_knows : (v.updRec q fr).knows = v.knows := rfl
@[simp] theorem Wave.updRec_learned : (v.updRec q fr).learned = v.learned := rfl
@[simp] theorem Wave.updRec_fenceAt : (v.updRec q fr).fenceAt = v.fenceAt := rfl

/-! ## A wave with a record entry dropped -/

@[simp] theorem Wave.dropRec_uid : (v.dropRec q).uid = v.uid := rfl
@[simp] theorem Wave.dropRec_task : (v.dropRec q).task = v.task := rfl
@[simp] theorem Wave.dropRec_ctx : (v.dropRec q).ctx = v.ctx := rfl
@[simp] theorem Wave.dropRec_launchId : (v.dropRec q).launchId = v.launchId := rfl
@[simp] theorem Wave.dropRec_taskIndex : (v.dropRec q).taskIndex = v.taskIndex := rfl
@[simp] theorem Wave.dropRec_n : (v.dropRec q).n = v.n := rfl
@[simp] theorem Wave.dropRec_role : (v.dropRec q).role = v.role := rfl
@[simp] theorem Wave.dropRec_j : (v.dropRec q).j = v.j := rfl
@[simp] theorem Wave.dropRec_x : (v.dropRec q).x = v.x := rfl
@[simp] theorem Wave.dropRec_y : (v.dropRec q).y = v.y := rfl
@[simp] theorem Wave.dropRec_core : (v.dropRec q).core = v.core := rfl
@[simp] theorem Wave.dropRec_sched : (v.dropRec q).sched = v.sched := rfl
@[simp] theorem Wave.dropRec_slot : (v.dropRec q).slot = v.slot := rfl
@[simp] theorem Wave.dropRec_service : (v.dropRec q).service = v.service := rfl
@[simp] theorem Wave.dropRec_handler : (v.dropRec q).handler = v.handler := rfl
@[simp] theorem Wave.dropRec_residentAt : (v.dropRec q).residentAt = v.residentAt := rfl
@[simp] theorem Wave.dropRec_lanes : (v.dropRec q).lanes = v.lanes := rfl
@[simp] theorem Wave.dropRec_splits : (v.dropRec q).splits = v.splits := rfl
@[simp] theorem Wave.dropRec_spilled : (v.dropRec q).spilled = v.spilled := rfl
@[simp] theorem Wave.dropRec_spillHead : (v.dropRec q).spillHead = v.spillHead := rfl
@[simp] theorem Wave.dropRec_spillCount : (v.dropRec q).spillCount = v.spillCount := rfl
@[simp] theorem Wave.dropRec_swapDue : (v.dropRec q).swapDue = v.swapDue := rfl
@[simp] theorem Wave.dropRec_swapSplit : (v.dropRec q).swapSplit = v.swapSplit := rfl
@[simp] theorem Wave.dropRec_created : (v.dropRec q).created = v.created := rfl
@[simp] theorem Wave.dropRec_markCounter : (v.dropRec q).markCounter = v.markCounter := rfl
@[simp] theorem Wave.dropRec_levels : (v.dropRec q).levels = v.levels := rfl
@[simp] theorem Wave.dropRec_depth : (v.dropRec q).depth = v.depth := rfl
@[simp] theorem Wave.dropRec_books : (v.dropRec q).books = v.books := rfl
@[simp] theorem Wave.dropRec_oldBooks : (v.dropRec q).oldBooks = v.oldBooks := rfl
@[simp] theorem Wave.dropRec_pipes : (v.dropRec q).pipes = v.pipes := rfl
@[simp] theorem Wave.dropRec_inboxes : (v.dropRec q).inboxes = v.inboxes := rfl
@[simp] theorem Wave.dropRec_tiles : (v.dropRec q).tiles = v.tiles := rfl
@[simp] theorem Wave.dropRec_slots : (v.dropRec q).slots = v.slots := rfl
@[simp] theorem Wave.dropRec_fpFlags : (v.dropRec q).fpFlags = v.fpFlags := rfl
@[simp] theorem Wave.dropRec_fpTrapEn : (v.dropRec q).fpTrapEn = v.fpTrapEn := rfl
@[simp] theorem Wave.dropRec_intFlag : (v.dropRec q).intFlag = v.intFlag := rfl
@[simp] theorem Wave.dropRec_raisedAt : (v.dropRec q).raisedAt = v.raisedAt := rfl
@[simp] theorem Wave.dropRec_gids : (v.dropRec q).gids = v.gids := rfl
@[simp] theorem Wave.dropRec_phase : (v.dropRec q).phase = v.phase := rfl
@[simp] theorem Wave.dropRec_recs : (v.dropRec q).recs = v.recs.filter (fun r => r.seq != q) := rfl
@[simp] theorem Wave.dropRec_recSeq : (v.dropRec q).recSeq = v.recSeq := rfl
@[simp] theorem Wave.dropRec_counters : (v.dropRec q).counters = v.counters := rfl
@[simp] theorem Wave.dropRec_sampled : (v.dropRec q).sampled = v.sampled := rfl
@[simp] theorem Wave.dropRec_freedAt : (v.dropRec q).freedAt = v.freedAt := rfl
@[simp] theorem Wave.dropRec_halted : (v.dropRec q).halted = v.halted := rfl
@[simp] theorem Wave.dropRec_haltList : (v.dropRec q).haltList = v.haltList := rfl
@[simp] theorem Wave.dropRec_haltSites : (v.dropRec q).haltSites = v.haltSites := rfl
@[simp] theorem Wave.dropRec_debugHalt : (v.dropRec q).debugHalt = v.debugHalt := rfl
@[simp] theorem Wave.dropRec_edited : (v.dropRec q).edited = v.edited := rfl
@[simp] theorem Wave.dropRec_homeWatch : (v.dropRec q).homeWatch = v.homeWatch := rfl
@[simp] theorem Wave.dropRec_heldTraps : (v.dropRec q).heldTraps = v.heldTraps := rfl
@[simp] theorem Wave.dropRec_replaying : (v.dropRec q).replaying = v.replaying := rfl
@[simp] theorem Wave.dropRec_exited : (v.dropRec q).exited = v.exited := rfl
@[simp] theorem Wave.dropRec_freed : (v.dropRec q).freed = v.freed := rfl
@[simp] theorem Wave.dropRec_stopped : (v.dropRec q).stopped = v.stopped := rfl
@[simp] theorem Wave.dropRec_awaitsEntry : (v.dropRec q).awaitsEntry = v.awaitsEntry := rfl
@[simp] theorem Wave.dropRec_seen : (v.dropRec q).seen = v.seen := rfl
@[simp] theorem Wave.dropRec_seenStores : (v.dropRec q).seenStores = v.seenStores := rfl
@[simp] theorem Wave.dropRec_knows : (v.dropRec q).knows = v.knows := rfl
@[simp] theorem Wave.dropRec_learned : (v.dropRec q).learned = v.learned := rfl
@[simp] theorem Wave.dropRec_fenceAt : (v.dropRec q).fenceAt = v.fenceAt := rfl

/-! ## A step in progress -/

@[simp] theorem Work.upd_d : (w.upd f).d = f w.d := rfl
@[simp] theorem Work.upd_m : (w.upd f).m = w.m := rfl
@[simp] theorem Work.upd_ws : (w.upd f).ws = w.ws := rfl
@[simp] theorem Work.put_d : (w.put a b).d = w.d := rfl
@[simp] theorem Work.after_dev : (w.after s).dev = w.d := rfl
@[simp] theorem Work.after_mem : (w.after s).mem = s.mem.writeAll w.ws := rfl
@[simp] theorem State.work_d : s.work.d = s.dev := rfl
@[simp] theorem State.work_ws : s.work.ws = [] := rfl

end Sys2Proof.Machine
end

