-- ==== Sys2Proof/Machine/Reads.lean ====
section
/-! DEFINITION. What the registers of BAR0 read as (R10, R26, R383, R445 to R449). Reading changes nothing, but for MG_REJECT,
which has a step of its own. -/

namespace Sys2Proof.Machine

/-- R10, R445: what a register reads as whose `n` bits from `lo` are only written: those bits are free, the reserved ones zero
(log 56). -/
def readback (o lo n : Nat) : Word := BitVec.ofNat 64 (bits (Config.readback o) lo n * 2 ^ lo)

/-- R446: the identity and management region. -/
def mgRead (d : Dev) (o : Nat) : Word :=
  let num (n : Nat) : Word := BitVec.ofNat 64 n
  if o = 0x000 then num (0x1F6A * 2 ^ 48 + 0x00C8 * 2 ^ 32 + 0x0200)
  else if o = 0x008 then num (if d.mg.c8m then 1 else 0)
  else if o = 0x010 then statusReg d
  else if o = 0x018 then num (match d.mg.reject with
    | some a => 2 ^ 63 + a % 2 ^ 32
    | none => 0)
  else if o = 0x020 then num d.mg.ceCount
  else if o = 0x028 then num d.mg.ueCount
  else if o = 0x030 then num d.mg.drains
  else if o = 0x038 then num d.mg.reasm
  else if o = 0x040 then wordOf (positionPresent d)
  else if o = 0x048 then num d.mg.power
  else if o = 0x050 then num d.mg.temp
  else if o = 0x058 then num (match d.mg.recMode with
    | .off => 0
    | .record => 1
    | .replay => 2)
  else if o = 0x060 then d.mg.recBase
  else if o = 0x068 then wordOf (fun i => decide (i < 8) && positionPresent d (64 + i))
  else if o = 0x080 then d.mg.mbCmd
  else if 0x088 ≤ o ∧ o < 0x100 ∧ o % 8 = 0 then d.mg.mbData.getD ((o - 0x088) / 8) 0
  else if o = 0x100 then readback 0x100 0 1
  else 0

/-- R383: a launch queue. -/
def queueRead (d : Dev) (o : Nat) : Word :=
  match d.queues[(o - 0x00010000) / 32]? with
  | none => 0
  | some q => match o % 32 with
    | 0 => q.q0
    | 8 => q.q1
    | 16 => BitVec.ofNat 64 q.head
    | 24 => BitVec.ofNat 64 q.tail
    | _ => 0

/-- R447: the device configuration: the values in force. -/
def configRead (d : Dev) (o : Nat) : Word :=
  if o = 0x00 then BitVec.ofNat 64 d.toybox
  else if o = 0x08 then BitVec.ofNat 64 d.hb.logP
  else if o = 0x10 then BitVec.ofNat 64 (d.hb.pkgNumber + if d.hb.domRunning then 2 ^ 63 else 0)
  else if o = 0x18 then readback 0x00020018 0 16
  else if 0x20 ≤ o ∧ o < 0x60 ∧ o % 8 = 0 then
    BitVec.ofNat 64 ((enum (d.placeMap.getD ((o - 0x20) / 8) [])).foldl (fun n pe => n + pe.2 % 32 * 2 ^ (5 * pe.1)) 0)
  else 0

/-- R448: a register of the context a block names. -/
def ctxRead (d : Dev) (c : Ctx) (o : Nat) : Word :=
  let num (n : Nat) : Word := BitVec.ofNat 64 n
  if o = 0x000 then num c.id
  else if o = 0x008 then c.nqBase
  else if o = 0x010 then num c.nqHead
  else if o = 0x018 then num c.nqTail
  else if o = 0x020 then num c.nqLost
  else if o = 0x028 then readback (blockOffset c.block + o) 0 48
  else if o = 0x090 then readback (blockOffset c.block + o) 3 54
  else if o = 0x030 then c.policy.setWidth 64
  else if o = 0x038 then c.abase
  else if o = 0x040 then num c.acThr
  else if o = 0x048 then c.stBase
  else if o = 0x050 then c.stSize
  else if o = 0x058 then num c.stCount
  else if o = 0x060 then c.trCtl
  else if o = 0x068 then num c.trCount
  else if o = 0x070 then num (if c.debug then 1 else 0)
  else if o = 0x078 then num c.trSize
  else if o = 0x080 then
    num ((if c.hold then 1 else 0) + if hasSaved d c.id then 2 else 0)
  else if o = 0x088 then num c.relocId
  else if 0x100 ≤ o ∧ o < 0x180 ∧ o % 8 = 0 then c.brk.getD ((o - 0x100) / 8) 0
  else if 0x180 ≤ o ∧ o < 0x200 ∧ o % 8 = 0 then
    let p := c.hwatch.getD ((o - 0x180) / 16) (0, 0)
    if o % 16 = 8 then p.2 else p.1
  else if 0x800 ≤ o ∧ o < 0x1000 ∧ o % 8 = 0 then c.marion.getD ((o - 0x800) / 8) 0
  else 0

/-- R428, R449: a register of a core. -/
def coreRead (c : Core) (o : Nat) : Word :=
  if o < 0x40 ∧ o % 4 = 0 then ((c.pmcs[o / 4]?).map Pmc.cfg).getD 0 |>.setWidth 64
  else if o = 0x40 then readback (0x00200000 + o) 0 8
  else if 0x80 ≤ o ∧ o < 0xC0 ∧ o % 8 = 0 then
    let p := c.watch.getD ((o - 0x80) / 16) (0, 0)
    if o % 16 = 8 then p.2 else p.1
  else 0

/-- R26, R438, R445: what a read of the physical function's BAR0 returns: zero where nothing decodes, and in the load window; in the
safe state, zero outside the management region. -/
def physRead (firmware : Bool) (d : Dev) (o : Nat) : Word :=
  if o < 0x1000 then mgRead d o
  else if d.mg.safe then 0
  else if 0x00010000 ≤ o ∧ o < 0x00010800 then queueRead d o
  else if 0x00020000 ≤ o ∧ o < 0x00020100 then (if firmware then (configRead d (o - 0x00020000)) else 0)
  else if 0x00100000 ≤ o ∧ o < 0x00200000 then
    match blockCtx d ((o - 0x00100000) / 0x1000) with
    | some c => ctxRead d c (o % 0x1000)
    | none => 0
  else if 0x00200000 ≤ o ∧ o < 0x00212000 then coreRead (d.core ((o - 0x00200000) / 0x100)) (o % 0x100)
  else 0

/-- R26, R364, R445: what a read of BAR0 returns, by firmware or by the host through a function. -/
def mmioRead (master : Master) (d : Dev) (o : Nat) : Word := match master with
  | .firmware => physRead true d o
  | .function 0 => physRead false d o
  | .function n => ((functionOffset d n o).map (physRead false d)).getD 0

end Sys2Proof.Machine
end

