-- ==== Sys2Proof/Machine/Records.lean ====
section
/-! DEFINITION. The layouts of the records that hold waves and tasks outside their registers: the split table and the spilled
splits (R375, R376), the header of a call-stack level (R222), the in-flight record (R390), the flits of the meshes (R348), the directory (R389), and a task's
image (R412, R413). No instruction reads them where they lie: private offsets name the lane stacks alone (R233), and an image
is read by the device that wrote it (log 53). -/

namespace Sys2Proof.Machine

/-- A field of `w` bits from bit `lo` up. -/
def field (v lo w : Nat) : Nat := v % 2 ^ w * 2 ^ lo

/-- A flag at a bit. -/
def flag (b : Bool) (i : Nat) : Nat := if b then 2 ^ i else 0

/-- The sum of the fields of a dword. -/
def dword (fs : List Nat) : Word := BitVec.ofNat 64 fs.sum

/-- Bits [56:3] of a PC, in their place. -/
def pcBits (pc : VAddr) : Nat := field (pc.toNat / 8) 3 54

/-! ## The split table (R375, R376) -/

/-- R375: E0 to E2, the issue entry of a loaded split. -/
def issueEntry (v : Wave) (p : Split) : List Word :=
  [dword [flag p.loaded 63, field v.slot 60 3, field p.num 55 5, field p.ageing 47 8], dword [pcBits p.pc],
   dword [field p.home.toNat 32 32, field p.emask.toNat 0 32]]

/-- R375: mark level i: its identifier, depth and push count. -/
def markLevel (k : Mark) : Nat := field k.id 15 8 + field k.depth 8 7 + field (BitVec.ofInt 8 k.count).toNat 0 8

/-- R375: the levels of a mark stack, the oldest in the lowest bits. -/
def markBits (ks : List Mark) : Nat := (enum ks).foldl (fun n ik => n + field (markLevel ik.2) (24 * ik.1) 24) 0

/-- R375: M0 to M5, the mark record of a split. The mark stack of the model has its top level first. -/
def markRecord (p : Split) : List Word :=
  let ks := markBits p.marks.reverse
  [dword [flag true 63, field p.depth 56 7, field p.marks.length 52 4, flag p.arrived 51, field p.sleep 34 17],
   dword [pcBits p.rejoinAt], dword [field p.calliRem.toNat 0 32],
   dword [ks % 2 ^ 64], dword [ks / 2 ^ 64 % 2 ^ 64], dword [ks / 2 ^ 128 % 2 ^ 64]]

/-- R376: D0 to D3, the record of a spilled split. -/
def spillRecord (p : Split) : List Word :=
  [dword [pcBits p.pc], dword [field p.home.toNat 32 32, field p.emask.toNat 0 32], dword [field p.num 0 5], 0]

/-- R376: the first eight bytes of record 0, the header of the stack: the head index and the tail index. -/
def spillHeader (v : Wave) : Word := dword [field v.spillHead 0 8,
  field (if v.spillHead = 0 then 0 else (v.spillHead - 1 + v.spilled.length) % 31 + 1) 8 8]

/-! ## Flits (R348) -/

/-- R348: the 48-bit header of a flit. -/
def flitHeader (f : Flit) : Nat :=
  field f.dx 43 5 + field f.dy 39 4 + field f.src 30 9 + field (min 4095 f.age) 18 12 + field f.pkt 10 8 + field f.idx 7 3 +
  field f.cnt 4 3 + flag f.br 3

/-- R348: the bits of a flit on its mesh: the header above the payload. -/
def flitBits (m : Mesh) (f : Flit) : Nat := flitHeader f * 256 ^ payloadBytes m + ofBytes f.payload % 256 ^ payloadBytes m

/-- R348: the payload of a reply flit: a 64-byte sector and the 2-byte tag of its request (log 62). -/
def replyPayload (sector : List Byte) (tag : Nat) : List Byte := sector.take 64 ++ toBytes 2 tag

/-! ## The call stack (R222) -/

/-- R222: the 64 bytes of a call-stack level's header. -/
def callHeader (c : CallLevel) : List Byte :=
  toBytes 8 c.retPc.toNat ++ toBytes 4 c.emask.toNat ++ toBytes 4 c.home.toNat ++
  toBytes 4 (field c.marks 0 8 + field (c.m.getD 0xFF) 8 8) ++ toBytes 4 c.rem.toNat ++ List.replicate 40 0

/-! ## The in-flight record (R390) -/

/-- R390: a target in the task's own quads: the rectangle position x + 12y, and the offset or unit index. -/
def quadTarget (pos off : Nat) : Nat := field pos 48 9 + field off 0 48

/-- R390, R422: the resolved target of an entry of a wave: a virtual address, a unit of the task's own quads, or a copy's handle. -/
def resolved (v : Wave) (r : Rec) : Nat := match r.op with
  | .copy _ h => h
  | .post ring _ _ => quadTarget v.place ring
  | .sig buf _ | .pop buf _ => quadTarget v.place buf
  | .send core _ => quadTarget (core / 4) (core % 4)
  | .launch a | .ptset a _ _ _ _ | .tlbinv a _ _ | .pgcnt a _ | .discard a _ | .wback a _ | .inval a _ => a.toNat
  | _ => match r.accesses.head? with
    | none => 0
    | some a => match a.target with
      | .virt x => x.toNat
      | .quad pos off => quadTarget pos off
      | .priv off => field off 0 48

/-- R390: the group reference of an entry, the arrival bit and the generation recorded with it. -/
def groupBits (v : Wave) (r : Rec) : Nat := match r.op with
  | .arrival k gen => field k 37 3 + flag true 36 + field gen 28 8
  | .gset k _ _ _ | .gget k _ =>
    field k 37 3 + (match v.gids[k]? with
      | some g => flag g.arr 36 + field g.gen 28 8
      | none => 0)
  | _ => 0

/-- R390, R413: W0 to W3 of an entry, its PC relative to a code base. -/
def recordEntry (v : Wave) (base : VAddr) (r : Rec) : List Word :=
  [dword [flag true 63, field r.cls 61 2, field r.kind 57 4, field (resolved v r) 0 57],
   dword [field r.seq 48 16, field r.split 43 5, field (r.inbox.getD 0) 41 2, flag r.inbox.isSome 40, groupBits v r],
   dword [field r.lanes.toNat 0 32], dword [pcBits (r.pc - base)]]

/-! ## The directory (R389) -/

/-- R266, R389: the generation of a version line: the parity of the boundaries its core started before its store. -/
def generation (d : Dev) (v : VerByte) : Nat := ((d.core v.core).started - (if committing d v.core v.at_ then 1 else 0)) % 2

/-- R389: the entry of a home line, with the version that stands on it. -/
def dirEntry (d : Dev) (x : Dir) (ver : Option VerByte) : Word := match ver with
  | some v => dword [field x.presence.toNat 32 8, flag true 31, field v.core 22 9, field (generation d v) 21 1, field v.ctx 0 16]
  | none => dword [field x.presence.toNat 32 8]

/-! ## The image (R412, R413) -/

/-- Bytes of a section filled up with zeros to `n`. -/
def padded (n : Nat) (bs : List Byte) : List Byte := bs ++ List.replicate (n - bs.length) 0

/-- The bytes of some dwords. -/
def dwordBytes (ws : List Word) : List Byte := ws.flatMap wordBytes

/-- R412: the index of a section: of each instance, the 256-byte unit in which it begins. A section of one instance has none. -/
def indexBytes (us : List Nat) : List Byte :=
  if us.length ≤ 1 then []
  else
    let n := units256 (4 * us.length)
    padded (256 * n) ((List.range us.length).flatMap (fun i => toBytes 4 (n + (us.take i).sum)))

/-- R390, R412: the value of an entry in an image: of a pending one, the index of its record entry. -/
def imageValue (v : Wave) (e : Entry) : Word := match e.pend with
  | .bound seq _ => BitVec.ofNat 64 (v.recs.takeWhile (fun r => r.seq != seq)).length
  | _ => e.val

/-- R412: the byte of a queue entry or frame slot in a wave-operands instance. -/
def operandByte (e : Entry) : Byte := BitVec.ofNat 8 (flag (match e.pend with
  | .bound _ _ => true
  | _ => false) 4 + (tyCode e.tag).toNat)

/-- R412: some entries of a wave: a byte for each, then the value of each that is not EMPTY. -/
def operandsBytes (v : Wave) : List Byte :=
  let es := v.lanes.flatMap (fun l => l.q ++ l.f)
  es.map operandByte ++ dwordBytes ((es.filter (fun e => e.tag != .empty)).map (imageValue v))

/-- R97, R412: a level of the call shadow: the values of its 32 lanes, their tags, and its header. -/
def levelBytes (v : Wave) (c : CallLevel) : List Byte :=
  let es := c.queues.flatten
  dwordBytes (es.map (imageValue v)) ++ es.map operandByte ++ callHeader c

/-- R412: an inbox slot: its 32 lane values, and their tags. A reserved slot that is not filled has bit 4 of each tag set. -/
def inboxBytes (s : InSlot) : List Byte := match s.fill with
  | some xs => dwordBytes (xs.map Prod.fst) ++ xs.map (fun x => BitVec.ofNat 8 (tyCode x.2).toNat)
  | none => List.replicate 256 0 ++ List.replicate 32 (BitVec.ofNat 8 (2 ^ 4))

/-- R412: the in-flight record of a wave: 24 entries, and the payload. -/
def recordBytes (v : Wave) (base : VAddr) : List Byte :=
  padded 768 (dwordBytes (v.recs.flatMap (recordEntry v base))) ++ dwordBytes (v.recs.flatMap payloadDwords)

/-- R412: a tile: its image, and a trailer of E, row progress and overflow flags (log 53). -/
def tileBytes (t : Tile) (canonical : Bool) : List Byte :=
  let flags := (enum t.elems).foldl (fun n e => n + flag e.2.ovf e.1) 0
  imageOf t canonical ++ padded 256 (toBytes 2 (BitVec.ofInt 16 t.anchor).toNat ++ toBytes 2 t.progress ++ toBytes 128 flags)

/-- R372, R412: the group arrivals of a wave: of each reference its arrival bit and its generation (log 53). -/
def arrivalBytes (v : Wave) : List Byte :=
  padded 64 (dwordBytes (v.gids.map (fun g => dword [flag g.arr 8, field g.gen 0 8])))

/-- R375, R412: the control state of a wave, in the order in which R412 names it (log 53). -/
def waveControl (v : Wave) : List Byte :=
  let preds := (List.range 7).map (fun i => BitVec.ofNat 64 (maskOf ((List.range 32).filter (fun l =>
    (((v.lane l).p[i]?).map Pred.val).getD false))).toNat)
  let halt := v.haltList.map (fun h => dword [field h.1 0 5, field h.2 8 8])
  padded 4096 (dwordBytes (
    v.splits.flatMap (fun p => issueEntry v p ++ markRecord p) ++ preds ++ v.inboxes.map (fun q => dword [field q.length 0 4]) ++
    v.books.flatMap (fun b => (List.range 4).map (fun i => b.extractLsb' (64 * i) 64)) ++
    [dword [field v.fpFlags.toNat 0 5, field v.fpTrapEn.toNat 8 5, flag v.intFlag 16]] ++
    v.gids.map (fun g => dword [flag g.member 63, field g.entry 0 16]) ++
    [dword [field (match v.role with
      | .v => 0 | .m => 1 | .c => 2) 0 2, field v.depth 8 8, field v.markCounter 16 8],
     dword [field v.phase 0 32, field v.recSeq 32 16], BitVec.ofNat 64 v.counters.safePoints, BitVec.ofNat 64 v.counters.resident,
     BitVec.ofNat 64 v.counters.issued] ++ v.counters.stall.map (BitVec.ofNat 64) ++ [dword [flag v.halted 0]] ++ halt))

/-- R177, R412: the matrix engine of a core of a task: gang register, rendezvous latch and operation slots (log 53). -/
def engineBytes (c : TaskCore) (slots : List OpSlot) : List Byte :=
  let kind (o : OpSlot) : Nat := match o.kind with
    | .mma => 0 | .mmas => 1 | .astr => 2 | .ald => 3
  padded 512 (dwordBytes ([dword [field c.gang 0 16, field c.latch.length 16 3]] ++
    c.latch.flatMap (fun a => [dword [field a.wave 0 16, field a.set 16 16], a.b, a.operand]) ++
    slots.flatMap (fun o => [dword [flag true 63, field (kind o) 60 2, field o.gang 16 16, field o.tile 0 3], o.a, o.b, o.operand])))

/-- R313, R412: the shape, slot map and counters of a buffer. -/
def bufferWords (b : Buf) : List Word :=
  [dword [flag b.bound 63, field b.slotBytes 0 32], dword [field b.base 0 32, field b.count 32 9],
   dword [field b.head 0 9, field b.write 9 9, field b.filled 18 9, field b.free 27 9]] ++
  (List.range b.count).map (fun i => dword [field (b.map.getD i 0) 0 9, flag (b.taken.getD i false) 9, flag (b.published.getD i false) 10,
    field (b.offsets.getD i 0) 16 32])

/-- R343, R412: a queued or running chain. -/
def chainWordsOf (c : Chain) : List Word :=
  [dword [field c.head 0 32, field c.entry 32 32], dword [field c.seq 0 32, field c.rec_ 32 16], dword [field c.moved 0 32, field c.step 32 16],
   BitVec.ofInt 64 c.os, BitVec.ofInt 64 c.od] ++ c.loops.map (fun l => dword [field l.entry 0 32, field l.count 32 16, field l.total 48 16])

/-- R341, R412: a message of a core's queue. -/
def messageWords (m : Msg) : List Word :=
  [dword [field m.sender 0 16, field m.lane 16 5, field m.handler 24 8, field m.payload.length 32 4], dword [pcBits m.pc]] ++ m.payload.map Prod.fst

/-- R412: what a task holds in a quad of its rectangle: the share, then 64 KiB of the state of its units (log 53). -/
def quadBytes (w : Work) (t : Task) (pos : Nat) (q : TaskQuad) : List Byte :=
  let here (core : Nat) : Bool := core / 4 == pos
  let filters := w.d.filters.filter (fun f => f.unit == .bufUnit t.uid pos || (match f.unit with
    | .receiver u core => u == t.uid && here core
    | _ => false))
  w.bytes (kShare t.uid pos 0) q.share ++
  padded 65536 (dwordBytes (
    q.bufs.flatMap bufferWords ++ q.rings.flatMap (fun r => r.slots.map (fun s => dword [flag s.1 32, s.2.toNat])) ++
    q.descs.flatMap (fun x => x.2.getD (List.replicate 16 0)) ++
    (t.chains.filter (fun c => c.2.pos == pos)).flatMap (fun c => chainWordsOf c.2) ++
    (t.msgs.filter (fun m => here m.1)).flatMap (fun m => messageWords m.2) ++
    filters.flatMap (fun f => [dword [field f.launchId 0 32, field f.step 32 16, field f.lane 48 5], BitVec.ofNat 64 f.tag] ++ f.result)) ++
    (t.packets.filter (fun x => here x.1)).flatMap (fun x => x.2.flatMap (fun f => f.payload)))

/-- R412: the offsets of the nine sections in 256-byte units. -/
def sectionOffsets (sizes : List Nat) : List Nat := (List.range 9).map (fun k => 1 + (sizes.take k).sum)

/-- R413: H0 to H12 of a saved task. -/
def headerDwords (d : Dev) (t : Task) (i : Image) : List Word :=
  let (w, h) := match d.launch t.ctx t.launchId with
    | some l => (l.w, l.h)
    | none => (0, 0)
  [dword [field 2 48 16, field t.ctx 32 16, field t.launchId 0 32],
   dword [field t.index 48 16, field w 44 4, field h 40 4, field i.policy.toNat 36 2, flag i.edited 32, field i.size 0 32],
   dword [field i.codeBase.toNat 0 57], BitVec.ofNat 64 i.tick] ++
  (sectionOffsets (sectionSizes d t (i.policy.getLsbD 0))).map (BitVec.ofNat 64)

end Sys2Proof.Machine
end

