-- ==== Sys2Proof/Tests/Slice0.lean ====
section
/-! SUPPORT. Tests. Words written out from the encodings of spec/03; terms the well-formedness checks refuse; worked examples
of the spec; and for every statement with hypotheses, states and operands that meet them together. -/

namespace Sys2Proof.Tests

open Sys2Proof.Machine

set_option Elab.async false

/-! ## Small states -/

/-- An unguarded form that reads q1, q2 and q3 and pushes. -/
def fm (t : Ty) : Form :=
  { guard := { inv := false, p := 7 }, ds := .push, fd := 0, sa := .age 0, sb := .age 1, sc := .age 2, packed := false,
    ty := t, st := false, modw := none, imm := none, x13 := 0 }

/-- A form that reads q1 and q2, or q1 alone, and one that reads no source; and the same with no result. -/
def f2 (t : Ty) : Form := { fm t with sc := .age 0 }
def f1 (t : Ty) : Form := { fm t with sb := .age 0, sc := .age 0 }
def n1 (t : Ty) : Form := { f1 t with ds := .discard }
def n2 (t : Ty) : Form := { f2 t with ds := .discard }
def n3 (t : Ty) : Form := { fm t with ds := .discard }

/-- A step's device, memory, issuing wave and split, and the waves beside it. -/
structure Setup where
  d : Dev
  m : Memory
  v : Wave
  p : Split
  more : List Wave := []

/-- The state of a setup: the wave is the device's first one, and the split its only one, which issues. -/
def Setup.wave (u : Setup) : Wave := { u.v with splits := [u.p] }
def Setup.state (u : Setup) : State :=
  { dev := { u.d with waves := u.wave :: u.more, issuer := some (u.v.uid, u.p.num) }, mem := u.m }

/-- The issue of an instruction. -/
def Setup.issue (u : Setup) (i : Instr) : Iss :=
  { w := u.state.work, v := u.wave, p := u.p, i, g := (formSpec i).getD { major := 0, fn := 0 }, f := (formOf i).getD (fm .empty)
    lanes := maskOf (activeLanes u.wave u.p ((formOf i).getD (fm .empty))) }

/-- The checks of an issue: whether an encoded instruction's units are free, and those of R83. -/
def Setup.tries (u : Setup) (i : Instr) : Bool := (formSpec i).any (fun g => unitFree u.state.dev u.wave g == .free) && (formOf i).isSome
def Setup.ok (u : Setup) (i : Instr) : Bool :=
  let x := u.issue i
  u.tries i && formOk x.g i x.f && !(x.f.st && x.p.stage == .idle && x.v.homeWatch.isSome) && roleOk x.v.role i x.g

/-- An encoded instruction whose units are free is tried. -/
theorem att {u : Setup} {i : Instr} (h : u.tries i = true := by decide +kernel) : Attempts u.state i (u.issue i) := by
  simp only [Setup.tries, Bool.and_eq_true, Option.any_eq_true, beq_iff_eq, Option.isSome_iff_exists] at h
  obtain ⟨⟨g, hg, hu⟩, f, hf⟩ := h
  refine ⟨rfl, ?_, ?_, ?_, ?_, rfl, rfl, rfl, ?_⟩ <;> simp [Setup.issue, Setup.state, Setup.wave, Dev.wave, Wave.split, hg, hf]
  exact hu

/-- An instruction that passes the checks issues. -/
theorem iss {u : Setup} {i : Instr} (h : u.ok i = true := by decide +kernel) : Issues u.state i (u.issue i) := by
  simp only [Setup.ok, Bool.and_eq_true, Bool.not_eq_true'] at h
  exact ⟨att h.1.1.1, h.1.1.2, h.1.2, h.2⟩

/-- What the kernel evaluates. -/
theorem dk {p : Prop} [Decidable p] (h : decide p = true := by decide +kernel) : p := of_decide_eq_true h

theorem rd {x : Iss} {ls : List Nat} {accs : List (List Ty)} (h : (x.gate ls accs == .ready) = true := by decide +kernel) :
    x.Readable ls accs := eq_of_beq h

theorem gd {x : Iss} (h : guardPending x.cc x.v x.p x.f = false := by decide +kernel) : x.GuardReady := h

theorem pr {x : Iss} {ks : List Nat} (h : x.active.any (fun l => ks.any (predPending x.cc (x.v.lane l))) = false := by decide +kernel) :
    x.PredsReady ks := h

/-- Where no trap is enabled, no flag traps. -/
theorem noTrap {x : Iss} {fl : Fl} (h : x.v.fpTrapEn = 0) : fl &&& x.v.fpTrapEn = 0 := by rw [h]; simp

theorem nth {α : Type} {l : List α} {a : α} (k : Nat) (h : l[k]? = some a) : a ∈ l := List.mem_of_getElem? h

/-- A queue of some values, youngest first. -/
def queue (es : List (Nat × Ty)) : List Entry :=
  (es.map (fun e => ({ val := BitVec.ofNat 64 e.1, tag := e.2, pend := .clear } : Entry)) ++ List.replicate 16 Entry.empty).take 16

/-- The hand-placed wave (log 2), a matrix wave or not, with lane 0 alone active and these values in its queue. -/
def one (m : Bool) (es : List (Nat × Ty)) : Setup :=
  let d := handDev Dev.reset m
  let v := d.waves.headD (newWave d (Launch.fresh 1 1 0 []) (newTask (Launch.fresh 1 1 0 []) 0 0 0) 0 0 0 0)
  { d := { d with agenda := [] }, m := Memory.empty
    v := { v with lanes := List.replicate 32 { Lane.reset with q := queue es } }
    p := { Split.first 0x10000 1 with readyAt := 0 } }

/-! ## Arithmetic, predicates, the queue and lanes: what their statements assume can be met -/

theorem test_NopOnlyAdvances : Issues (one false []).state (.nop { n1 .empty with ty := .empty })
    ((one false []).issue (.nop { n1 .empty with ty := .empty })) := iss

theorem test_IntegerFormsDeliver : ∃ s i f x op lat, (i, op, lat) ∈ exactForms f.ty f ∧ Issues s i x ∧
    x.Readable x.active (List.replicate 3 (intTags x.f.ty)) :=
  let u := one false [(7, .i32), (5, .n32), (3, .i32)]
  ⟨u.state, .imad (fm .i32), fm .i32, u.issue (.imad (fm .i32)), _, _, nth 4 rfl, iss,
    rd⟩

theorem test_DivisionNeverTraps : ∃ s f x, Issues s (.idiv f) x ∧ x.Readable x.active (List.replicate 2 (intTags x.f.ty)) ∧
    x.dividesByZero = true :=
  let u := one false [(7, .i32), (0, .i32)]
  ⟨u.state, f2 .i32, u.issue (.idiv (f2 .i32)), iss, rd, dk⟩

theorem test_CarryAndAddressForms :
    (∃ s f x, Issues s (.iaddc f) x ∧ x.Readable x.active (List.replicate 3 (intTags x.f.ty))) ∧
    (∃ s f x, Issues s (.lea f) x ∧ x.Readable x.active [intTags .ptr, countTags]) :=
  let u := one false [(2 ^ 64 - 1, .n64), (1, .n64), (1, .n64)]
  let w := one false [(0x1000, .ptr), (2 ^ 32 - 1, .i32)]
  ⟨⟨u.state, fm .n64, u.issue (.iaddc (fm .n64)), iss, rd⟩,
   ⟨w.state, { f2 .ptr with x13 := 3 }, w.issue (.lea { f2 .ptr with x13 := 3 }), iss, rd⟩⟩

theorem test_ShiftsDeliver : ∃ s i f x op, (i, op) ∈ shiftForms f ∧ Issues s i x ∧
    x.Readable x.active [intTags x.f.ty, if isLiteral x.f.sb then [] else countTags] :=
  let u := one false [(7, .i64), (64, .n32)]
  ⟨u.state, .sar (f2 .i64), f2 .i64, u.issue (.sar (f2 .i64)), _, nth 2 rfl, iss,
    rd⟩

theorem test_LogicAndFieldFormsDeliver :
    (∃ s i f x op tag, (i, op, tag) ∈ bitForms f.ty f ∧ Issues s i x ∧ x.Readable x.active (List.replicate 3 (intTags x.f.ty))) ∧
    (∃ s f x, Issues s (.perm f) x ∧ x.Readable x.active [intTags x.f.ty, intTags x.f.ty, [.i32, .n32]]) :=
  let u := one false [(7, .mask), (1, .mask)]
  let w := one false [(7, .n64), (1, .n64), (0x7FF, .n32)]
  ⟨⟨u.state, .and (f2 .mask), f2 .mask, u.issue (.and (f2 .mask)), _, _, nth 0 rfl, iss, rd⟩,
   ⟨w.state, fm .n64, w.issue (.perm (fm .n64)), iss, rd⟩⟩

theorem test_BitFieldsAreFields : ∃ w pos len k : Nat, w ≤ 64 ∧ pos + len ≤ 64 ∧ k < 64 ∧ k < w ∧ pos ≤ k ∧ k < pos + len :=
  ⟨64, 63, 1, 63, by decide⟩

theorem test_IntegerResultsWrapOrSaturate : ∃ (t : Ty) (m : Modifier), intTy t = true ∧ m.sat = true ∧ m.clamp = .none :=
  ⟨.i32, { na := false, aa := false, nb := false, ab := false, nc := false, ac := false, sat := true, clamp := .none, scale := 0, rnd := .dflt, raw := false }, by decide⟩

theorem test_ComparisonsWritePredicates :
    (∃ s c f x, Issues s (.icmp c f) x ∧ x.f.modw = none ∧ x.Readable x.active (List.replicate 2 (intTags x.f.ty))) ∧
    (∃ s c f x m, Issues s (.icmp c f) x ∧ x.f.modw = some m ∧ x.Readable x.active (List.replicate 2 (intTags x.f.ty))) ∧
    (∃ s f x, Issues s (.ptest f) x ∧ x.Readable x.active [intTags x.f.ty]) :=
  let u := one false [(7, .i32), (2 ^ 32 - 1, .i32)]
  let f : Form := { f2 .i32 with ds := .frame, fd := 2 }
  let m : Modifier := { na := true, aa := false, nb := false, ab := false, nc := false, ac := false, sat := false, clamp := .none, scale := 0, rnd := .dflt, raw := false }
  let w := one false [(1, .mask)]
  let g : Form := { f1 .mask with ds := .frame, fd := 2 }
  ⟨⟨u.state, .lt, f, u.issue (.icmp .lt f), iss, rfl, rd⟩,
   ⟨u.state, .lt, { f with modw := some m }, u.issue (.icmp .lt { f with modw := some m }), m, iss, rfl, rd⟩,
   ⟨w.state, g, w.issue (.ptest g), iss, rd⟩⟩

theorem test_PredicateFormsWrite : ∃ s i f x ks val, (i, ks, val) ∈ predicateForms x f ∧ Issues s i x ∧ x.PredsReady ks ∧
    x.Readable x.active [] :=
  let u := one false []
  let f : Form := { f1 .empty with ds := .frame, fd := 2, x13 := 0x91 }
  ⟨u.state, .pand f, f, u.issue (.pand f), _, _, nth 0 rfl, iss, pr,
    rd⟩

theorem test_MovesDeliver : ∃ s i f x accs res, (i, accs, res) ∈ movedForms x f ∧ Issues s i x ∧ (i = .sel f → x.PredsReady [bits x.f.x13 0 3]) ∧
    x.Readable x.active accs :=
  let u := one false [(7, .f32), (1, .f32)]
  ⟨u.state, .sel (f2 .f32), f2 .f32, u.issue (.sel (f2 .f32)), _, _, nth 0 rfl, iss,
    fun _ => pr, rd⟩

theorem test_ResultsStandInTheQueue : ∃ (x : Iss) (l k : Nat), l < x.v.lanes.length ∧ (x.v.lane l).q.length = 16 ∧
    (x.v.lane k).q.length = 16 ∧ x.active.contains l = true ∧ x.active.contains k = false ∧ inMask x.p.home k = false ∧ frames x.f.ds = true :=
  ⟨(one false []).issue (.iadd { f2 .i32 with ds := .pushFrame, fd := 31 }), 0, 1, dk⟩

theorem test_PredicatesStandInTheLanes : ∃ (x : Iss) (pd l k : Nat), l < x.v.lanes.length ∧ (x.v.lane l).p.length = 7 ∧ k < 8 ∧ pd < 7 ∧
    x.active.contains l = true := ⟨(one false []).issue (.ptest (f1 .i32)), 6, 0, 7, dk⟩

theorem test_QueueFormsReshape :
    (∃ s f x, Issues s (.drop f) x) ∧ (∃ s f x, Issues s (.swap f) x ∧ x.GuardReady) ∧ (∃ s f x, Issues s (.rot f) x ∧ x.GuardReady) ∧
    (∃ s f x, Issues s (.pad f) x ∧ x.GuardReady) ∧
    (∃ (p : Split) (m : Mark) (ms : List Mark), p.marks = m :: ms ∧ m.depth = p.depth ∧ -128 < m.count ∧ m.count < 127) :=
  let u := one false [(7, .f32), (1, .f32)]
  ⟨⟨u.state, { n1 .empty with x13 := 16 }, u.issue (.drop { n1 .empty with x13 := 16 }), iss⟩,
   ⟨u.state, n2 .empty, u.issue (.swap (n2 .empty)), iss, gd⟩,
   ⟨u.state, { n1 .empty with x13 := 16 }, u.issue (.rot { n1 .empty with x13 := 16 }), iss, gd⟩,
   ⟨u.state, { f1 .empty with x13 := 15 }, u.issue (.pad { f1 .empty with x13 := 15 }), iss, gd⟩,
   ⟨{ Split.first 0 1 with marks := [{ id := 0, depth := 0, count := 126 }] }, _, _, rfl, dk⟩⟩

theorem test_StateReadsDeliver : (∃ s i f x val tag, (i, val, tag) ∈ readForms x f ∧ Issues s i x ∧ x.GuardReady) ∧
    (∃ s f x low rest, Issues s (.maskwr f) x ∧ lanesOf x.p.home = low :: rest ∧ x.Readable [low] [[.mask, .i32, .n32]]) :=
  let u := one false []
  let w := one false [(0, .mask)]
  ⟨⟨u.state, .splitrd { f1 .empty with x13 := 2 }, { f1 .empty with x13 := 2 }, u.issue (.splitrd { f1 .empty with x13 := 2 }), _, _, nth 3 rfl, iss, gd⟩,
   ⟨w.state, n1 .empty, w.issue (.maskwr (n1 .empty)), 0, [], iss, dk, rd⟩⟩

theorem test_LaneMovesDeliver :
    (∃ s i f x src, (i, src) ∈ shuffleForms f ∧ Issues s i x ∧ x.Readable x.active (moveAccepts x)) ∧
    (∃ s f x, Issues s (.bcast f) x ∧ x.Readable x.active (moveAccepts x)) :=
  let u := one false [(7, .f32), (31, .n32)]
  ⟨⟨u.state, .shflUp (f2 .f32), f2 .f32, u.issue (.shflUp (f2 .f32)), _, nth 1 rfl, iss, rd⟩,
   ⟨u.state, f2 .f32, u.issue (.bcast (f2 .f32)), iss, rd⟩⟩

theorem test_LaneSetsDeliver :
    (∃ s f x, Issues s (.voteBallot f) x ∧ x.PredsReady [bits x.f.x13 0 3] ∧ x.Readable x.active []) ∧
    (∃ s f x, Issues s (.matchLanes f) x ∧ x.Readable x.active [if x.f.ty = .raw then [] else [x.f.ty]]) :=
  let u := one false [(7, .f32)]
  ⟨⟨u.state, f1 .empty, u.issue (.voteBallot (f1 .empty)), iss, pr, rd⟩,
   ⟨u.state, f1 .f32, u.issue (.matchLanes (f1 .f32)), iss, rd⟩⟩

theorem test_ReductionsDeliver :
    (∃ s o f x, Issues s (.wred o f) x ∧ x.Readable x.active (wredForm o x).accs ∧ (wredForm o x).flags x &&& x.v.fpTrapEn = 0) ∧
    (∃ s o ex f x, Issues s (.wscan o ex f) x ∧ x.Readable x.active (wscanForm o ex x).accs ∧ (wscanForm o ex x).flags x &&& x.v.fpTrapEn = 0) :=
  let u := one false [(7, .i32)]
  ⟨⟨u.state, .add, f1 .i32, u.issue (.wred .add (f1 .i32)), iss, rd, noTrap rfl⟩,
   ⟨u.state, .add, true, f1 .i32, u.issue (.wscan .add true (f1 .i32)), iss, rd, noTrap rfl⟩⟩

theorem test_IntegerReductionsAreSums : ∃ (x : Iss) (l : Nat), x.f.ty = .i64 ∧ x.active.contains l = true ∧ l < 32 :=
  ⟨(one false [(7, .i64)]).issue (.wred .add (f1 .i64)), 0, dk⟩

/-! ## Floating point and control flow: what their statements assume can be met -/

theorem test_FloatFormsDeliver : ∃ s i f x g, (i, g) ∈ arithmeticForms x f ∧ Issues s i x ∧ x.Readable x.active g.accs ∧
    g.flags x &&& x.v.fpTrapEn = 0 :=
  let u := one false [(0x3F800000, .f32), (0x7FC00000, .f32), (1, .f32)]
  ⟨u.state, .ffma (fm .f32), fm .f32, u.issue (.ffma (fm .f32)), _, nth 3 rfl, iss, rd, noTrap rfl⟩

theorem test_ConversionsDeliver : ∃ s i f x g, (i, g) ∈ conversionForms x f ∧ Issues s i x ∧ sameHalves x g ∧
    x.Readable x.active g.accs ∧ g.flags x &&& x.v.fpTrapEn = 0 :=
  let u := one false [(0x3C003C00, .f16x2), (0x3C003C00, .f16x2), (1, .f32)]
  ⟨u.state, .fdot2 (fm .f32), fm .f32, u.issue (.fdot2 (fm .f32)), _, nth 0 rfl, iss, fun _ => .inr dk, rd, noTrap rfl⟩

theorem test_SpecialFunctionsDeliver : ∃ s i f x g, (i, g) ∈ functionForms x f ∧ Issues s i x ∧
    x.Readable x.active g.accs ∧ g.flags x &&& x.v.fpTrapEn = 0 :=
  let u := one false [(0x3F800000, .f32)]
  ⟨u.state, .tanh (f1 .f32), f1 .f32, u.issue (.tanh (f1 .f32)), _, nth 7 rfl, iss, rd, noTrap rfl⟩

/-- A setup whose wave traps on every flag. -/
def Setup.trapping (u : Setup) : Setup := { u with v := { u.v with fpTrapEn := 0b11111 } }

theorem test_EnabledFlagsTrap : ∃ s i f x g, (i, g) ∈ arithmeticForms x f ∧ Issues s i x ∧ sameHalves x g ∧
    x.Readable x.active g.accs ∧ g.flags x &&& x.v.fpTrapEn ≠ 0 :=
  let u := (one false [(0x3F800000, .f32), (0, .f32)]).trapping
  ⟨u.state, .fdiv (f2 .f32), f2 .f32, u.issue (.fdiv (f2 .f32)), _, nth 4 rfl, iss, (fun h => by cases h), rd, dk⟩

theorem test_FloatComparesTrap : ∃ s c f x, Issues s (.fcmp c f) x ∧ x.Readable x.active [[x.f.ty], [x.f.ty]] ∧
    x.comparedFlags c &&& x.v.fpTrapEn ≠ 0 :=
  let u := (one false [(0x3F800000, .f32), (0x7FC00000, .f32)]).trapping
  let f : Form := { f2 .f32 with ds := .frame, fd := 6 }
  ⟨u.state, .lt, f, u.issue (.fcmp .lt f), iss, rd, dk⟩

theorem test_FloatComparesAndCodebooks :
    (∃ s c f x, Issues s (.fcmp c f) x ∧ x.Readable x.active [[x.f.ty], [x.f.ty]] ∧ x.v.fpTrapEn = 0) ∧
    (∃ s f x, Issues s (.cbkld f) x ∧ x.Readable x.active [[.bf16x2]]) :=
  let u := one false [(0x3F800000, .f32), (0x7FC00000, .f32)]
  let f : Form := { f2 .f32 with ds := .frame, fd := 6 }
  let w := one false [(0x3F803F80, .bf16x2)]
  let g : Form := { n1 .bf16x2 with x13 := 3 }
  ⟨⟨u.state, .uno, f, u.issue (.fcmp .uno f), iss, rd, rfl⟩, ⟨w.state, g, w.issue (.cbkld g), iss, rd⟩⟩

theorem test_FormatNumbersAreDeliveredExactly : ∃ (f : FFmt) (a : Nat) (s : Bool) (m : Nat) (e : Int), a < 2 ^ f.width ∧ fval f a = .fin s m e :=
  ⟨.f16, 1, false, 1, -24, dk⟩

theorem test_BranchesGo : (∃ s f x, Issues s (.bra f) x ∧ x.GuardReady) ∧
    (∃ s f x, Issues s (.loop f) x ∧ x.Readable x.active [[.i32, .n32]]) :=
  let u := one false [(1, .i32)]
  let b : Form := { n1 .empty with imm := some 64 }
  let l : Form := { f1 .i32 with ds := .frame, fd := 31, sa := .frame 31, imm := some 64 }
  let w : Setup := { u with v := { u.v with lanes := List.replicate 32 { Lane.reset with f := List.replicate 32 { val := 1, tag := .i32, pend := .clear } } } }
  ⟨⟨u.state, b, u.issue (.bra b), iss, gd⟩, ⟨w.state, l, w.issue (.loop l), iss, rd⟩⟩

/-- A split of a setup changed. -/
def Setup.at_ (u : Setup) (g : Split → Split) : Setup := { u with p := g u.p }

/-- Seven marks of the level, each for no push. -/
def marks (n : Nat) : List Mark := (List.range n).map (fun i => { id := i + 1, depth := 0, count := 0 })

theorem test_SplitBranchesGo : ∃ s f x, Issues s (.brs f) x ∧ x.GuardReady ∧ x.p.marks.length < 8 ∧ x.taken ≠ 0 ∧ x.left ≠ 0 :=
  let u := (one false []).at_ (fun p => { p with emask := 3, home := 3, marks := marks 7 })
  let u : Setup := { u with v := { u.v with lanes := { Lane.reset with p := List.replicate 7 { val := true, ready := 0 } } :: List.replicate 31 Lane.reset } }
  let b : Form := { n1 .empty with guard := { inv := false, p := 6 }, imm := some 64 }
  ⟨u.state, b, u.issue (.brs b), iss, gd, dk⟩

theorem test_SplitBranchesPartition : ∃ (x : Iss) (p : Split), p ∈ x.v.splits ∧ p.num < 32 ∧ x.v.splits.length < 32 :=
  ⟨(one false []).issue (.brs (n1 .empty)), (one false []).p, dk⟩

theorem test_IndirectJumpsGo : ∃ s f x, Issues s (.jmpi f) x ∧ x.Readable x.active [[.ptr]] ∧ x.Straight ∧ x.p.marks.length < 8 ∧
    x.groups ≠ [] :=
  let u := (one false [(0x10000, .ptr)]).at_ (fun p => { p with emask := 3, home := 3 })
  ⟨u.state, n1 .empty, u.issue (.jmpi (n1 .empty)), iss, rd, by unfold Iss.Straight; decide +kernel, dk, dk⟩

theorem test_ChecksBeforeIssue :
    (∃ s i x, Attempts s i x ∧ formOk x.g i x.f = false) ∧
    (∃ s i x, Attempts s i x ∧ formOk x.g i x.f = true ∧ x.f.st = true ∧ x.p.stage = .idle ∧ ∃ w a, x.v.homeWatch = some (w, a)) ∧
    (∃ s i x, Attempts s i x ∧ formOk x.g i x.f = true ∧ (x.f.st && x.p.stage == .idle && x.v.homeWatch.isSome) = false ∧
      roleOk x.v.role i x.g = false) :=
  let u := one false []
  let bad : Instr := .sleep { n1 .i32 with x13 := 1 }
  let safe : Instr := .nop { n1 .empty with st := true }
  let w : Setup := { u with v := { u.v with homeWatch := some (7, 0x8000) } }
  ⟨⟨u.state, bad, u.issue bad, att, dk⟩, ⟨w.state, safe, w.issue safe, att, dk, dk, dk, _, _, rfl⟩,
   ⟨u.state, .az (n1 .i32), u.issue (.az (n1 .i32)), att, dk⟩⟩

theorem test_SourcesTrap :
    (∃ s i f x accs, (i, accs) ∈ sourceForms x f ∧ Issues s i x ∧ ¬ x.GuardReady) ∧
    (∃ s i f x accs, (i, accs) ∈ sourceForms x f ∧ Issues s i x ∧ x.GuardReady ∧ x.sourceWait x.active = some 1) ∧
    (∃ s i f x accs, (i, accs) ∈ sourceForms x f ∧ Issues s i x ∧ x.GuardReady ∧ x.sourceWait x.active = none ∧ x.emptyLanes ≠ []) ∧
    (∃ s i f x accs, (i, accs) ∈ sourceForms x f ∧ Issues s i x ∧ x.GuardReady ∧ x.sourceWait x.active = none ∧ x.emptyLanes = [] ∧
      x.raw = false ∧ x.wrongLanes accs ≠ []) :=
  let u := one false [(7, .i32)]
  let g : Form := { f2 .i32 with guard := { inv := false, p := 6 } }
  let w : Setup := { u with v := { u.v with lanes := List.replicate 32 { Lane.reset with p := List.replicate 7 { val := true, ready := 1 } } } }
  let p : Setup := { u with v := { u.v with lanes := List.replicate 32 { Lane.reset with q := [{ val := 7, tag := .i32, pend := .fixed 1 }] } } }
  let t := one false [(7, .f32), (5, .n32), (3, .i32)]
  ⟨⟨w.state, .iadd g, g, w.issue (.iadd g), _, nth 0 rfl, iss, fun h => absurd h (by unfold Iss.GuardReady; decide +kernel)⟩,
   ⟨p.state, .iadd (f2 .i32), f2 .i32, p.issue (.iadd (f2 .i32)), _, nth 0 rfl, iss, gd, dk⟩,
   ⟨u.state, .imad (fm .i32), fm .i32, u.issue (.imad (fm .i32)), _, nth 4 rfl, iss, gd, dk⟩,
   ⟨t.state, .imad (fm .i32), fm .i32, t.issue (.imad (fm .i32)), _, nth 4 rfl, iss, gd, dk⟩⟩

theorem test_MarksTrap :
    (∃ s f x, Issues s (.brs f) x ∧ x.GuardReady ∧ 8 ≤ x.p.marks.length) ∧
    (∃ s x, Issues s (.jmpi x.f) x ∧ x.Readable x.active [[.ptr]] ∧ x.active.filter (fun l => bits (opnd (x.vals l) 0) 0 3 != 0) ≠ []) ∧
    (∃ s x, Issues s (.calli x.f) x ∧ x.p.depth = x.v.depth ∧ x.Readable x.active [[.ptr]] ∧
      x.active.filter (fun l => bits (opnd (x.vals l) 0) 0 3 != 0) = [] ∧ 8 ≤ x.p.marks.length ∧ x.active ≠ [] ∧ x.MayCall x.f.n) ∧
    (∃ s f x, Issues s (.rejoin f) x ∧ x.p.marks = []) ∧
    (∃ s f x m ms, Issues s (.rejoin f) x ∧ x.p.marks = m :: ms ∧ m.depth = x.p.depth ∧ m.count ≠ x.f.n ∧
      layoutFor x.f.imm m.count = none) :=
  let u := one false [(0x10000, .ptr)]
  let w := one false [(0x10004, .ptr)]
  let full := u.at_ (fun p => { p with marks := marks 8 })
  let some1 := u.at_ (fun p => { p with marks := marks 1 })
  let j := n1 .empty
  let r : Form := { n1 .empty with x13 := 1 }
  ⟨⟨full.state, j, full.issue (.brs j), iss, gd, dk⟩, ⟨w.state, w.issue (.jmpi j), iss, rd, dk⟩,
   ⟨full.state, full.issue (.calli j), iss, dk, rd, dk, dk, dk, ⟨dk, dk, dk, dk⟩⟩,
   ⟨u.state, r, u.issue (.rejoin r), iss, dk⟩, ⟨some1.state, r, some1.issue (.rejoin r), _, _, iss, rfl, dk, dk, dk⟩⟩

theorem test_JumpGroupsPartition : ∃ (x : Iss) (l : Nat), l < 32 ∧ x.active.contains l = true ∧ ∃ g ∈ x.groups, inMask g.2 l = true :=
  ⟨(one false [(0x10000, .ptr)]).issue (.jmpi (n1 .empty)), 0, dk⟩

theorem test_CallsEnterALevel :
    (∃ s f x, Issues s (.call f) x ∧ x.MayCall x.f.n) ∧
    (∃ s f x, Issues s (.calli f) x ∧ x.Readable x.active [[.ptr]] ∧ x.Straight ∧ x.p.marks.length < 8 ∧ x.p.depth = x.v.depth ∧
      x.groups ≠ [] ∧ x.MayCall x.f.n) :=
  let u := one false [(0x10000, .ptr)]
  let c : Form := { n1 .empty with x13 := 16, imm := some 64 }
  let i : Form := { n1 .empty with x13 := 16 }
  ⟨⟨u.state, c, u.issue (.call c), iss, ⟨dk, dk, dk, dk⟩⟩,
   ⟨u.state, i, u.issue (.calli i), iss, rd, by unfold Iss.Straight; decide +kernel, dk, dk, dk,
    ⟨dk, dk, dk, dk⟩⟩⟩

theorem test_CalleeQueuesOpen : ∃ (v : Wave) (c : CallLevel) (home : LaneMask) (n l : Nat), l < 32 ∧ l < v.lanes.length ∧ inMask home l = true ∧
    (v.lane l).q.length = 16 ∧ n ≤ 16 ∧ c.queues = savedQueues v home :=
  ⟨(one false []).v, ((one false []).issue (.call (n1 .empty))).callerLevel, 1, 16, 0, dk⟩

/-- A setup called once, from a split with all lanes of its own level's mark list. -/
def Setup.called (u : Setup) (m : Option Nat) : Setup :=
  let c : CallLevel := {
    queues := savedQueues u.v u.p.home, retPc := 0x10008, emask := 1, home := 1, marks := 0, n := 0, m, rem := 0, targets := [], done := 0 }
  { u with v := { u.v with levels := [c], depth := 1 }, p := { u.p with depth := 1 } }

theorem test_ReturnsLeaveALevel : ∃ s f x c cs, Issues s (.ret f) x ∧ x.p.depth = x.v.depth ∧
    (x.p.marks.any (fun m => m.depth == x.p.depth)) = false ∧ x.v.levels = c :: cs ∧
    argPending x.cc x.f.n x.v x.p.home = false ∧ (c.m = none ∨ c.m = some x.f.n) ∧ c.retPc.toNat % 8 = 0 ∧
    nextArgsPending x.cc x.v c = false :=
  let u := (one false [(5, .i32)]).called (some 1)
  let r : Form := { n1 .empty with x13 := 1 }
  ⟨u.state, r, u.issue (.ret r), _, _, iss, dk, dk, rfl, dk, .inr dk, dk, dk⟩

theorem test_LevelsTrap :
    (∃ s x, Issues s (.ret x.f) x ∧ x.p.depth ≠ x.v.depth) ∧
    (∃ s x, Issues s (.call x.f) x ∧ x.p.depth = x.v.depth ∧ argPending x.cc x.f.n x.v x.p.home = false ∧ x.v.depth = 64) ∧
    (∃ s f x, Issues s (.ret f) x ∧ x.p.depth = x.v.depth ∧ (x.p.marks.any (fun m => m.depth == x.p.depth)) = true) ∧
    (∃ s f x, Issues s (.ret f) x ∧ x.p.depth = x.v.depth ∧ (x.p.marks.any (fun m => m.depth == x.p.depth)) = false ∧ x.v.levels = []) ∧
    (∃ s f x c cs m, Issues s (.ret f) x ∧ x.p.depth = x.v.depth ∧ (x.p.marks.any (fun m => m.depth == x.p.depth)) = false ∧
      x.v.levels = c :: cs ∧ argPending x.cc x.f.n x.v x.p.home = false ∧ c.m = some m ∧ m ≠ x.f.n) :=
  let u := one false [(5, .i32)]
  let low := (u.called none).at_ (fun p => { p with depth := 0 })
  let deep : Setup := { u with v := { u.v with depth := 64 }, p := { u.p with depth := 64 } }
  let marked := u.at_ (fun p => { p with marks := marks 1 })
  let c : Form := { n1 .empty with imm := some 64 }
  let r := n1 .empty
  ⟨⟨low.state, low.issue (.ret r), iss, dk⟩, ⟨deep.state, deep.issue (.call c), iss, dk, dk, dk⟩,
   ⟨marked.state, r, marked.issue (.ret r), iss, dk, dk⟩, ⟨u.state, r, u.issue (.ret r), iss, dk, dk, dk⟩,
   ⟨(u.called (some 1)).state, r, (u.called (some 1)).issue (.ret r), _, _, _, iss, dk, dk, rfl, dk, rfl, dk⟩⟩

theorem test_ReturnsRestoreQueues : ∃ (v u : Wave) (c : CallLevel) (home : LaneMask) (n l : Nat), l < 32 ∧ l < u.lanes.length ∧ inMask home l = true ∧
    (v.lane l).q.length = 16 ∧ c.queues = savedQueues v home ∧ n ≤ (u.lane l).q.length :=
  let u := (one false [(5, .i32)]).called none
  ⟨(one false [(5, .i32)]).v, u.v, ((one false [(5, .i32)]).issue (.call (n1 .empty))).callerLevel, 1, 16, 0, dk⟩

theorem test_RejoinsAndExits :
    (∃ s f x m ms, Issues s (.rejoin f) x ∧ x.p.marks = m :: ms ∧ m.depth = x.p.depth ∧
      (m.count = x.f.n ∨ (layoutFor x.f.imm m.count).isSome = true) ∧ rejoinElsewhere x m.id = false) ∧
    (∃ s f x, Issues s (.exit f) x ∧ x.GuardReady) :=
  let u := (one false []).at_ (fun p => { p with marks := marks 1 })
  ⟨⟨u.state, n1 .empty, u.issue (.rejoin (n1 .empty)), _, _, iss, rfl, dk, .inl dk, dk⟩,
   ⟨u.state, n1 .empty, u.issue (.exit (n1 .empty)), iss, gd⟩⟩

theorem test_RejoinsPermute : ∃ (n k : Nat) (q : List Entry), n ≤ 16 ∧ q.length = 16 ∧ k < 16 :=
  ⟨16, 15, queue [], dk⟩

theorem test_MasksAndWaits :
    (∃ s f x, Issues s (.maskwr f) x ∧ x.Readable ((lanesOf x.p.home).take 1) [[.mask, .i32, .n32]]) ∧
    (∃ s f x, Issues s (.yield f) x) ∧ (∃ s f x, Issues s (.sleep f) x) :=
  let u := one false [(3, .mask)]
  ⟨⟨u.state, n1 .empty, u.issue (.maskwr (n1 .empty)), iss, rd⟩, ⟨u.state, n1 .empty, u.issue (.yield (n1 .empty)), iss⟩,
   ⟨u.state, { n1 .empty with x13 := 0x1FFF }, u.issue (.sleep { n1 .empty with x13 := 0x1FFF }), iss⟩⟩

theorem test_SoftwareTrapsRaise : (∃ s f x, Issues s (.brk f) x ∧ x.GuardReady ∧ x.active ≠ []) ∧
    (∃ s f x, Issues s (.trap f) x ∧ x.GuardReady ∧ x.active = []) :=
  let u := one false []
  let g : Form := { n1 .empty with guard := { inv := true, p := 7 } }
  let b : Form := { n1 .empty with st := true }
  ⟨⟨u.state, b, u.issue (.brk b), iss, gd, dk⟩, ⟨u.state, g, u.issue (.trap g), iss, gd, dk⟩⟩

/-! ## The matrix unit and memory: what their statements assume can be met -/

theorem tr {x : Iss} {ts : List Nat} (h : (∀ t ∈ ts, t < x.v.tiles.length ∧ (x.v.tile t).busyUntil ≤ x.cc) := by decide +kernel) :
    x.TilesReady ts := h

theorem sc {x : Iss} {accs : List (List Ty)} {l : Nat} (h : guardPending x.cc x.v x.p x.f = false := by decide +kernel)
    (hl : x.active.head? = some l := by decide +kernel) (hr : (x.gate [l] accs == .ready) = true := by decide +kernel) : x.Scalar accs l :=
  ⟨h, hl, eq_of_beq hr⟩

theorem oc {x : Iss} {accs : List (List Ty)} {l : Nat} (h : guardPending x.cc x.v x.p x.f = false := by decide +kernel)
    (hl : x.active.head? = some l := by decide +kernel) (hr : (x.gate [l] accs == .ready) = true := by decide +kernel) : x.Once accs l :=
  ⟨h, hl, eq_of_beq hr⟩

/-- No page of a matching store is unknown. -/
def known : Watched → Bool
  | .wait _ => false
  | _ => true

theorem ma {x : Iss} {r : Rec} (h : recFree x.v = true := by decide +kernel) (u : x.heldBy r = none := by decide +kernel)
    (k : storeFull x.w x.v r = false := by decide +kernel) (n : known (r.watched x.w x.v) = true := by decide +kernel) :
    x.MayAccess r := ⟨h, u, k, fun va e => by rw [e] at n; cases n⟩

/-- The setup with its pages mapped (log 2) and a core-side watchpoint on the 8 bytes at 0x2000. -/
def Setup.watching (u : Setup) : Setup :=
  { u with d := u.d.updCore (u.d.coreOf u.v) (fun c => { c with watch := [(0x2000, 2 ^ 48 + 3)] }), m := Memory.empty.writeAll handTables }

theorem mm {x : Iss} {a b o : Word} (h : bits a 0 4 = 0 ∧ bits b 0 4 = 0 ∧ opAstr o % 16 = 0 ∧ opBstr o % 16 = 0 := by decide +kernel)
    (g : opGng o = false := by decide +kernel) (s : slotFree x.v = true := by decide +kernel)
    (u : x.v.hold x.p.num true = none := by decide +kernel) : x.MayMultiply a b o := by
  refine ⟨h, ?_, ?_, ?_, s, u⟩ <;> simp [g]

theorem test_TileZeroAnchorResolve :
    (∃ s i f x l n e g, (i, g, n) ∈ tileForms e f ∧ Issues s i x ∧ x.Scalar [[.i32, .n32]] l ∧
      anchorOf ((x.vals l).getD 0 (0, .i32)) = some e ∧ x.TilesReady [x.f.xd]) ∧
    (∃ s f x, Issues s (.res f) x ∧ x.GuardReady ∧ x.active ≠ [] ∧ x.TilesReady [x.f.xd]) :=
  let u := one true [(2 ^ 32 - 16384, .i32)]
  let f : Form := { n1 .i32 with x13 := 7 }
  let r : Form := { n1 .empty with x13 := 7 }
  ⟨⟨u.state, .anch f, f, u.issue (.anch f), 0, _, -16384, _, nth 1 rfl, iss, sc, dk, tr⟩,
   ⟨u.state, r, u.issue (.res r), iss, gd, dk, tr⟩⟩

theorem test_RowsAreDelivered :
    (∃ s f x, Issues s (.resv f) x ∧ x.GuardReady ∧ x.active ≠ [] ∧ x.TilesReady [x.f.xd]) ∧
    (∃ s f x, Issues s (.avld f) x ∧ x.GuardReady ∧ x.active ≠ [] ∧ x.TilesReady [x.f.xd]) ∧
    (∃ s f x, Issues s (.mrow f) x ∧ x.GuardReady ∧ x.active ≠ [] ∧ x.TilesReady [x.f.xd]) ∧
    (∃ s i f x tags, (i, tags) ∈ [(Instr.resv f, [x.f.ty]), (.avld f, [.raw, .raw, .n32]), (.mrow f, [.n32])] ∧ Issues s i x ∧
      x.GuardReady ∧ x.active = []) :=
  let u := one true []
  let none_ : Form := { f1 .empty with x13 := 7, guard := { inv := true, p := 7 } }
  let f : Form := { f1 .fx64 with x13 := 0x7C7 }
  let g : Form := { f1 .empty with x13 := 0x7C7 }
  let h : Form := { f1 .empty with x13 := 7 }
  ⟨⟨u.state, f, u.issue (.resv f), iss, gd, dk, tr⟩, ⟨u.state, g, u.issue (.avld g), iss, gd, dk, tr⟩,
   ⟨u.state, h, u.issue (.mrow h), iss, gd, dk, tr⟩, ⟨u.state, .mrow none_, none_, u.issue (.mrow none_), _, nth 2 rfl, iss, gd, dk⟩⟩

theorem test_TileComparisonsComplete :
    (∃ s f x k, Issues s (.acmp f) x ∧ x.Scalar [[x.f.ty]] k ∧ x.TilesReady [x.f.xd] ∧ uncovered x.v x.f.xd = false) ∧
    (∃ s f x, Issues s (.asgn f) x ∧ x.GuardReady ∧ x.active ≠ [] ∧ x.TilesReady [x.f.xd] ∧ uncovered x.v x.f.xd = false) :=
  let u := one true [(5, .fx64)]
  let f : Form := { f1 .fx64 with ds := .frame, fd := 6, x13 := 0x2F }
  let g : Form := { f1 .empty with ds := .frame, fd := 4, x13 := 7 }
  ⟨⟨u.state, f, u.issue (.acmp f), 0, iss, sc, tr, dk⟩,
   ⟨u.state, g, u.issue (.asgn g), iss, gd, dk, tr, dk⟩⟩

theorem test_TileSumsAndExponents :
    (∃ s f x, Issues s (.aadd f) x ∧ x.GuardReady ∧ x.active ≠ [] ∧ x.TilesReady [x.f.xd, x.f.xs] ∧ uncovered x.v x.f.xs = false) ∧
    (∃ s f x, Issues s (.mxexp f) x ∧ x.Readable x.active [[x.f.ty]]) :=
  let u := one true [(0x38383838, .f8x4)]
  let f : Form := { n1 .empty with x13 := 0x37 }
  ⟨⟨u.state, f, u.issue (.aadd f), iss, gd, dk, tr, dk⟩,
   ⟨u.state, f1 .f8x4, u.issue (.mxexp (f1 .f8x4)), iss, rd⟩⟩

/-- One step of 8-bit integers (R186). -/
def operandWord : Word := 0x155000

theorem test_MatrixOperationsEnter : (∃ s f x l, Issues s (.mma f) x ∧
      x.Scalar (matrixTags .mma (x.f.imm.getD 0)) l ∧ x.TilesReady [x.f.xd] ∧
      x.MayMultiply (opnd (x.vals l) 0) (opnd (x.vals l) 1) (x.f.imm.getD 0)) ∧
    (∃ s f x l, Issues s (.mmas f) x ∧
      x.Scalar (matrixTags .mmas (x.f.imm.getD 0)) l ∧ x.TilesReady [x.f.xd] ∧
      x.MayMultiply (opnd (x.vals l) 0) (opnd (x.vals l) 1) (x.f.imm.getD 0)) ∧
    (∃ s f x l, Issues s (.mma f) x ∧ opGng (x.f.imm.getD 0) = true ∧
      x.Scalar (matrixTags .mma (x.f.imm.getD 0)) l ∧ x.TilesReady [x.f.xd] ∧
      x.MayMultiply (opnd (x.vals l) 0) (opnd (x.vals l) 1) (x.f.imm.getD 0)) :=
  let u := one true [(0x10000, .ptr), (0x20000, .ptr), (0x30000, .ptr)]
  let w : Setup := { u with d := u.d.updTaskCore u.v (fun c => { c with gang := 3 }), more := [{ u.v with uid := 99, j := 1 }] }
  let f : Form := { n2 .empty with x13 := 7, imm := some operandWord }
  let g : Form := { n3 .empty with x13 := 7, imm := some operandWord }
  let h : Form := { f with imm := some (operandWord ||| 0x200) }
  ⟨⟨u.state, f, u.issue (.mma f), 0, iss, sc, tr, mm⟩,
   ⟨u.state, g, u.issue (.mmas g), 0, iss, sc, tr, mm⟩,
   ⟨w.state, h, w.issue (.mma h), 0, iss, dk, sc, tr, ⟨dk, fun _ => by decide +kernel, fun _ => by decide +kernel, fun _ => by decide +kernel, dk, dk⟩⟩⟩

theorem test_MatrixControlCompletes :
    (∃ s f x l, Issues s (.ald f) x ∧ x.Scalar [addrTags (decide (2 ≤ x.f.mode))] l ∧ x.TilesReady [x.f.xd] ∧
      bits (opnd (x.vals l) 0) 0 8 = 0 ∧ slotFree x.v = true ∧ x.v.hold x.p.num true = none) ∧
    (∃ s f x l e, Issues s (.astr f) x ∧ x.Scalar [addrTags (decide (2 ≤ x.f.mode))] l ∧ x.TilesReady [x.f.xd] ∧
      bits (opnd (x.vals l) 0) 0 8 = 0 ∧ slotFree x.v = true ∧ x.v.hold x.p.num true = none ∧
      ({ OpSlot.make .astr x.f.xd (opnd (x.vals l) 0) 0 0 0 with canonical := x.f.mode % 2 == 1, scratch := decide (2 ≤ x.f.mode) }
        : OpSlot).watched x.w x.v = .hit e) ∧
    (∃ s f x, Issues s (.mfence f) x ∧ x.GuardReady ∧ x.active ≠ [] ∧ x.v.recs.any Rec.isStore = false ∧
      x.v.slots.any (fun o => o.kind == .astr) = false) ∧
    (∃ s f x, Issues s (.mwait f) x ∧ x.GuardReady ∧ x.active ≠ [] ∧ (x.f.mode % 2 = 1 ∨ x.TilesReady [x.f.xd]) ∧
      x.v.slots.any (fun o => x.f.mode % 2 == 1 || o.tile == x.f.xd) = false) ∧
    (∃ s f x l, Issues s (.gang f) x ∧ x.Scalar [[.n32, .i32]] l ∧ gangValid x (bits (opnd (x.vals l) 0) 0 32)) ∧
    (∃ s i f x, i ∈ [Instr.mma f, .mmas f, .astr f, .ald f, .gang f, .az f, .anch f, .mfence f, .mwait f, .res f, .aadd f, .asgn f] ∧
      Issues s i x ∧ x.GuardReady ∧ x.active = []) :=
  let u := one true [(0x10000, .n64)]
  let v := one true [(0x3F, .n32)]
  let w : Setup := { v with
    d := { v.d with
    launches := v.d.launches.map (fun l => { l with
    desc := l.desc.set 1 (BitVec.ofNat 64 (6 * 2 ^ 42 + 6 * 2 ^ 36 + 2 * 2 ^ 20)) }) } }
  let f : Form := { n1 .empty with x13 := 0x1807 }
  let g : Form := { n1 .empty with x13 := 7 }
  let h : Form := { n1 .empty with x13 := 7, guard := { inv := true, p := 7 } }
  let k := (one true [(0x1800, .ptr)]).watching
  ⟨⟨u.state, f, u.issue (.ald f), 0, iss, sc, tr, dk, dk, dk⟩,
   ⟨k.state, g, k.issue (.astr g), 0, 0x2000, iss, sc, tr, dk, dk, dk, dk⟩,
   ⟨u.state, n1 .empty, u.issue (.mfence (n1 .empty)), iss, gd, dk, dk, dk⟩,
   ⟨u.state, g, u.issue (.mwait g), iss, gd, dk, .inr tr, dk⟩,
   ⟨w.state, n1 .n32, w.issue (.gang (n1 .n32)), 0, iss, sc, by unfold gangValid; decide +kernel⟩,
   ⟨u.state, .res h, h, u.issue (.res h), nth 9 rfl, iss, gd, dk⟩⟩

theorem test_MemoryFormsIssue :
    (∃ s i o f x g, (i, g) ∈ accessForms o x f ∧ Issues s i x ∧ x.Readable x.active g.accs ∧ x.active = []) ∧
    (∃ s i o f x g ts, (i, g) ∈ accessForms o x f ∧ Issues s i x ∧ x.Readable x.active g.accs ∧ x.active ≠ [] ∧
      x.addresses g.width = .targets ts ∧ x.MayAccess (g.entry x ts)) ∧
    (∃ s i o f x g ts a, (i, g) ∈ accessForms o x f ∧ Issues s i x ∧ x.Readable x.active g.accs ∧ x.active ≠ [] ∧
      x.addresses g.width = .targets ts ∧ x.MayAccess (g.entry x ts) ∧ (g.entry x ts).watched x.w x.v = .hit a) ∧
    (∃ s i o f x g c m a, (i, g) ∈ accessForms o x f ∧ Issues s i x ∧ x.Readable x.active g.accs ∧ x.active ≠ [] ∧
      x.addresses g.width = .trap c m a) :=
  let u := one false [(0x2000, .ptr), (5, .n64), (6, .n64)]
  let f : Form := { f1 .n32 with guard := { inv := true, p := 7 } }
  let g : Form := { fm .n64 with imm := none }
  let h : Form := { n2 .n64 with x13 := 0xFF }
  ⟨⟨u.state, .ld f, .add, f, u.issue (.ld f), _, nth 0 rfl, iss, rd, dk⟩,
   ⟨u.state, .atom .cas g, .cas, g, u.issue (.atom .cas g), _, [(0, .virt 0x2000)], nth 3 rfl, iss, rd, dk, dk, ma⟩,
   ⟨u.watching.state, .st (n2 .n64), .add, n2 .n64, u.watching.issue (.st (n2 .n64)), _, [(0, .virt 0x2000)], 0x2000, nth 2 rfl, iss, rd, dk, dk, ma, dk⟩,
   ⟨u.state, .st h, .add, h, u.issue (.st h), _, tAlign, 1, 0x1FFF, nth 2 rfl, iss, rd, dk, dk⟩⟩

theorem test_VectorStoresIssue :
    (∃ s f x, Issues s (.stv f) x ∧ x.StvReadable ∧ x.active = []) ∧
    (∃ s f x ts, Issues s (.stv f) x ∧ x.StvReadable ∧ x.active ≠ [] ∧ x.addresses (x.f.cnt * (tyWidth x.f.ty / 8)) = .targets ts ∧
      x.MayAccess (({ accs := [], cls := 1, kind := 1, width := x.f.cnt * (tyWidth x.f.ty / 8), tags := [], op := .store (tyWidth x.f.ty / 8), fill := fun l a => { a with data := (x.stvEntries l).flatMap (fun e => toBytes (tyWidth x.f.ty / 8) e.val.toNat) } } : AccessForm).entry x ts)) ∧
    (∃ s f x c m a, Issues s (.stv f) x ∧ x.StvReadable ∧ x.active ≠ [] ∧ x.addresses (x.f.cnt * (tyWidth x.f.ty / 8)) = .trap c m a) :=
  let w := one false ((0x2004, .ptr) :: (List.range 8).map (fun i => (i, .n32)))
  let u := one false ((0x2000, .ptr) :: (List.range 8).map (fun i => (i, .n32)))
  let f : Form := { n2 .n32 with x13 := 0x200 }
  let g : Form := { f with guard := { inv := true, p := 7 } }
  ⟨⟨u.state, g, u.issue (.stv g), iss, eq_of_beq dk, dk⟩,
   ⟨u.state, f, u.issue (.stv f), [(0, .virt 0x2000)], iss, eq_of_beq dk, dk, dk, ma⟩,
   ⟨w.state, f, w.issue (.stv f), tAlign, 1, 0x2004, iss, eq_of_beq dk, dk, dk⟩⟩

theorem test_AddressChecksComeInOrder :
    judge [(0, .prot), (1, .bounds)] 4 = .trap tProt 1 0 ∧ judge [(0, .named (.virt 3)), (1, .bounds)] 4 = .trap tBounds 2 0 ∧
    judge [(0, .named (.virt 4)), (1, .named (.virt 6))] 4 = .trap tAlign 2 6 ∧
    judge [(0, .named (.virt 4))] 4 = .targets [(0, .virt 4)] := by decide +kernel

theorem test_AtomicResults : intTy .i32 = true := rfl

theorem test_ExactAddsAreExact : addend .f32 0x7F800000 = none ∧ (∃ n k, addend .f32 0x3F800001 = some (n, k)) ∧ cellAnchor 0 = 0 :=
  ⟨dk, ⟨8388609, -23, dk⟩, dk⟩

theorem test_FloatAddsAtBanks : (fval .f32 0x7FC00000).isNan = true ∧ fval .f32 0x7F800000 = .inf false ∧ fval .f32 0xFF800000 = .inf true ∧
    fval .bf16 0 = .fin false 0 (-133) ∧ fval .f32 1 = .fin false 1 (-149) := dk

theorem test_VersionsAndCommits : ∃ (w : Work) (core a : Nat) (v : VerByte),
    (∀ c ∈ w.d.ctxs, ∀ e ∈ c.hwatch, ownerExited w.d c e = false) ∧ v ∈ w.d.vers ∧
    (v.core == core && committing w.d core v.at_) = true ∧ v.addr = a ∧
    (∀ u ∈ w.d.vers, (u.core == core && committing w.d core u.at_) = true → u.addr = a → u ≠ v → u.serial < v.serial) :=
  let v : VerByte := { core := 0, ctx := 1, task := 0, wave := 0, at_ := 3, fence := 0, serial := 1, addr := 8, val := 5, restored := false }
  let b : Boundary := { num := 1, serial := 0, entry := false, start := 4, written := false, done := false }
  ⟨{ d := { Dev.reset with vers := [v], cc := 5 }.updCore 0 (fun c => { c with started := 1, boundary := some b }), m := Memory.empty, ws := [] },
    0, 8, v, fun _ h => absurd h List.not_mem_nil, nth 0 rfl, dk, rfl, by
    intro u hu _ _ h; exact absurd (List.mem_singleton.mp hu) h⟩

theorem test_CommittedBytesAreRead : ∃ (w : Work) (x : View) (k : Nat), keyPhased k = true ∧
    (∀ v ∈ w.d.vers, v.core = x.core → v.task = x.task → v.addr ≠ k) ∧
    (∀ h ∈ w.d.home, h.addr = k → h.serial ≤ x.floor w.d k) :=
  ⟨(one false []).state.work, (one false []).v.view (one false []).state.dev, 8, dk,
   fun _ h => absurd (show _ ∈ ([] : List VerByte) from h) List.not_mem_nil, fun _ h => absurd (show _ ∈ ([] : List HomeByte) from h) List.not_mem_nil⟩

/-- The setup with the descriptor of its launch changed at a dword, and with a parameter block of 16 bytes. -/
def Setup.desc (u : Setup) (i x : Nat) : Setup :=
  { u with d := { u.d with launches := u.d.launches.map (fun l => { l with desc := l.desc.set i (BitVec.ofNat 64 x), params := List.replicate 16 7 }) } }

theorem test_ParameterLoadsAndPrefetches :
    (∃ s f x l, Issues s (.ldp f) x ∧ x.GuardReady ∧ x.w.d.launchOf x.v = some l ∧ x.active ≠ [] ∧
      bits x.f.x13 0 12 % (tyWidth x.f.ty / 8) = 0 ∧ bits x.f.x13 0 12 + tyWidth x.f.ty / 8 ≤ l.paramBytes) ∧
    (∃ s f x l, Issues s (.ldp f) x ∧ x.GuardReady ∧ x.w.d.launchOf x.v = some l ∧ x.active ≠ [] ∧
      bits x.f.x13 0 12 % (tyWidth x.f.ty / 8) ≠ 0) ∧
    (∃ s f x l, Issues s (.ldp f) x ∧ x.GuardReady ∧ x.w.d.launchOf x.v = some l ∧ x.active ≠ [] ∧
      bits x.f.x13 0 12 % (tyWidth x.f.ty / 8) = 0 ∧ l.paramBytes < bits x.f.x13 0 12 + tyWidth x.f.ty / 8) ∧
    (∃ s f x l, Issues s (.ldp f) x ∧ x.GuardReady ∧ x.w.d.launchOf x.v = some l ∧ x.active = []) ∧
    (∃ s f x, Issues s (.pref f) x ∧ x.Readable x.active [[.ptr]]) :=
  let u := (one false [(0x2000, .ptr)]).desc 8 (2 * 2 ^ 16)
  let l : Launch := u.d.launches.headD (Launch.fresh 1 1 0 [])
  let f (n : BitVec 13) : Form := { f1 .n64 with x13 := n }
  let g : Form := { f 8 with guard := { inv := true, p := 7 } }
  let p : Form := { n1 .empty with x13 := 0x100 }
  ⟨⟨u.state, f 8, u.issue (.ldp (f 8)), l, iss, gd, dk, dk, dk, dk⟩,
   ⟨u.state, f 4, u.issue (.ldp (f 4)), l, iss, gd, dk, dk, dk⟩,
   ⟨u.state, f 16, u.issue (.ldp (f 16)), l, iss, gd, dk, dk, dk, dk⟩,
   ⟨u.state, g, u.issue (.ldp g), l, iss, gd, dk, dk⟩,
   ⟨u.state, p, u.issue (.pref p), iss, rd⟩⟩

theorem test_RangesAndMaintenanceIssue :
    (∃ s i f x l g t ts, (i, g) ∈ rangeForms x l f ∧ Issues s i x ∧ x.Once g.accs l ∧
      rangeTarget x (opnd (x.vals l) 0) ((atomOfCode x.f.rangeOp).getD .add) g.share = .targets (t :: ts) ∧ x.MayAccess (g.entry x t.2)) ∧
    (∃ s i f x l g c m a, (i, g) ∈ rangeForms x l f ∧ Issues s i x ∧ x.Once g.accs l ∧
      rangeTarget x (opnd (x.vals l) 0) ((atomOfCode x.f.rangeOp).getD .add) g.share = .trap c m a) ∧
    (∃ s i f x l op, (i, op) ∈ maintForms ((opnd (x.vals l) 0).setWidth 57) (opnd (x.vals l) 1).toNat f ∧ Issues s i x ∧
      x.Once [[.ptr], [.n32, .n64]] l ∧ (opnd (x.vals l) 0).toNat % 128 ≠ 0) ∧
    (∃ s i f x l op, (i, op) ∈ maintForms ((opnd (x.vals l) 0).setWidth 57) (opnd (x.vals l) 1).toNat f ∧ Issues s i x ∧
      x.Once [[.ptr], [.n32, .n64]] l ∧ (opnd (x.vals l) 0).toNat % 128 = 0 ∧ (opnd (x.vals l) 1).toNat % 128 = 0 ∧
      2 ^ 32 < (opnd (x.vals l) 1).toNat) ∧
    (∃ s i f x l op, (i, op) ∈ maintForms ((opnd (x.vals l) 0).setWidth 57) (opnd (x.vals l) 1).toNat f ∧ Issues s i x ∧
      x.Once [[.ptr], [.n32, .n64]] l ∧ (opnd (x.vals l) 0).toNat % 128 = 0 ∧ (opnd (x.vals l) 1).toNat = 0) ∧
    (∃ s i f x l op, (i, op) ∈ maintForms ((opnd (x.vals l) 0).setWidth 57) (opnd (x.vals l) 1).toNat f ∧ Issues s i x ∧
      x.Once [[.ptr], [.n32, .n64]] l ∧ (opnd (x.vals l) 1).toNat = 2 ^ 32 ∧
      x.MayAccess { x.recOf 0 14 (maskOf (x.active.take 1)) op [] with state := .walk }) ∧
    (∃ s i f x tags, (i, tags) ∈ [(Instr.abupd f, []), (.abred f, [x.f.ty]), (.discard f, []), (.wback f, []), (.inval f, [])] ∧
      Issues s i x ∧ x.GuardReady ∧ x.active = []) :=
  let u := one false [(0x2000, .ptr), (0, .n64)]
  let w := one false [(0x2000, .ptr), (2 ^ 32, .n64)]
  let r : Form := { f1 .n32 with x13 := 0xFF }
  let h : Form := { n2 .empty with guard := { inv := true, p := 7 } }
  let b := one false [(0x2002, .ptr), (2 ^ 32 + 128, .n64)]
  let k := one false [(0x2000, .ptr), (2 ^ 32 + 128, .n64)]
  ⟨⟨u.state, .abred r, r, u.issue (.abred r), 0, _, (0, .virt 0x2000), [], nth 1 rfl, iss, oc, dk, ma⟩,
   ⟨b.state, .abred r, r, b.issue (.abred r), 0, _, tAlign, 0, 0x2002, nth 1 rfl, iss, oc, dk⟩,
   ⟨b.state, .wback (n2 .empty), n2 .empty, b.issue (.wback (n2 .empty)), 0, _, nth 1 rfl, iss, oc, dk⟩,
   ⟨k.state, .wback (n2 .empty), n2 .empty, k.issue (.wback (n2 .empty)), 0, _, nth 1 rfl, iss, oc, dk⟩,
   ⟨u.state, .wback (n2 .empty), n2 .empty, u.issue (.wback (n2 .empty)), 0, _, nth 1 rfl, iss, oc, dk⟩,
   ⟨w.state, .discard (n2 .empty), n2 .empty, w.issue (.discard (n2 .empty)), 0, _, nth 0 rfl, iss, oc, dk, ma⟩,
   ⟨u.state, .inval h, h, u.issue (.inval h), _, nth 4 rfl, iss, gd, dk⟩⟩

theorem test_FencesAndPhasesPass :
    (∃ s f x, Issues s (.fence f) x ∧ x.p.stage = .idle ∧ x.Drained (bits x.f.x13 0 3)) ∧
    (∃ s f x, Issues s (.fence f) x ∧ x.p.stage = .fence [4] [] ∧ fenceDone x.v [4] [] = true) ∧
    (∃ s f x, Issues s (.phase f) x ∧ x.p.stage = .idle ∧ allowanceOk s.dev x.v = true ∧ x.Drained 5) ∧
    (∃ s f x, Issues s (.phase f) x ∧ x.p.stage = .phaseFence [4] [] ∧ fenceDone x.v [4] [] = true) ∧
    (∃ s f x, Issues s (.phase f) x ∧ x.p.stage = .phase 0 ∧ 0 ≤ (s.dev.core x.core).entered) ∧
    (∃ s f x, Issues s (.fencesc f) x ∧ x.p.stage = .idle ∧ x.Drained (max 5 (bits x.f.x13 0 3))) ∧
    (∃ s f x, Issues s (.fencesc f) x ∧ x.p.stage = .scEntry (some 0) ∧ 0 ≤ (s.dev.core x.core).entered) ∧
    (∃ s f x, Issues s (.fencesc f) x ∧ x.p.stage = .scEntry none ∧ (s.dev.core x.core).boundary = none ∧ readsComplete s.dev x.core = true) ∧
    (∃ s f x b, Issues s (.fencesc f) x ∧ x.p.stage = .scEntry none ∧ (s.dev.core x.core).boundary = some b) :=
  let u := one false []
  let a (x : Stage) := u.at_ (fun p => { p with stage := x })
  let b : Boundary := { num := 1, serial := 0, entry := false, start := 4, written := false, done := false }
  let w : Setup := { a (.scEntry none) with d := u.d.updCore (u.d.coreOf u.v) (fun c => { c with boundary := some b }) }
  let f : Form := { n1 .empty with x13 := 6 }
  ⟨⟨u.state, f, u.issue (.fence f), iss, rfl, by unfold Iss.Drained; decide +kernel⟩,
   ⟨(a (.fence [4] [])).state, f, (a (.fence [4] [])).issue (.fence f), iss, rfl, dk⟩,
   ⟨u.state, n1 .empty, u.issue (.phase (n1 .empty)), iss, rfl, dk, by unfold Iss.Drained; decide +kernel⟩,
   ⟨(a (.phaseFence [4] [])).state, n1 .empty, (a (.phaseFence [4] [])).issue (.phase (n1 .empty)), iss, rfl, dk⟩,
   ⟨(a (.phase 0)).state, n1 .empty, (a (.phase 0)).issue (.phase (n1 .empty)), iss, rfl, Nat.zero_le _⟩,
   ⟨u.state, f, u.issue (.fencesc f), iss, rfl, by unfold Iss.Drained; decide +kernel⟩,
   ⟨(a (.scEntry (some 0))).state, f, (a (.scEntry (some 0))).issue (.fencesc f), iss, rfl, Nat.zero_le _⟩,
   ⟨(a (.scEntry none)).state, f, (a (.scEntry none)).issue (.fencesc f), iss, rfl, dk, dk⟩,
   ⟨w.state, f, w.issue (.fencesc f), b, iss, rfl, dk⟩⟩

/-! ## Buffers, messages, engines, groups and system forms: what their statements assume can be met -/

/-- Bytes of words from an offset of the share on. -/
def shareCells (off : Nat) (ws : List Nat) : List Host.Cell :=
  (enum (ws.flatMap (fun x => wordBytes (BitVec.ofNat 64 x)))).map (fun ib => (kShare 0 0 (off + ib.1), ib.2))

/-- A buffer of 4 slots of 128 bytes, two taken and one of them filled. -/
def someBuf : Buf := (Buf.takeN 2 ((Buf.unbound 0).bind { at_ := 0, base := 0, bytes := 128, count := 4 })).signal 1

/-- The setup of a service wave whose task has a share of 8 KiB, two buffers, a ring and a descriptor, and whose launch has a
group of the waves 0 and 1. -/
def stock (es : List (Nat × Ty)) : Setup :=
  let u := (one false es).desc 8 (2 ^ 55 + 2 * 2 ^ 49 + 2 ^ 45 + 2 ^ 38)
  let g : Group := { Group.unused with mode := 1, members := [0, 1], count := 2 }
  { u with
    v := { u.v with service := true, gids := gidsOf [g] 0 }
    m := Memory.empty.writeAll handTables
    d := { u.d with
      launches := u.d.launches.map (fun l => { l with groups := [g] })
      tasks := u.d.tasks.map (fun t => { t with
        quads := [{
        share := 8192, placed := 8192, bufs := [someBuf, Buf.unbound 1], rings := [{ phys := 0, slots := List.replicate 8 (false, 9), waited := [] }]
        descs := [(0, none)] }] }) } }

theorem test_BufferFormsComplete :
    (∃ s f x l b, Issues s (.cbwait f) x ∧ x.Once [] l ∧ x.OwnBuf b ∧ x.bufSettled b = true ∧ cbCount x.f ≤ b.filled) ∧
    (∃ s f x l b, Issues s (.cbfree f) x ∧ x.Once [] l ∧ x.OwnBuf b ∧ x.bufSettled b = true ∧ cbCount x.f ≤ b.free ∧
      b.inOrder x.cc (counterPlace 3 x.v.n 0) = true ∧ takesFirst x.w.d x.v.task x.v.place (cbIndex x.f) (counterPlace 3 x.v.n 0) b = false) ∧
    (∃ s f x l b, Issues s (.cbsig f) x ∧ x.Once [] l ∧ x.OwnBuf b ∧ recFree x.v = true) ∧
    (∃ s f x l b, Issues s (.cbpop f) x ∧ x.Once [] l ∧ x.OwnBuf b ∧ recFree x.v = true) ∧
    (∃ s f x l, Issues s (.cbinit f) x ∧ x.Once [[.n32, .i32], [.n32, .i32]] l ∧
      bits x.f.x13 0 5 < x.launch Launch.nb ∧ bits (opnd (x.vals l) 0) 0 32 % 128 = 0 ∧ bits (opnd (x.vals l) 1) 21 11 = 0 ∧
      bits (opnd (x.vals l) 1) 10 2 = 0 ∧ 2 ≤ bits (opnd (x.vals l) 1) 12 9 ∧ bits (opnd (x.vals l) 1) 12 9 ≤ 256 ∧
      1 ≤ bits (opnd (x.vals l) 1) 0 10 ∧ bits (opnd (x.vals l) 1) 0 10 ≤ 512 ∧
      bits (opnd (x.vals l) 0) 0 32 + 128 * bits (opnd (x.vals l) 1) 0 10 * bits (opnd (x.vals l) 1) 12 9 ≤ x.share ∧
      (taskChains x.w x.v.task x.v.place).any (fun ws => ws.any (namesBuf (bits x.f.x13 0 5))) = false) :=
  let u := stock []
  let w := stock [(7680, .n32), (2 * 2 ^ 12 + 2, .n32)]
  let f : Form := { f1 .empty with x13 := 0 }
  let n : Form := { n1 .empty with x13 := 3 * 32 }
  let i : Form := { n2 .empty with x13 := 1 }
  ⟨⟨u.state, f, u.issue (.cbwait f), 0, someBuf, iss, oc, ⟨dk, dk, dk⟩, dk, dk⟩,
   ⟨u.state, { f with x13 := 32 }, u.issue (.cbfree { f with x13 := 32 }), 0, someBuf, iss, oc, ⟨dk, dk, dk⟩, dk⟩,
   ⟨u.state, n, u.issue (.cbsig n), 0, someBuf, iss, oc, ⟨dk, dk, dk⟩, dk⟩,
   ⟨u.state, n, u.issue (.cbpop n), 0, someBuf, iss, oc, ⟨dk, dk, dk⟩, dk⟩,
   ⟨w.state, i, w.issue (.cbinit i), 0, iss, oc, dk⟩⟩

theorem test_BuffersAreFirstInFirstOut : ∃ (y : BufBind) (n : Nat), n ≤ y.count ∧ 0 < y.count :=
  ⟨{ at_ := 8, base := 0, bytes := 128, count := 2 }, 2, by decide⟩

theorem test_RingsAndMessagesComplete :
    (∃ s f x l, Issues s (.spost f) x ∧ x.Once [[.n32, .i32]] l ∧ ringIndex x.f < x.launch Launch.ns ∧ recFree x.v = true) ∧
    (∃ s f x l g, Issues s (.swait f) x ∧ x.Once [] l ∧ ringAt x.w.d x.v.task x.v.place (ringIndex x.f) = some g ∧
      ringIndex x.f < x.launch Launch.ns ∧ (g.slots.getD (ringSlot x.f) (false, 0)).1 = x.f.x13.getLsbD 6 ∧
      dueOn x.w.d x.v.task x.v.place (1, 8 * ringIndex x.f + ringSlot x.f) = [] ∧
      ownCounter x.v (1, 8 * ringIndex x.f + ringSlot x.f) = false) ∧
    (∃ s f x, Issues s (.send f) x ∧ x.GuardReady ∧ x.active = []) ∧
    (∃ s f x pl q, Issues s (.send f) x ∧ x.GuardReady ∧ x.active ≠ [] ∧ formPlace x.f = some pl ∧ placeQuad x.w.d x.v pl = some q ∧
      (∀ l ∈ x.active, ∀ e ∈ (x.v.lane l).q.take (bits x.f.x13 8 4), e.pending x.cc = false ∧ e.tag ≠ .empty) ∧ recFree x.v = true) ∧
    (∃ s f x, Issues s (.inwait f) x ∧ x.GuardReady ∧ x.active = []) ∧
    (∃ s f x, Issues s (.inwait f) x ∧ x.GuardReady ∧ inboxReady x.cc x.v (bits x.f.x13 0 2) 0 = true) :=
  let u := stock [(5, .n32)]
  let f : Form := { n1 .empty with x13 := 56 }
  let r : Form := { f1 .empty with x13 := 56 }
  let d : Form := { n1 .empty with x13 := 0x1FF, imm := some 0x10003 }
  let g : Guard := { inv := true, p := 7 }
  let i : Form := { n1 .empty with x13 := 3 }
  let w : Setup := { u with v := { u.v with inboxes := List.replicate 4 [{ key := 0, fill := some [], readyAt := 0 }] } }
  ⟨⟨u.state, f, u.issue (.spost f), 0, iss, oc, dk, dk⟩,
   ⟨u.state, r, u.issue (.swait r), 0, { phys := 0, slots := List.replicate 8 (false, 9), waited := [] }, iss, oc, dk, dk, dk, dk, dk⟩,
   ⟨u.state, { d with guard := g }, u.issue (.send { d with guard := g }), iss, gd, dk⟩,
   ⟨u.state, d, u.issue (.send d), (formPlace d).getD { kind := 0, dx := 0, dy := 0, index := 0 }, (0, 0), iss, gd, dk, dk, dk, dk, dk⟩,
   ⟨u.state, { i with guard := g }, u.issue (.inwait { i with guard := g }), iss, gd, dk⟩,
   ⟨w.state, i, w.issue (.inwait i), iss, gd, dk⟩⟩

/-- A descriptor of 16 bytes of the share (R326). -/
def descriptor : List Nat := [2 ^ 62 + 2 ^ 58, 0, 0, 2 ^ 32 + 16]

theorem test_CopiesAndDescriptorsComplete :
    (∃ s f x l, Issues s (.copy f) x ∧ x.Once [[.n32, .i32]] l ∧ bits (opnd (x.vals l) 0) 0 32 < x.share ∧
      bits (opnd (x.vals l) 0) 0 32 % 32 = 0 ∧
      ((x.w.d.quad (x.w.d.posOf x.v)).engines.getD (chooseEngine (x.w.d.quad (x.w.d.posOf x.v)) (bits x.f.x13 8 2))
        { chains := [], seq := 0, done := [] }).chains.length < 16 ∧ recFree x.v = true ∧
      (x.f.x13.getLsbD 12 = true → inboxRoom x.v (bits x.f.x13 10 2) = true)) ∧
    (∃ s f x l, Issues s (.cstat f) x ∧ x.Once [[.n32]] l) ∧
    (∃ s f x l, Issues s (.tdesc f) x ∧ x.Once [[.n32, .i32]] l ∧ bits x.f.x13 0 6 < x.launch Launch.nd ∧
      bits (opnd (x.vals l) 0) 0 32 % 128 = 0 ∧ bits (opnd (x.vals l) 0) 0 32 + 128 ≤ x.share ∧
      shareUnsettled x.v (bits (opnd (x.vals l) 0) 0 32) 128 = false ∧
      lostIn x.w.d (kShare x.v.task x.v.place (bits (opnd (x.vals l) 0) 0 32)) 128 = none ∧
      let im := readImage x.w x.v.task x.v.place (bits (opnd (x.vals l) 0) 0 32)
      descFormOk im = true ∧ descBase im % descElem im = 0 ∧ descSpanOk im x.share = true ∧
      (taskChains x.w x.v.task x.v.place).any (fun ws => ws.any (namesDesc (bits x.f.x13 0 6))) = false) :=
  let u := stock [(8160, .n32)]
  let w := stock [(8064, .n32)]
  let z : Setup := { w with m := Memory.empty.writeAll (shareCells 8064 descriptor) }
  let f : Form := { f1 .empty with x13 := 0x1E00 }
  ⟨⟨u.state, f, u.issue (.copy f), 0, iss, oc, dk⟩,
   ⟨u.state, f1 .empty, u.issue (.cstat (f1 .empty)), 0, iss, oc⟩,
   ⟨z.state, n1 .empty, z.issue (.tdesc (n1 .empty)), 0, iss, oc, dk⟩⟩

theorem test_NotificationPopsComplete :
    (∃ s f x l c, Issues s (.nqpop f) x ∧ x.Once [] l ∧ x.w.d.ctx x.v.ctx = some c ∧ x.service = true ∧ c.nqCount = 0) ∧
    (∃ s f x l c k, Issues s (.nqpop f) x ∧ x.Once [] l ∧ x.w.d.ctx x.v.ctx = some c ∧ x.service = true ∧ c.nqCount ≠ 0 ∧
      direct x.w c (c.nqSlot c.nqHead) false = .key k) :=
  let u := stock []
  let c : Ctx := { newCtx 1 0 0 0x1000 with nextLaunch := 2 }
  let e : Ctx := { c with nqBase := 0x4000, nqTail := 1 }
  let w : Setup := { u with d := { u.d with ctxs := [e] } }
  ⟨⟨u.state, f1 .empty, u.issue (.nqpop (f1 .empty)), 0, c, iss, oc, dk, rfl, dk⟩,
   ⟨w.state, f1 .empty, w.issue (.nqpop (f1 .empty)), 0, e, kHbm 0x4000, iss, oc, dk, rfl, dk, dk⟩⟩

/-- The group of the waves 0 and 1. -/
def pair : Group := { Group.unused with mode := 1, members := [0, 1], count := 2 }

theorem test_GroupBarriersComplete :
    (∃ s i x l g, Issues s i x ∧ (∃ f, i = .garr f ∨ i = .gbar f) ∧ x.InGroup [] l g ∧ x.p.stage = .idle ∧
      ((x.v.gid (gidOf x.f)).arr = false ∨ released x.v (gidOf x.f) g = true) ∧ fenceDone x.v [] (fenceSet x.w.d x.v 0).2 = true) ∧
    (∃ s f x l g b, Issues s (.garr f) x ∧ x.InGroup [] l g ∧ x.p.stage = .arrive b ∧ b ≤ (x.w.d.core x.core).committed ∧
      ((x.v.gid (gidOf x.f)).arr = true → (x.v.gid (gidOf x.f)).gen ≠ g.gen) ∧ recFree x.v = true) ∧
    (∃ s f x l g b, Issues s (.gbar f) x ∧ x.InGroup [] l g ∧ x.p.stage = .arrive b ∧ b ≤ (x.w.d.core x.core).committed ∧
      ((x.v.gid (gidOf x.f)).arr = true → (x.v.gid (gidOf x.f)).gen ≠ g.gen) ∧ recFree x.v = true) ∧
    (∃ s f x l g b, Issues s (.gbar f) x ∧ x.InGroup [] l g ∧ x.p.stage = .arrive b ∧ b ≤ (x.w.d.core x.core).committed ∧
      (x.v.gid (gidOf x.f)).arr = true ∧ (x.v.gid (gidOf x.f)).gen = g.gen) ∧
    (∃ s f x l g, Issues s (.gwait f) x ∧ x.InGroup [] l g ∧ x.p.stage = .idle ∧ (x.v.gid (gidOf x.f)).arr = false) ∧
    (∃ s i x l b g, Issues s i x ∧ (∃ f, i = .gwait f ∨ i = .gbar f) ∧ x.InGroup [] l g ∧ x.p.stage = .entering (some b) ∧
      b ≤ (x.w.d.core x.core).entered) :=
  let u := stock []
  let a (y : Stage) := u.at_ (fun p => { p with stage := y })
  let c : Form := { f1 .empty with ds := .frame, fd := 6 }
  let w : Setup := { a (.arrive 0) with v := u.v.setGid 0 (fun y => { y with arr := true, gen := pair.gen }) }
  ⟨⟨u.state, .garr (n1 .empty), u.issue (.garr (n1 .empty)), 0, pair, iss, ⟨_, .inl rfl⟩, ⟨oc, dk, dk⟩, rfl, .inl dk, dk⟩,
   ⟨(a (.arrive 0)).state, n1 .empty, (a (.arrive 0)).issue (.garr (n1 .empty)), 0, pair, 0, iss, ⟨oc, dk, dk⟩, rfl, Nat.zero_le _, dk, dk⟩,
   ⟨(a (.arrive 0)).state, c, (a (.arrive 0)).issue (.gbar c), 0, pair, 0, iss, ⟨oc, dk, dk⟩, rfl, Nat.zero_le _, dk, dk⟩,
   ⟨w.state, c, w.issue (.gbar c), 0, pair, 0, iss, ⟨oc, dk, dk⟩, rfl, Nat.zero_le _, dk, dk⟩,
   ⟨u.state, c, u.issue (.gwait c), 0, pair, iss, ⟨oc, dk, dk⟩, rfl, dk⟩,
   ⟨(a (.entering (some 0))).state, .gbar c, (a (.entering (some 0))).issue (.gbar c), 0, 0, pair, iss, ⟨_, .inr rfl⟩, ⟨oc, dk, dk⟩, rfl, Nat.zero_le _⟩⟩

theorem test_GroupSlotsComplete :
    (∃ s f x l g, Issues s (.gset f) x ∧ x.InGroup [[]] l g ∧ recFree x.v = true) ∧
    (∃ s f x l g, Issues s (.gget f) x ∧ x.InGroup [] l g ∧ recFree x.v = true) :=
  let u := stock [(5, .n32)]
  let f : Form := { n1 .empty with x13 := 28 }
  let g : Form := { f1 .empty with x13 := 28 }
  ⟨⟨u.state, f, u.issue (.gset f), 0, pair, iss, ⟨oc, dk, dk⟩, dk⟩,
   ⟨u.state, g, u.issue (.gget g), 0, pair, iss, ⟨oc, dk, dk⟩, dk⟩⟩

theorem test_LaunchInstructionsIssue :
    (∃ s f x l, Issues s (.launch f) x ∧ x.Once [[.ptr]] l ∧ (opnd (x.vals l) 0).toNat % 128 ≠ 0) ∧
    (∃ s f x l, Issues s (.launch f) x ∧ x.Once [[.ptr]] l ∧ (opnd (x.vals l) 0).toNat % 128 = 0 ∧ recFree x.v = true) :=
  let u := stock [(0x2040, .ptr)]
  let w := stock [(0x2080, .ptr)]
  ⟨⟨u.state, f1 .empty, u.issue (.launch (f1 .empty)), 0, iss, oc, dk⟩,
   ⟨w.state, f1 .empty, w.issue (.launch (f1 .empty)), 0, iss, oc, dk, dk⟩⟩

theorem test_SpecialRegistersComplete :
    (∃ s f x l, Issues s (.srd f) x ∧ x.Once [] l ∧ srService (bits x.f.x13 0 8) = true ∧ x.service = false) ∧
    (∃ s f x l, Issues s (.srd f) x ∧ x.Once [] l ∧ (srService (bits x.f.x13 0 8) = true → x.service = true) ∧
      bits x.f.x13 0 8 = 0x41 ∧ 1 < x.launch Launch.nb) ∧
    (∃ s f x l, Issues s (.srd f) x ∧ x.Once [] l ∧ bits x.f.x13 0 8 = 0x42 ∧ x.launch Launch.nb = 2) ∧
    (∃ s f x l, Issues s (.swr f) x ∧ x.Once [[.n32, .i32, .raw]] l ∧ bits x.f.x13 0 8 = 8 ∧ 2 ≤ (opnd (x.vals l) 0).toNat) ∧
    (∃ s f x l, Issues s (.swr f) x ∧ x.Once [[.n32, .i32, .raw]] l ∧ bits x.f.x13 0 8 = 7 ∧ (opnd (x.vals l) 0).toNat < 32) :=
  let u := one false []
  let w := stock [(31, .n32)]
  let f (n : BitVec 13) : Form := { f1 .empty with x13 := n }
  let g (n : BitVec 13) : Form := { n1 .empty with x13 := n }
  ⟨⟨u.state, f 0x83, u.issue (.srd (f 0x83)), 0, iss, oc, dk, dk⟩,
   ⟨w.state, f 0x41, w.issue (.srd (f 0x41)), 0, iss, oc, dk, dk, dk⟩,
   ⟨w.state, f 0x42, w.issue (.srd (f 0x42)), 0, iss, oc, dk, dk⟩,
   ⟨w.state, g 8, w.issue (.swr (g 8)), 0, iss, oc, dk, dk⟩,
   ⟨w.state, g 7, w.issue (.swr (g 7)), 0, iss, oc, dk, dk⟩⟩

theorem test_PlacesDeliver : ∃ s f x l p, Issues s (.place f) x ∧
    Iss.Once { x with g := { x.g with ra := x.f.imm.isNone } } [[.i32, .n32, .raw]] l ∧
    placeOf ((x.f.imm.getD (opnd (Iss.vals { x with g := { x.g with ra := x.f.imm.isNone } } l) 0)).setWidth 32) = some p :=
  let u := stock [(0x10003, .n32)]
  ⟨u.state, f1 .empty, u.issue (.place (f1 .empty)), 0, (placeOf 0x10003).getD { kind := 0, dx := 0, dy := 0, index := 0 }, iss, oc, dk⟩

theorem test_PageTableFormsComplete :
    (∃ s f x l, Issues s (.ptset f) x ∧ Iss.Once { x with g := { x.g with rb := x.f.x13.getLsbD 5 } } [[.ptr], [.n64, .i64, .raw]] l ∧
      x.service = true ∧ recFree x.v = true) ∧
    (∃ s f x l, Issues s (.ptset f) x ∧ Iss.Once { x with g := { x.g with rb := x.f.x13.getLsbD 5 } } [[.ptr], [.n64, .i64, .raw]] l ∧
      x.service = false) ∧
    (∃ s f x l, Issues s (.pgcnt f) x ∧ x.Once [[.ptr]] l ∧ x.service = true ∧ recFree x.v = true) ∧
    (∃ s f x l, Issues s (.pgcnt f) x ∧ x.Once [[.ptr]] l ∧ x.service = false) ∧
    (∃ s f x l, Issues s (.tlbinv f) x ∧ x.Once [[.ptr], [.n32, .n64]] l ∧ x.p.stage = .idle ∧ x.service = false) ∧
    (∃ s f x l, Issues s (.tlbinv f) x ∧ x.Once [[.ptr], [.n32, .n64]] l ∧ x.p.stage = .idle ∧ x.service = true ∧
      (opnd (x.vals l) 0).toNat % 4096 = 0 ∧ (opnd (x.vals l) 1).toNat % 4096 = 0 ∧ (opnd (x.vals l) 1).toNat ≤ 2 ^ 40 ∧
      x.v.recs.all (fun r => r.kind != 11) = true ∧ recFree x.v = true) ∧
    (∃ s f x l k, Issues s (.tlbinv f) x ∧ x.Once [[.ptr], [.n32, .n64]] l ∧ x.p.stage = .tlbinv k ∧
      s.dev.invals.all (fun i => i.num != k) = true) :=
  let u := stock [(0x4000, .ptr), (2 ^ 40, .n64)]
  let v := one false [(0x4000, .ptr), (2 ^ 40, .n64)]
  let w := u.at_ (fun p => { p with stage := .tlbinv 4 })
  let f : Form := { f2 .empty with x13 := 32 }
  let g : Form := { f1 .empty with x13 := 16 }
  ⟨⟨u.state, f, u.issue (.ptset f), 0, iss, oc, rfl, dk⟩, ⟨v.state, g, v.issue (.ptset g), 0, iss, oc, rfl⟩,
   ⟨u.state, f1 .empty, u.issue (.pgcnt (f1 .empty)), 0, iss, oc, rfl, dk⟩, ⟨v.state, f1 .empty, v.issue (.pgcnt (f1 .empty)), 0, iss, oc, rfl⟩,
   ⟨v.state, n2 .empty, v.issue (.tlbinv (n2 .empty)), 0, iss, oc, rfl, rfl⟩,
   ⟨u.state, n2 .empty, u.issue (.tlbinv (n2 .empty)), 0, iss, oc, rfl, rfl, dk⟩,
   ⟨w.state, n2 .empty, w.issue (.tlbinv (n2 .empty)), 0, 4, iss, oc, rfl, dk⟩⟩

/-! ## Steps of the device: what their statements assume can be met -/

/-- The hand-placed device (log 2), with memory holding its page tables; and a device as a state. -/
def base : Dev := { handDev Dev.reset false with agenda := [] }
def matrixBase : Dev := { handDev Dev.reset true with agenda := [] }
def st (d : Dev) : State := { dev := d, mem := Memory.empty.writeAll handTables }

/-- Its wave, task, launch and context, and the device with one of them changed. -/
def theWave : Wave := base.waves.headD (one false []).v
def theTask : Task := base.tasks.headD (newTask (Launch.fresh 1 1 0 []) 0 0 0)
def theLaunch : Launch := base.launches.headD (Launch.fresh 1 1 0 [])
def theCtx : Ctx := base.ctxs.headD (newCtx 1 0 0 0)
def matrixWave : Wave := matrixBase.waves.headD (one true []).v
def withWave (f : Wave → Wave) : Dev := { base with waves := [f theWave] }
def withTask (f : Task → Task) : Dev := { base with tasks := [f theTask] }
def withSplit (f : Split → Split) : Dev := withWave (fun v => { v with splits := v.splits.map f })
def theSplit : Split := theWave.splits.headD (Split.first 0 0)

/-- A package with every place present (R377). -/
def present (d : Dev) : Dev := { d with placeMap := List.replicate 8 ((List.range 9).map (fun i => 16 + i)) }

/-- A record entry of the wave. -/
def entry (op : RecOp) (st : RecState) : Rec :=
  { seq := 0, cls := 0, kind := 0, split := 0, pc := 0x10000, lanes := 1, op, accesses := [], phys := [], state := st, done := 0,
    results := [], frozen := false, replaying := false, inbox := none, messages := []
    at_ := 0, num := 0, late := none, direct := 0, injected := true, wasHeld := false, walking := false }
def withRec (r : Rec) : Dev := withWave (fun v => { v with recs := [r] })

theorem test_WalksFindLeaves : ∃ (w : Work) (c : Ctx) (a : VAddr) (e : Word) (k l n : Nat), walk w c a = .leaf e k l n :=
  ⟨(st base).work, theCtx, 0x10000, 0xE03, kHbm 0x3000, 2, 1073741824, dk⟩

theorem test_PageTableWritesStayInTheGroup : ∃ (w : Work) (c : Ctx) (a : VAddr), walk w c a = .absent :=
  ⟨(st base).work, theCtx, 2 ^ 40, dk⟩

/-- An enabled queue of one descriptor at 0x20000. -/
def oneQueue (x : Option VAddr) (r : Bool) : LaunchQueue :=
  { q0 := BitVec.ofNat 64 (2 ^ 63 + 2 ^ 32 + 4), q1 := 0x20000, head := 65535, tail := 0, waitsOn := x, resumed := r }

theorem test_LaunchUnitAccepts :
    (∃ s : State, ∃ n q c, s.dev.mg.safe = false ∧ s.dev.mg.recMode ≠ .replay ∧ queueReady s.dev n false q c ∧ nextQueue s.dev = some n ∧
      (match takeAt s.work (.queue n) c q.headAt with | .inl x => x.2.d.queues[n]?.isSome | .inr _ => false) = true) ∧
    (∃ s : State, ∃ n q c, s.dev.mg.safe = false ∧ s.dev.mg.recMode ≠ .replay ∧ queueReady s.dev n true q c) ∧
    (∃ s : State, ∃ q c, s.dev.mg.safe = false ∧ s.dev.mg.recMode ≠ .replay ∧ requestReady s.dev false q c) ∧
    (∃ s : State, ∃ n i id c t, s.dev.mg.safe = false ∧ nextInput s.dev = some (.launch (.queue n) i id t) ∧ s.dev.ctx i = some c) ∧
    (∃ (s : State) (n : Nat) (q : LaunchQueue), s.dev.queues[n]? = some q) :=
  let d (q : LaunchQueue) : Dev := { base with queues := [q], tails := [(0, 0)] }
  let q : LaunchReq := { wave := 0, seq := 0, ctx := 1, addr := 0x20000, waitsOn := none, resumed := false }
  let t : Taken := { desc := [], reason := 1, reserved := false, marion := [], groups := [], params := [] }
  ⟨⟨st (d (oneQueue none false)), 0, oneQueue none false, theCtx, rfl, dk, by unfold queueReady; decide +kernel, dk, dk⟩,
   ⟨st (d (oneQueue (some 0) true)), 0, oneQueue (some 0) true, theCtx, rfl, dk, by unfold queueReady; decide +kernel⟩,
   ⟨st { base with launchReqs := [q], waves := [{ theWave with recs := [entry (.launch 0) .sent] }] }, q, theCtx, rfl, dk,
    by unfold requestReady; decide +kernel⟩,
   ⟨st { base with mg := { base.mg with recMode := .replay, recLog := [.launch (.queue 0) 1 2 t] } }, 0, 1, 2, theCtx, t, rfl, dk, dk⟩,
   ⟨State.reset, 63, { q0 := 0, q1 := 0, head := 0, tail := 0, waitsOn := none, resumed := false }, dk⟩⟩

theorem test_LaunchesRunAndRetire :
    (∃ s : State, ∃ c i l, s.dev.launch c i = some l ∧ l.state = .running ∧ ∀ t ∈ s.dev.tasks, t.ctx = c → t.launchId = i → taskOver s.dev t = true) ∧
    (∃ s : State, ∃ t ox oy l, s.dev.mg.safe = false ∧ nextPlacement s.dev = some (t, ox, oy) ∧ s.dev.launch t.ctx t.launchId = some l ∧ t.placedOnce = false) ∧
    (∃ s : State, (rotationChoice s.dev).isSome = true) :=
  let w : Task := newTask theLaunch 1 0 0
  let o : Task := { theTask with quads := [{ share := 0, placed := 0, bufs := List.replicate 32 (Buf.unbound 0), rings := [], descs := [] }] }
  let d := present { base with cc := 2 ^ 40, tasks := [o, w], launches := [{ theLaunch with desc := (theLaunch.desc.set 0 (BitVec.ofNat 64 (12 * 2 ^ 27 + 6 * 2 ^ 24))).set 8 (BitVec.ofNat 64 (32 * 2 ^ 49)) }] }
  ⟨⟨st (withTask (fun t => { t with state := .ended })), 1, 1, theLaunch, dk, rfl, dk⟩,
   ⟨st (present { base with tasks := [newTask theLaunch 0 0 0] }), newTask theLaunch 0 0 0, 0, 0, theLaunch, rfl, dk, dk, rfl⟩,
   ⟨st d, dk⟩⟩

theorem test_CyclesPass :
    (∃ s : State, ∃ u v p, s.dev.wave u = some v ∧ v.spilled ≠ [] ∧ 4096 ≤ v.spillCount ∧ longestLoaded v = some p) ∧
    (∃ s : State, ∃ u v p, s.dev.wave u = some v ∧ v.swapDue = true ∧ v.split v.swapSplit = some p ∧ inIssue s.dev v p = false) ∧
    (∃ s : State, ∃ u n v p, s.dev.wave u = some v ∧ v.split n = some p ∧ p.asleep = true ∧ p.sleep = 0) ∧
    (∃ s : State, ∃ u n v p y, s.dev.wave u = some v ∧ v.split n = some p ∧ p.yield = some y ∧ y.fresh = false ∧ (y.peers = [] ∨ y.until_ ≤ s.dev.cc)) :=
  let f (v : Wave) : Wave := { v with spilled := [1], spillCount := 4096, swapDue := true }
  let g (p : Split) : Split := { p with asleep := true, yield := some { until_ := 0, fresh := false, peers := [] } }
  ⟨⟨st (withWave f), 0, f theWave, theSplit, dk, dk, dk, dk⟩,
   ⟨st (withWave f), 0, f theWave, theSplit, dk, dk, dk, dk⟩,
   ⟨st (withSplit g), 0, 0, { theWave with splits := theWave.splits.map g }, g theSplit, dk, dk, rfl, rfl⟩,
   ⟨st (withSplit g), 0, 0, { theWave with splits := theWave.splits.map g }, g theSplit, _, dk, dk, rfl, rfl, .inl rfl⟩⟩

theorem test_ArrivalsAreTaken :
    (∃ s : State, ∃ u q v r, s.dev.wave u = some v ∧ v.rec_ q = some r ∧ repliesCome s.dev.cc r) ∧
    (∃ s : State, ∃ u q v r, s.dev.wave u = some v ∧ v.rec_ q = some r ∧ r.results = [] ∧ r.state = .sent ∧ r.frozen = false ∧
      r.injected = true ∧ r.op = .store 1 ∧ (performRec s.work v r).isSome = true) ∧
    (∃ s : State, ∃ u q v r c, s.dev.wave u = some v ∧ v.rec_ q = some r ∧ r.frozen = false ∧ r.injected = true ∧ r.state = .sent ∧
      r.op = .ptset 0x10000 false true 1 0 ∧ s.dev.ctx v.ctx = some c ∧ ∀ k, walk s.work c 0x10000 ≠ .lost k) ∧
    (∃ s : State, ∃ u q v r, s.dev.wave u = some v ∧ v.rec_ q = some r ∧ r.frozen = false ∧ r.injected = true ∧ r.state = .timed 0 ∧
      0 ≤ s.dev.cc ∧ r.op = .pgcnt 0 false) ∧
    (∃ s : State, ∃ u q v r d, s.dev.wave u = some v ∧ v.rec_ q = some r ∧ r.frozen = false ∧ r.injected = true ∧ r.state = .timed 0 ∧
      0 ≤ s.dev.cc ∧ r.op = .pgcnt 0 true ∧ heldResult s.dev v r .watchTable ((lanesOf r.lanes).headD 0) = none ∧
      keepFilters (performPgcnt s.dev v.ctx 0 true).1 ((lanesOf r.lanes).map (fun l =>
        recFilter v r .watchTable l [BitVec.ofNat 64 (performPgcnt s.dev v.ctx 0 true).2])) = some d) ∧
    (∃ s : State, ∃ u q v r d e, s.dev.wave u = some v ∧ v.rec_ q = some r ∧ r.frozen = false ∧ r.injected = true ∧ r.state = .timed 0 ∧
      0 ≤ s.dev.cc ∧ r.op = .post 0 0 0 ∧ counterTurn s.dev v r = true ∧ heldResult s.dev v r (.bufUnit v.task v.place) 0 = none ∧
      keepFilters s.dev [recFilter v r (.bufUnit v.task v.place) 0 []] = some d ∧ counterAct d v r = some e) ∧
    (∃ (s : State) (k : Nat) (x : Delivery), s.dev.deliveries[k]? = some x) :=
  let l : Rec := { entry (.load .n32 1 4) .replied with results := [(0, [(7, .n32)])] }
  let a : Access := { lane := 0, target := .quad 0 0, bytes := 1, data := [7], b := 0, c := 0 }
  let w : Rec := { entry (.store 1) .sent with accesses := [a], phys := [kShare 0 0 0] }
  let p : Rec := entry (.ptset 0x10000 false true 1 0) .sent
  let c (b : Bool) : Rec := entry (.pgcnt 0 b) (.timed 0)
  let o : Rec := entry (.post 0 0 0) (.timed 0)
  let x : Delivery := { wave := 0, inbox := 3, key := 0, vals := [] }
  let v (r : Rec) : Wave := { theWave with recs := [r] }
  let f : Filter := recFilter (v o) o (.bufUnit theWave.task theWave.place) 0 []
  ⟨⟨st (withRec l), 0, 0, v l, l, dk, dk, rfl, rfl, dk, .inr (.inl rfl), trivial⟩,
   ⟨st (withRec w), 0, 0, v w, w, dk, dk, rfl, rfl, rfl, rfl, rfl, dk⟩,
   ⟨st (withRec p), 0, 0, v p, p, theCtx, dk, dk, rfl, rfl, rfl, rfl, dk, fun k h => by
      have : walk (st (withRec p)).work theCtx 0x10000 = .leaf 0xE03 (kHbm 0x3000) 2 1073741824 := dk
      rw [this] at h; cases h⟩,
   ⟨st (withRec (c false)), 0, 0, v (c false), c false, dk, dk, rfl, rfl, rfl, Nat.zero_le _, rfl⟩,
   ⟨st (withRec (c true)), 0, 0, v (c true), c true, _, dk, dk, rfl, rfl, rfl, Nat.zero_le _, rfl, dk, Option.eq_some_of_isSome dk⟩,
   ⟨st (withRec o), 0, 0, v o, o, { withRec o with filters := [f] }, _, dk, dk, rfl, rfl, rfl, Nat.zero_le _, rfl, dk, dk, dk,
    Option.eq_some_of_isSome dk⟩,
   ⟨st { base with deliveries := [x] }, 0, x, rfl⟩⟩

theorem test_UnitsExecuteRequests :
    (∃ s : State, ∃ k q d w, s.dev.bankReqs[k]? = some q ∧ bankBehind s.dev q = false ∧ uninjected s.dev q.wave q.seq = false ∧
      bankBad (bankTaken s k).d q = [] ∧ keepFilters (bankLanes (bankTaken s k) q).2.2.d (bankLanes (bankTaken s k) q).2.1 = some d ∧
      (if bankI2 q.op then orderGate { (bankLanes (bankTaken s k) q).2.2 with d } true (q.die * 64 + q.bank) q.launchId q.tag
        else some { (bankLanes (bankTaken s k) q).2.2 with d }) = some w) ∧
    (∃ s : State, ∃ k q, s.dev.bankReqs[k]? = some q ∧ bankBehind s.dev q = false ∧ uninjected s.dev q.wave q.seq = false ∧
      bankBad (bankTaken s k).d q = [] ∧ keepFilters (bankLanes (bankTaken s k) q).2.2.d (bankLanes (bankTaken s k) q).2.1 = none) ∧
    (∃ s : State, ∃ k q, s.dev.groupReqs[k]? = some q ∧ q.at_ ≤ s.dev.cc ∧ uninjected s.dev q.wave q.seq = false ∧
      (s.dev.groupReqs.take k).all (fun r => r.wave != q.wave || r.entry != q.entry) = true ∧ groupI2 q.op = false) ∧
    (∃ s : State, ∃ k q d w, s.dev.groupReqs[k]? = some q ∧ q.at_ ≤ s.dev.cc ∧ uninjected s.dev q.wave q.seq = false ∧
      (s.dev.groupReqs.take k).all (fun r => r.wave != q.wave || r.entry != q.entry) = true ∧ groupI2 q.op = true ∧
      marked (groupTaken s k) q.ctx = false ∧ keepFilters (groupTaken s k) [groupFilter q] = some d ∧
      orderGate { s.work with d } false (q.entry % 8) q.launchId q.tag = some w) ∧
    (∃ w : Work, w.d.mg.recMode = .off) ∧
    (∃ (s : State) (k : Nat) (a : Ack), s.dev.acks[k]? = some a) ∧
    (∃ (s : State) (k c : Nat) (v : Wave) (r : Rec), (refusedRecs s.dev)[k]? = some (v, r, c) ∧ c + 64 ≤ s.dev.cc) :=
  let b (op : RecOp) : BankReq :=
    { wave := 0, seq := 0, ctx := 1, launchId := 1, task := 0, tag := 0, die := 0, bank := 0, src := 0, num := 0, op, lanes := 1
      accs := [({ lane := 0, target := .virt 0, bytes := 4, data := [], b := 1, c := 0 }, 3)] }
  let f : Filter := { unit := .bank 0, ctx := 1, launchId := 1, task := 0, tag := 9, step := 0, lane := 0, result := [], spilled := false }
  let g (op : RecOp) : GroupReq := { wave := 0, seq := 0, ctx := 1, launchId := 1, task := 0, tag := 0, entry := 0, n := 0, op, at_ := 0 }
  let r : Rec := entry (.launch 0) (.refused 0)
  let o : RecOp := .load .n32 1 4
  let a : RecOp := .atom .add .n32 true
  let e (op : RecOp) : Dev := withRec (entry op .sent)
  let full : Dev := { e a with bankReqs := [b a], filters := List.replicate 1024 f }
  let s : State := st { e (.arrival 0 0) with groupReqs := [g (.arrival 0 0)] }
  ⟨⟨st { e o with bankReqs := [b o] }, 0, b o, { e o with bankReqs := [] }, _, dk, dk, dk, dk, dk, rfl⟩,
   ⟨st full, 0, b a, dk, dk, dk, dk, dk⟩,
   ⟨st { e (.gget 0 0) with groupReqs := [g (.gget 0 0)] }, 0, g (.gget 0 0), dk, dk, dk, dk, dk⟩,
   ⟨s, 0, g (.arrival 0 0), _, _, dk, dk, dk, dk, dk, dk, Option.eq_some_of_isSome dk, Option.eq_some_of_isSome dk⟩,
   ⟨(st base).work, rfl⟩,
   ⟨st { base with acks := [{ unit := .launchUnit, launchId := 1, tag := 0, step := 0 }] }, 0, _, rfl⟩,
   ⟨st { withRec r with cc := 64 }, 0, 0, { theWave with recs := [r] }, r, dk, dk⟩⟩

theorem test_GroupsCountArrivals : ∃ (g : Group) (cc n k : Nat), k < g.slots.length ∧ k < g.sets.length ∧
    (∀ m v0 t0, g.sets.getD k none = some (cc, m, v0, t0) → m ≤ n) :=
  ⟨Group.unused, 1, 0, 7, by decide, by decide, fun _ _ _ h => by simp [Group.unused] at h⟩

theorem test_BoundariesAndTicksPass :
    (∃ s : State, ∃ core e, (s.dev.core core).boundary = none ∧ (s.dev.core core).merged = some e ∧ (s.dev.core core).ended < s.dev.cc) ∧
    (∃ s : State, ∃ core, (s.dev.core core).boundary = none ∧ (s.dev.core core).merged = none) ∧
    (∃ s : State, ∃ core b, (s.dev.core core).boundary = some b ∧ b.written = false ∧ storesStand s.dev core = true) ∧
    (∃ s : State, ∃ core b, (s.dev.core core).boundary = some b ∧ b.written = true ∧ b.done = false ∧ awaitsNone s.dev b.serial = true) ∧
    (∃ s : State, ∃ task core n nx ny nc t l, s.dev.task task = some t ∧ s.dev.launch t.ctx t.launchId = some l ∧ core / 4 % 12 < l.w ∧ core / 4 / 12 < l.h ∧
      (neighbours l.w l.h (core / 4 % 12) (core / 4 / 12) (core % 4)).getD n none = some (nx, ny, nc)) ∧
    (∃ s : State, s.dev.hb.next ≤ s.dev.cc) ∧ (∃ s : State, s.dev.hb.domRunning = true ∧ s.dev.hb.domNext ≤ s.dev.cc) ∧
    (∃ s : State, ∃ u n c v p, s.dev.wave u = some v ∧ v.split n = some p ∧ p.stage = .scGuard c ∧ c + 1024 ≤ s.dev.cc) :=
  let k (f : Core → Core) : State := st { base with cc := 9, cores := f Core.reset :: base.cores.drop 1 }
  let b : Boundary := { num := 1, serial := 2, entry := true, start := 0, written := true, done := false }
  let g (p : Split) : Split := { p with stage := .scGuard 0 }
  let p := (neighbours 1 1 0 0 3).getD 0 none
  ⟨⟨k (fun c => { c with merged := some true }), 0, true, dk⟩,
   ⟨k id, 0, dk⟩,
   ⟨k (fun c => { c with boundary := some { b with written := false } }), 0, { b with written := false }, dk, rfl, dk⟩,
   ⟨k (fun c => { c with boundary := some b }), 0, b, dk, rfl, rfl, dk⟩,
   ⟨st base, 0, 3, 0, (p.getD (0, 0, 0)).1, (p.getD (0, 0, 0)).2.1, (p.getD (0, 0, 0)).2.2, theTask, theLaunch, dk, dk, dk, dk, dk⟩,
   ⟨st { base with cc := 1024 }, dk⟩,
   ⟨st { base with hb := { base.hb with domRunning := true } }, rfl, dk⟩,
   ⟨st { withSplit g with cc := 1024 }, 0, 0, 0, { theWave with splits := theWave.splits.map g }, g theSplit, dk, dk, rfl, dk⟩⟩

theorem test_MemorySystemSteps :
    (∃ s : State, ∃ u q w, xlateRec (beginWalk s.work u q) u q false = some w) ∧
    (∃ (s : State) (k : Nat) (i : Inval), s.dev.invals[k]? = some i ∧ i.pending.all (fun p => !notLanded s.dev p) = true ∧
      ∀ x, i.wave = some x → uninjected s.dev x.1 x.2 = false) ∧
    (∃ (s : State) (c : Nat) (va : VAddr) (size : Nat), (s.dev.ctx c).isSome = true ∧ va.toNat % 4096 = 0 ∧ size % 4096 = 0 ∧ size ≠ 0) ∧
    (∃ (s : State) (i : Nat) (x : Counted), s.dev.counted[i]? = some x ∧ resetDue s.dev x = false ∧
      ∀ j y, j < i → s.dev.counted[j]? = some y → resetDue s.dev y = true) ∧
    (∃ (s : State) (core line : Nat) (m : Miss), (s.dev.core core).misses.find? (fun m => m.line == line) = some m) ∧
    (∃ (s : State) (line : Nat), (∃ x ∈ s.dev.dirs, x.line = line) ∧ (∃ c ∈ s.dev.dirty, lineOf c.key = line) ∧
      ∃ x ∈ s.dev.visitors, x.line = line) ∧
    (∃ (p : Part) (a : Nat), partHolds p a = true) ∧
    (∃ s : State, ∃ task t i, s.dev.task task = some t ∧ t.image = some i ∧ i.spilled < i.size ∧
      2097152 * (s.dev.toyboxPending.getD s.dev.toybox) < toyboxUsed s.dev ∧ i.bad = false) :=
  let a : Access := { lane := 0, target := .virt 0x20000, bytes := 4, data := [], b := 0, c := 0 }
  let r : Rec := { entry (.load .n32 1 4) .walk with accesses := [a] }
  let i : Inval := { num := 1, ctx := 1, lo := 0, size := 4096, all := false, but := [], wave := none, pending := [(0, 4)] }
  let m : Miss := { line := 5, at_ := 0, epoch := 0, snap := { upTo := 0, open_ := [] }, joined := [] }
  let g : Image := { codeBase := 0, tick := 0, policy := 0, edited := false, size := 9, spilled := 8, bad := false }
  let t : Task := { theTask with image := some g }
  ⟨⟨st (withRec r), 0, 0, _, Option.eq_some_of_isSome dk⟩,
   ⟨st { base with invals := [i] }, 0, i, rfl, dk, fun _ h => nomatch h⟩, ⟨st base, 1, 0x1000, 0x1000, dk⟩,
   ⟨st { base with counted := [{ ctx := 1, page := 0, size := 0, of_ := .free }] }, 0, _, rfl, dk, fun _ _ h => absurd h (Nat.not_lt_zero _)⟩,
   ⟨st { base with cores := [{ Core.reset with misses := [m] }] }, 0, 5, m, dk⟩,
   ⟨st { base with
      dirs := [{ line := 8, presence := 1, held := true }], visitors := [{ die := 0, line := 8, ctx := 1, va := 0 }]
      dirty := [{ key := kHbm 128, old := 7, task := none }] }, 8, ⟨_, nth 0 rfl, rfl⟩, ⟨_, nth 0 rfl, dk⟩, _, nth 0 rfl, rfl⟩,
   ⟨.slice 0 0, kHbm 0, dk⟩,
   ⟨st { base with tasks := [t], toyboxPending := some 0 }, 0, t, g, dk, rfl, by decide, dk, rfl⟩⟩

/-- An image in progress in a wave's operation slot. -/
abbrev AtImage (s : State) (u k : Nat) (kind : SlotKind) (v : Wave) (o : OpSlot) : Prop :=
  s.dev.wave u = some v ∧ v.slots[k]? = some o ∧ o.kind = kind ∧ slotRuns s.dev v o = true ∧ o.begun = true

theorem test_MatrixEngineSteps :
    (∃ s : State, ∃ k u n chain t, s.dev.gov.held = false ∧ s.dev.gov.hot = false ∧ (s.dev.quad k).leaveQueue = (chain, u, n) :: t) ∧
    (∃ s : State, ∃ u k : Nat, ∃ v : Wave, ∃ o : OpSlot, s.dev.wave u = some v ∧ v.slots[k]? = some o ∧ o.kind = .mma ∧ slotRuns s.dev v o = true ∧ o.begun = true ∧
      (v.tile o.tile).progress < opKs o.operand) ∧
    (∃ s : State, ∃ u k : Nat, ∃ v : Wave, ∃ o : OpSlot, s.dev.wave u = some v ∧ v.slots[k]? = some o ∧ o.kind = .mmas ∧ slotRuns s.dev v o = true ∧ o.begun = true ∧
      (∀ m ∈ partners s.dev v o, opKs m.2.operand ≤ (m.1.tile m.2.tile).progress) ∧
      o.begunAt + 32 + (((partners s.dev v o).map (fun m => m.2.passes)).sum + matRate (opAt o.operand) - 1) / matRate (opAt o.operand) ≤ s.dev.cc ∧
      (partners s.dev v o).length = 2) ∧
    (∀ alike : Bool, ∃ s : State, ∃ task core t l as, s.dev.task task = some t ∧ s.dev.launch t.ctx t.launchId = some l ∧
      core / 4 % 12 < l.w ∧ core / 4 / 12 < l.h ∧ (t.cores[(core / 4 / 12 * l.w + core / 4 % 12) * 4 + core % 4]?).bind
        (readyGang s.dev task (core / 4 % 12) (core / 4 / 12) (core % 4)) = some as ∧ (as.drop 1).all (fun a =>
          arrivalsAgree (as.headD { wave := 0, order := 0, set := 0, operand := 0, b := 0 }) a) = alike) ∧
    (∃ s : State, ∃ u k : Nat, ∃ v : Wave, ∃ o : OpSlot, ∃ x, AtImage s u k .ald v o ∧ o.begunAt + 1 ≤ s.dev.cc ∧
      o.bytes < imageBytes o.canonical ∧ firstStop (unitWays (chunkWork s v o) v o s.work.freeBit.1 (chunkUnits o)) = some x) ∧
    (∃ s : State, ∃ u k : Nat, ∃ v : Wave, ∃ o : OpSlot, AtImage s u k .ald v o ∧ o.begunAt + 1 ≤ s.dev.cc ∧
      o.bytes < imageBytes o.canonical ∧ firstStop (unitWays (chunkWork s v o) v o s.work.freeBit.1 (chunkUnits o)) = none) ∧
    (∃ s : State, ∃ u k : Nat, ∃ v : Wave, ∃ o : OpSlot, ∃ x, AtImage s u k .astr v o ∧ o.bytes + 256 < imageBytes o.canonical ∧
      o.begunAt + 25 ≤ s.dev.cc ∧ firstStop (unitWays (chunkWork s v o) v o s.work.freeBit.1 (chunkUnits o)) = some x) ∧
    (∃ s : State, ∃ u k : Nat, ∃ v : Wave, ∃ o : OpSlot, AtImage s u k .astr v o ∧ o.bytes + 256 < imageBytes o.canonical ∧
      o.begunAt + 25 ≤ s.dev.cc ∧ firstStop (unitWays (chunkWork s v o) v o s.work.freeBit.1 (chunkUnits o)) = none) ∧
    (∃ s : State, ∃ u k : Nat, ∃ v : Wave, ∃ o : OpSlot, ∃ x, AtImage s u k .astr v o ∧ imageBytes o.canonical ≤ o.bytes ∧
      counting s.dev (.op u o.order) = false ∧ firstStop (unitWays s.work.freeBit.2 v o s.work.freeBit.1 (imageUnits o)) = some x) ∧
    (∃ s : State, ∃ u k : Nat, ∃ v : Wave, ∃ o : OpSlot, ∃ w, AtImage s u k .astr v o ∧ imageBytes o.canonical ≤ o.bytes ∧
      counting s.dev (.op u o.order) = false ∧ firstStop (unitWays s.work.freeBit.2 v o s.work.freeBit.1 (imageUnits o)) = none ∧
      storeImage s.work.freeBit.2 v o (unitWays s.work.freeBit.2 v o s.work.freeBit.1 (imageUnits o)) = some w) :=
  let o : OpSlot := { OpSlot.make .mmas 0 0x10000 0x20000 0 operandWord with begun := true, passes := 4 }
  let e : OpSlot := { OpSlot.make .mma 0 0x10000 0x20000 0 operandWord with begun := true }
  let a (k : SlotKind) (x : Word) (n : Nat) : OpSlot := { OpSlot.make k 0 x 0 0 0 with canonical := true, scratch := true, begun := true, bytes := n }
  let t (v : Wave) : Wave := v.setTile 0 { v.tile 0 with progress := 1 }
  let w (o : OpSlot) : Wave := { matrixWave with slots := [o] }
  let j : Wave := t (w { o with joint := some 4 })
  let i : Wave := { j with uid := 7, n := 7 }
  let l (u : Nat) (b : Word) : LatchArrival := { wave := u, order := 0, set := 3, b, operand := operandWord }
  let m : Wave := { w e with uid := 1, n := 1, j := 1 }
  let g (b : Word) : State := st { matrixBase with waves := [w e, m], tasks := [{ theTask with cores := theTask.cores.map (fun c =>
    { c with gang := 3, latch := [l 0 0, l 1 b] }) }] }
  let q : TaskQuad := { share := 8192, placed := 8192, bufs := [], rings := [], descs := [] }
  let s (o : OpSlot) : State := st { matrixBase with waves := [w o], cc := 64, tasks := [{ theTask with quads := [q] }] }
  ⟨⟨st { matrixBase with quads := [{ Quad.reset with leaveQueue := [(false, 0, 0)] }] }, 0, 0, 0, false, [], rfl, rfl, rfl⟩,
   ⟨s e, 0, 0, w e, e, rfl, rfl, rfl, dk, rfl, dk⟩,
   ⟨st { matrixBase with waves := [j, i], cc := 1024 }, 0, 0, j, { o with joint := some 4 }, rfl, rfl, rfl, dk, rfl, dk, dk, dk⟩,
   fun b => ⟨g (if b then 0 else 1), 0, 0, (g (if b then 0 else 1)).dev.tasks.headD theTask, matrixBase.launches.headD theLaunch,
     [l 0 0, l 1 (if b then 0 else 1)], by cases b <;> exact ⟨rfl, rfl, dk, dk, dk, dk⟩⟩,
   ⟨s (a .ald 8192 0), 0, 0, w (a .ald 8192 0), a .ald 8192 0, .fault tBounds 0, ⟨rfl, rfl, rfl, dk, rfl⟩, dk⟩,
   ⟨s (a .ald 0 0), 0, 0, w (a .ald 0 0), a .ald 0 0, ⟨rfl, rfl, rfl, dk, rfl⟩, dk⟩,
   ⟨s (a .astr 8192 0), 0, 0, w (a .astr 8192 0), a .astr 8192 0, .fault tBounds 0, ⟨rfl, rfl, rfl, dk, rfl⟩, dk⟩,
   ⟨s (a .astr 0 0), 0, 0, w (a .astr 0 0), a .astr 0 0, ⟨rfl, rfl, rfl, dk, rfl⟩, dk⟩,
   ⟨s (a .astr 8192 8192), 0, 0, w (a .astr 8192 8192), a .astr 8192 8192, .fault tBounds 0, ⟨rfl, rfl, rfl, dk, rfl⟩, dk⟩,
   ⟨s (a .astr 0 8192), 0, 0, w (a .astr 0 8192), a .astr 0 8192, _, ⟨rfl, rfl, rfl, dk, rfl⟩, dk, dk, dk, Option.eq_some_of_isSome dk⟩⟩

/-- A chain of the wave at entry 0 of the share, and the stock device with a chain on its quad's first engine and words in its
share. -/
def oneChain : Chain :=
  { seq := 0, wave := 0, n := 0, ctx := 1, launchId := 1, task := 0, pos := 0, core := 0, rec_ := 0, pc := 0x10000, inbox := none
    head := 0, entry := 0, words := [], lines := [], used := [], index := none, os := 0, od := 0, loops := [], moved := 0, taken := [], landed := false, written := 0
    leaveAsked := none, leaveDone := false, wait := .none, step := 0, running := true }
def onEngine (d : Dev) (c : Chain) : Dev :=
  { d with quads := { Quad.reset with engines := updAt Quad.reset.engines 0 (fun e => { e with chains := [c] }) } :: d.quads.drop 1 }
def chained (c : Chain) (ws : List Nat) : State :=
  { dev := onEngine { (stock []).state.dev with issuer := none } c, mem := Memory.empty.writeAll (shareCells c.entry ws) }
def chainWave : Wave := (stock []).wave

/-- A chain stands at the entry of a state's share. -/
theorem chain_at {s : State} {c : Chain} {kind : Nat} (h : (decide (chainOf s.dev 0 0 = some c ∧
      s.dev.wave c.wave = some chainWave ∧ c.running = true ∧ c.landed = false ∧ c.wait = .none ∧
      counting s.dev (.chain c.wave c.rec_) = false ∧ ((taskQuad s.dev c.task c.pos).any (fun q => c.entry + 32 ≤ q.share)) = true ∧
      lostIn s.dev (kShare c.task c.pos c.entry) 32 = none ∧ (entryWords s c).getD 3 0 = 0 ∧ ceKind ((entryWords s c).getD 0 0) = kind)) = true := by decide +kernel) :
    ChainAt s 0 0 kind c chainWave (fun i => (entryWords s c).getD i 0) := by
  obtain ⟨h1, h2, h3, h4, h5, hc, h6, hl, h7, h8⟩ := of_decide_eq_true h
  refine ⟨h1, h2, .inl h3, h4, ⟨by rw [h5]; decide, by rw [h5]; exact fun _ h => nomatch h⟩, fun _ _ => hc, ?_, fun _ => hl,
    fun _ => rfl, h7, h8⟩
  cases hq : taskQuad s.dev c.task c.pos with
  | none => rw [hq] at h6; exact nomatch h6
  | some q => rw [hq] at h6; exact ⟨q, rfl, of_decide_eq_true h6⟩

theorem test_ChainEntriesStep :
    (∃ s : State, ∃ k e c v x, ChainAt s k e 0 c v x ∧ bits (x 0) 0 60 = 0 ∧ x 1 = 0 ∧ x 2 = 0) ∧
    (∃ s : State, ∃ k e c v x l ls, ChainAt s k e 3 c v x ∧ bits (x 0) 0 32 = 0 ∧ bits (x 0) 44 16 ≠ 0 ∧ bits (x 0) 32 12 ≠ 0 ∧
      enterLoop c (bits (x 0) 44 16) = some (l :: ls) ∧ l.count = 1) ∧
    (∃ s : State, ∃ k e c v x l ls, ChainAt s k e 3 c v x ∧ bits (x 0) 0 32 = 0 ∧ bits (x 0) 44 16 ≠ 0 ∧ bits (x 0) 32 12 ≠ 0 ∧
      enterLoop c (bits (x 0) 44 16) = some (l :: ls) ∧ 2 ≤ l.count ∧ c.head + 32 * bits (x 0) 32 12 ≤ c.entry ∧
      (∀ m ∈ ls, m.entry < c.entry → m.entry + 32 * bits (x 0) 32 12 < c.entry)) ∧
    (∃ s : State, ∃ k e c v x b, ChainAt s k e 4 c v x ∧ bits (x 0) 58 2 ≤ 1 ∧ bits (x 0) 38 12 ≠ 0 ∧ bits (x 0) 32 6 = 0 ∧ x 1 = 0 ∧
      x 2 = 0 ∧ bits (x 0) 52 6 < 32 ∧ bufAt s.dev c.task c.pos (bits (x 0) 52 6) = some b ∧ b.unready = false) ∧
    (∃ s : State, ∃ k e c v x b, ChainAt s k e 6 c v x ∧ bits (x 0) 57 2 = 0 ∧ bits (x 0) 32 20 = 0 ∧ x 1 = 0 ∧ x 2 = 0 ∧
      0 < bits (x 0) 0 32 ∧ bits (x 0) 0 32 ≤ 256 ∧ bufAt s.dev c.task c.pos (bits (x 0) 52 5) = some b ∧ b.unready = false ∧ b.bound = true ∧
      bits (x 0) 0 32 ≤ (if (x 0).getLsbD 59 then b.free else b.filled)) ∧
    (∃ s : State, ∃ k e c v x b, ChainAt s k e 6 c v x ∧ bits (x 0) 57 2 = 0 ∧ bits (x 0) 32 20 = 0 ∧ x 1 = 0 ∧ x 2 = 0 ∧
      0 < bits (x 0) 0 32 ∧ bits (x 0) 0 32 ≤ 256 ∧ bufAt s.dev c.task c.pos (bits (x 0) 52 5) = some b ∧ b.unready = false ∧ b.bound = true ∧
      (if (x 0).getLsbD 59 then b.free else b.filled) < bits (x 0) 0 32 ∧ c.wait ≠ .waitcb) ∧
    (∃ s : State, ∃ k e c v x b, ChainAt s k e 6 c v x ∧ bits (x 0) 57 2 = 0 ∧ bits (x 0) 32 20 = 0 ∧ x 1 = 0 ∧ x 2 = 0 ∧
      0 < bits (x 0) 0 32 ∧ bits (x 0) 0 32 ≤ 256 ∧ bufAt s.dev c.task c.pos (bits (x 0) 52 5) = some b ∧ b.unready = false ∧ b.bound = false) ∧
    (∃ s : State, ∃ k e c v x b, ChainAt s k e 5 c v x ∧ (x 0).getLsbD 58 = false ∧ (x 0).getLsbD 59 = false ∧ (x 0).getLsbD 51 = false ∧
      bits (x 0) 32 19 = 0 ∧ x 1 = 0 ∧ x 2 = 0 ∧ bits (x 0) 52 6 < 32 ∧ 0 < bits (x 0) 0 32 ∧ bits (x 0) 0 32 ≤ 256 ∧
      bufAt s.dev c.task c.pos (bits (x 0) 52 6) = some b ∧ b.unready = false ∧ b.inOrder s.dev.cc (c.place 0 e) = true ∧
      b.unsent.length < bits (x 0) 0 32) ∧
    (∃ s : State, ∃ k e c v x b d, ChainAt s k e 5 c v x ∧ (x 0).getLsbD 58 = false ∧ (x 0).getLsbD 59 = false ∧ (x 0).getLsbD 51 = false ∧
      bits (x 0) 32 19 = 0 ∧ x 1 = 0 ∧ x 2 = 0 ∧ bits (x 0) 52 6 < 32 ∧ 0 < bits (x 0) 0 32 ∧ bits (x 0) 0 32 ≤ 256 ∧
      bufAt s.dev c.task c.pos (bits (x 0) 52 6) = some b ∧ b.unready = false ∧ b.inOrder s.dev.cc (c.place 0 e) = true ∧
      bits (x 0) 0 32 ≤ b.unsent.length ∧
      signalAt s.dev e (reading s c) v false (bits (x 0) 52 6) (BitVec.ofNat 64 (bits (x 0) 0 32)) c.pos = some d) :=
  let c := oneChain
  let l : Chain := { c with entry := 64 }
  let one := 3 * 2 ^ 60 + 2 ^ 44 + 2 ^ 32
  let two := 3 * 2 ^ 60 + 2 * 2 ^ 44 + 2 ^ 32
  let i := 4 * 2 ^ 60 + 2 ^ 38
  let w (n : Nat) := 6 * 2 ^ 60 + n
  let g (n : Nat) := 5 * 2 ^ 60 + n
  ⟨⟨chained c [0], 0, 0, c, chainWave, _, chain_at, dk⟩,
   ⟨chained l [one], 0, 0, l, chainWave, _, { entry := 64, count := 1, total := 1 }, [], chain_at, dk⟩,
   ⟨chained l [two], 0, 0, l, chainWave, _, { entry := 64, count := 2, total := 2 }, [], chain_at, dk⟩,
   ⟨chained c [i], 0, 0, c, chainWave, _, someBuf, chain_at, dk⟩,
   ⟨chained c [w 1], 0, 0, c, chainWave, _, someBuf, chain_at, dk⟩,
   ⟨chained c [w 200], 0, 0, c, chainWave, _, someBuf, chain_at, dk⟩,
   ⟨chained c [w (2 ^ 52 + 1)], 0, 0, c, chainWave, _, Buf.unbound 1, chain_at, dk⟩,
   ⟨chained c [g 2], 0, 0, c, chainWave, _, someBuf, chain_at, dk⟩,
   ⟨chained c [g 1], 0, 0, c, chainWave, _, someBuf, _, chain_at, dk, dk, dk, dk, dk,
    by decide +kernel, dk, dk, dk, dk, dk, dk, dk,
    Option.eq_some_of_isSome dk⟩⟩

/-- The state with two descriptors of 16 bytes sealed, one of the share and one of a slot (R326, R328). -/
def described (s : State) : State :=
  let im (space : Nat) : List Word := [BitVec.ofNat 64 (space * 2 ^ 62 + 2 ^ 58), 0, 0, BitVec.ofNat 64 (2 ^ 32 + 16)]
  { s with
    dev := { s.dev with
    tasks := s.dev.tasks.map (fun t => { t with
    quads := t.quads.map (fun q => { q with descs := [(0, some (im 1)), (1, some (im 2))] }) }) } }

/-- An entry whose elements move. -/
def entryGoes (w : Work) (c : Chain) (v : Wave) (x : Nat → Word) : Bool := match planTransfer w c v false (x 0) (x 1) (x 2) with
  | .go t => match runTransfer w 0 0 c v t with
    | .ok _ => true
    | .error _ => false
  | _ => false
theorem goes {w : Work} {c : Chain} {v : Wave} {x : Nat → Word} (h : entryGoes w c v x = true) :
    ∃ t w', planTransfer w c v false (x 0) (x 1) (x 2) = .go t ∧ runTransfer w 0 0 c v t = .ok w' := by
  unfold entryGoes at h
  split at h
  · next t ht => split at h
                 · next w' hw => exact ⟨t, w', ht, hw⟩
                 · cases h
  · cases h

theorem bufs {d : Dev} {t b : Nat} {ps : List Nat} {f : Buf → Bool}
    (h : ps.all (fun q => (bufAt d t q b).all f) = true := by decide +kernel) : ∀ q ∈ ps, ∀ y, bufAt d t q b = some y → f y = true :=
  fun q hq y hy => by have := List.all_eq_true.mp h q hq; rwa [hy] at this

theorem test_ChainTransfersStep :
    (∃ s : State, ∃ k e c v q, chainOf s.dev k e = some c ∧ s.dev.wave c.wave = some v ∧ (c.running = true ∨ chainOpen s.dev c = true) ∧
      c.landed = false ∧ c.wait = .none ∧ taskQuad s.dev c.task c.pos = some q ∧ q.share < c.entry + 32) ∧
    (∃ s : State, ∃ k e c v q, chainOf s.dev k e = some c ∧ s.dev.wave c.wave = some v ∧ (c.running = true ∨ chainOpen s.dev c = true) ∧
      c.landed = false ∧ c.wait = .none ∧ taskQuad s.dev c.task c.pos = some q ∧ c.entry + 32 ≤ q.share ∧
      7 ≤ ceKind ((entryWords s c).getD 0 0)) ∧
    (∃ s : State, ∃ k e c v x ps b d, ChainAt s k e 1 c v x ∧ planTransfer s.work (reading s c) v false (x 0) (x 1) (x 2) = .slots ps b ∧
      (∀ q ∈ ps, ∀ y, bufAt s.dev c.task q b = some y → y.bound = true) ∧ takeSlots s.dev k e (reading s c) ps b = some d) ∧
    (∃ s : State, ∃ k e c v x ps b, ChainAt s k e 1 c v x ∧ planTransfer s.work (reading s c) v false (x 0) (x 1) (x 2) = .slots ps b ∧
      (∀ q ∈ ps, ∀ y, bufAt s.dev c.task q b = some y → y.bound = true) ∧ takeSlots s.dev k e (reading s c) ps b = none ∧ c.wait ≠ .slot) ∧
    (∃ s : State, ∃ k e c v x ps b, ChainAt s k e 1 c v x ∧ planTransfer s.work (reading s c) v false (x 0) (x 1) (x 2) = .slots ps b ∧
      (∀ q ∈ ps, ∀ y, bufAt s.dev c.task q b = some y → (!y.unready) = true) ∧
      ¬ (∀ q ∈ ps, ∀ y, bufAt s.dev c.task q b = some y → y.bound = true)) ∧
    (∃ s : State, ∃ k e c v x code, ChainAt s k e 2 c v x ∧ planTransfer s.work (reading s c) v true (x 0) (x 1) (x 2) = .fault code) ∧
    (∃ s : State, ∃ k e c v x t w, ChainAt s k e 1 c v x ∧ planTransfer s.work (reading s c) v false (x 0) (x 1) (x 2) = .go t ∧
      runTransfer s.work k e (reading s c) v t = .ok w) ∧
    (∃ s : State, ∃ k e c, chainOf s.dev k e = some c ∧ c.landed = true ∧ (c.leaveAsked = none ∨ c.leaveDone = true) ∧
      (ceHold (c.words.headD 0) = true ∨ ∀ t ∈ c.taken, ∀ b, bufAt s.dev c.task t.1 (ceCbn (c.words.headD 0)) = some b → b.inOrder s.dev.cc (c.place 0 e) = true)) ∧
    (∃ s : State, ∃ k pos n t b, 4096 ≤ (s.dev.quad k).stallRun ∧ smallestFull s.dev (fullAwaited s.dev k) = some (t, pos, n) ∧
      bufAt s.dev t.uid pos n = some b ∧ growSlots b (s.dev.quad k).spare ≠ 0) ∧
    (∃ s : State, ∃ k pos n t b, 4096 ≤ (s.dev.quad k).stallRun ∧ smallestFull s.dev (fullAwaited s.dev k) = some (t, pos, n) ∧
      bufAt s.dev t.uid pos n = some b ∧ growSlots b (s.dev.quad k).spare = 0) :=
  let c := oneChain
  let e : Chain := { c with entry := 8192 }
  let l : Chain := { c with landed := true }
  let z : Chain := { c with wait := .slot }
  let slot (n : Nat) := 2 ^ 60 + 2 ^ 48 + 2 ^ 41 + n * 2 ^ 36
  let full : Buf := someBuf.takeN 2
  let f (s : State) : State := { s with
    dev := { s.dev with
    tasks := s.dev.tasks.map (fun t => { t with
    quads := t.quads.map (fun q => { q with bufs := [full] }) }) } }
  let g (n : Nat) (s : State) : State := { s with dev := s.dev.updQuad 0 (fun q => { q with stallRun := 4096, spare := n }) }
  let t (s : State) : Task := s.dev.tasks.headD (newTask (Launch.fresh 1 1 0 []) 0 0 0)
  let y := f (chained z [2 ^ 60])
  let m := described (chained c [2 ^ 60, 0, 32])
  let mx (i : Nat) : Word := (entryWords m c).getD i 0
  let ⟨mt, mw, mh⟩ := goes (w := m.work) (c := reading m c) (v := chainWave) (x := mx) (by decide +kernel)
  ⟨⟨chained e [], 0, 0, e, chainWave, _, dk, dk, .inl rfl, rfl, rfl, Option.eq_some_of_isSome dk, dk⟩,
   ⟨chained c [7 * 2 ^ 60], 0, 0, c, chainWave, _, dk, dk, .inl rfl, rfl, rfl, Option.eq_some_of_isSome dk, dk, dk⟩,
   ⟨described (chained c [slot 0]), 0, 0, c, chainWave, _, [0], 0, _, chain_at, dk, bufs, Option.eq_some_of_isSome dk⟩,
   ⟨described (f (chained c [slot 0])), 0, 0, c, chainWave, _, [0], 0, chain_at, dk, bufs, dk, by decide⟩,
   ⟨described (chained c [slot 1]), 0, 0, c, chainWave, _, [0], 1, chain_at, dk, bufs,
    fun h => absurd (h 0 (by decide) (Buf.unbound 1) (by decide +kernel)) (by decide)⟩,
   ⟨described (chained c [2 * 2 ^ 60 + 63 * 2 ^ 54]), 0, 0, c, chainWave, _, tProt, chain_at, dk⟩,
   ⟨m, 0, 0, c, chainWave, mx, mt, mw, chain_at, mh⟩,
   ⟨chained l [], 0, 0, l, dk, rfl, .inl rfl, .inr (fun _ h => absurd h List.not_mem_nil)⟩,
   ⟨g 8192 y, 0, 0, 0, t (g 8192 y), full, dk, dk, dk, dk⟩,
   ⟨g 0 y, 0, 0, 0, t (g 0 y), full, dk, dk, dk, dk⟩⟩
/-! ## Messages, traps, pre-emption, the meshes, the debugger and management: what their statements assume can be met -/

/-- A message to core 3 of the task, and its request. -/
def oneMsg : Msg :=
  { ctx := 1, launchId := 1, task := 0, sender := 0, senderUid := 0, split := 0, pc := 0x10000, lane := 0, handler := 0, payload := [] }
def msgReq (c : Option Nat) : MsgReq := { wave := 0, seq := 0, core := 3, msg := oneMsg, refusedAt := c }

/-- A notification. -/
def someNotif : Notif := { w0 := 1, w1 := 0, w2 := 0, w3 := 0 }

theorem written_of {w : Work} {c : Ctx} {n : Notif} (h : (match writeNotif w c n with
    | .written _ => true
    | _ => false) = true) : ∃ w', writeNotif w c n = .written w' := by
  split at h
  · next w' hw => exact ⟨w', hw⟩
  · cases h

theorem test_MessageStepsPass :
    (∃ s : State, ∃ k : Nat, ∃ q : MsgReq, ∃ t, s.dev.msgReqs[k]? = some q ∧ q.refusedAt = none ∧
      uninjected s.dev q.wave q.seq = false ∧ s.dev.task q.msg.task = some t ∧ t.holds = true) ∧
    (∃ s : State, ∃ k c : Nat, ∃ q : MsgReq, s.dev.msgReqs[k]? = some q ∧ q.refusedAt = some c ∧ c + 64 ≤ s.dev.cc) ∧
    (∀ b : Bool, ∃ s : State, ∃ core i slot m t l c,
      (enum (s.dev.core core).messages).find? (fun im => mayHandle s.dev im.2 && (handlerSlot s.dev core im.2.ctx).isSome) = some (i, m) ∧
      handlerSlot s.dev core m.ctx = some slot ∧ s.dev.task m.task = some t ∧ s.dev.launch m.ctx m.launchId = some l ∧
      s.dev.ctx m.ctx = some c ∧ (c.marion.getD m.handler 0).getLsbD 63 = b) ∧
    (∃ s : State, ∃ u c h rest w, s.dev.ctx u = some c ∧ c.held = h :: rest ∧
      (writeNotif s.work c h.entry = .written w ∨ writeNotif s.work c h.entry = .dropped w)) ∧
    (∃ s : State, ∃ b v w c, inputGate s.work (.mmio (blockOffset b + 0x010) v) = some w ∧ blockCtx w.d b = some c ∧ w.d.mg.safe = false ∧
      bits v 32 32 = 0 ∧ (c.nqTail + 2 ^ 32 - bits v 0 32) % 2 ^ 32 ≤ c.nqCount) ∧
    (∃ s : State, ∃ b v w c, inputGate s.work (.mmio (blockOffset b + 0x010) v) = some w ∧ blockCtx w.d b = some c ∧
      ¬ (bits v 32 32 = 0 ∧ (c.nqTail + 2 ^ 32 - bits v 0 32) % 2 ^ 32 ≤ c.nqCount)) :=
  let q (c : Option Nat) : Dev := { base with msgReqs := [msgReq c], cc := 64 }
  let k (m : List Word) : Dev := { base with cores := base.cores.set 3 { Core.reset with messages := [oneMsg] }, ctxs := [{ theCtx with marion := m }] }
  let h : Ctx := { theCtx with held := [{ unit := .launchUnit, entry := someNotif, fin := .xlate 0 true }], nqBase := 0x4000 }
  let ⟨hw, hh⟩ := written_of (w := (st { base with ctxs := [h] }).work) (c := h) (n := someNotif) (by decide +kernel)
  ⟨⟨st (q none), 0, msgReq none, theTask, rfl, rfl, dk, dk, dk⟩,
   ⟨st (q (some 0)), 0, 0, msgReq (some 0), rfl, rfl, dk⟩,
   fun b => match b with
     | true => ⟨st (k [BitVec.ofNat 64 (2 ^ 63)]), 3, 0, 0, oneMsg, theTask, theLaunch, { theCtx with marion := [BitVec.ofNat 64 (2 ^ 63)] }, dk, dk, dk, dk, dk, dk⟩
     | false => ⟨st (k []), 3, 0, 0, oneMsg, theTask, theLaunch, { theCtx with marion := [] }, dk, dk, dk, dk, dk, dk⟩,
   ⟨st { base with ctxs := [h] }, 1, h, { unit := .launchUnit, entry := someNotif, fin := .xlate 0 true }, [], hw, dk, rfl, .inl hh⟩,
   ⟨st base, 0, 0, _, theCtx, rfl, dk, dk, dk⟩,
   ⟨st base, 0, 1, _, theCtx, rfl, dk, dk⟩⟩

/-- A trap of the wave's split. -/
def someTrap : Trap := splitTrap theWave theSplit tBreak 0x10008 1 0 0

theorem test_TrapsHaltAndResume :
    (∃ s : State, s.dev.traps ≠ []) ∧
    (∃ s : State, ∃ b v w c, inputGate s.work (.mmio (blockOffset b + 0x028) v) = some w ∧ blockCtx w.d b = some c ∧ w.d.mg.safe = false ∧ bits v 48 16 = 0) ∧
    (∃ s : State, ∃ b v w c, inputGate s.work (.mmio (blockOffset b + 0x028) v) = some w ∧ blockCtx w.d b = some c ∧ ¬ bits v 48 16 = 0) ∧
    (∃ (v : Wave) (t : Trap) (p : Split), p ∈ v.splits ∧ (∀ q ∈ v.splits, q.num = p.num → q = p) ∧ t.wave = some v.uid ∧ t.split = some p.num) ∧
    (∃ (d : Dev) (ctx l n : Nat), (∃ v ∈ d.waves, v.ctx = ctx ∧ v.launchId = l ∧ v.n = n ∧ v.handler = none ∧ v.halted = true) ∧
      ∀ v ∈ d.waves, v.ctx = ctx → v.launchId = l → v.n = n → v.handler = none → v.halted = true → trapHeld d v = true) ∧
    (∃ (d : Dev) (v : Wave), v ∈ d.waves ∧ v.handler = none ∧ v.halted = true ∧ trapHeld d v = false) ∧
    (∃ c : Ctx, c.trapRecs.length ≤ 256 ∧ c.trapCount % 256 ≤ c.trapRecs.length) :=
  let h (v : Wave) : Wave := { v with halted := true }
  ⟨⟨st { base with traps := [someTrap] }, dk⟩,
   ⟨st base, 0, 0, _, theCtx, rfl, dk, dk, dk⟩,
   ⟨st base, 0, BitVec.ofNat 64 (2 ^ 48), _, theCtx, rfl, dk, dk⟩,
   ⟨theWave, someTrap, theSplit, dk, dk, dk, dk⟩,
   ⟨{ withWave h with ctxs := [{ theCtx with held := [{ unit := .launchUnit, entry := someNotif, fin := .trap 0 }] }] }, 1, 1, 0, dk⟩,
   ⟨withWave h, h theWave, dk⟩, ⟨theCtx, dk⟩⟩

/-- The task saved, with an image; and its context under a policy. -/
def savedDev (e bad : Bool) (p : BitVec 2) : Dev :=
  let g : Image := { codeBase := 0, tick := 0, policy := p, edited := e, size := 9, spilled := 0, bad }
  present { withTask (fun t => { t with state := .saved, image := some g }) with ctxs := [{ theCtx with policy := p }], waves := [] }

theorem test_PreemptionStepsPass :
    (∃ s : State, ∃ u t, s.dev.task u = some t ∧ (s.dev.traps.any (fun x => x.task == u && fatal x.code)) = false ∧ t.state = .saving ∧
      (s.dev.waves.any (fun v => v.task == u && v.stopped)) = false ∧ s.dev.toyboxPending = none) ∧
    (∃ s : State, ∃ u t, s.dev.task u = some t ∧ (s.dev.traps.any (fun x => x.task == u && fatal x.code)) = false ∧ t.state = .saving ∧
      (s.dev.waves.all (fun v => v.task != u || v.stopped)) = true ∧ settled s.work u = true) ∧
    (∃ s : State, ∃ u t, s.dev.task u = some t ∧ (s.dev.traps.any (fun x => x.task == u && fatal x.code)) = false ∧ t.state = .settled ∧
      reassembling s.dev t = false ∧ commitsUnderWay s.dev t = false) ∧
    (∀ b : Bool × Bool, ∃ s : State, ∃ t ox oy i l c, s.dev.mg.safe = false ∧ nextPlacement s.dev = some (t, ox, oy) ∧ t.image = some i ∧
      s.dev.launch t.ctx t.launchId = some l ∧ s.dev.ctx t.ctx = some c ∧ (s.dev.traps.any (fun x => x.task == t.uid)) = false ∧ s.dev.toyboxPending = none ∧
      i.bad = b.1 ∧ c.policy.getLsbD 1 = b.2 ∧ i.edited = b.2) ∧
    (∃ s : State, ∃ u v, s.dev.wave u = some v ∧ v.replaying = true ∧ v.stopped = false ∧ v.awaitsEntry = false ∧
      (v.recs.any (fun r => r.replaying && (r.state == .walk || recI2 r))) = false) ∧
    (∃ s : State, ∃ b v w c, inputGate s.work (.mmio (blockOffset b + 0x080) v) = some w ∧ blockCtx w.d b = some c ∧ w.d.mg.safe = false ∧ bits v 2 62 = 0) ∧
    (∃ s : State, ∃ b v w c, inputGate s.work (.mmio (blockOffset b + 0x080) v) = some w ∧ blockCtx w.d b = some c ∧ ¬ bits v 2 62 = 0) ∧
    (∃ (s : State) (v : Word), s.dev.mg.safe = false ∧ bits v 16 48 = 0) ∧ (∃ (s : State) (v : Word), s.dev.mg.safe = true ∨ ¬ bits v 16 48 = 0) :=
  let t (x : TaskState) : Task := { theTask with state := x }
  let d (x : TaskState) : Dev := withTask (fun t => { t with state := x })
  ⟨⟨st (d .saving), 0, t .saving, dk, rfl, rfl, dk, rfl⟩,
   ⟨st { d .saving with waves := [{ theWave with stopped := true }] }, 0, t .saving, dk, rfl, rfl, dk, dk⟩,
   ⟨st (d .settled), 0, t .settled, dk, rfl, rfl, dk, dk⟩,
   fun ⟨bad, e⟩ =>
     let p : BitVec 2 := if e then 2 else 0
     let g : Image := { codeBase := 0, tick := 0, policy := p, edited := e, size := 9, spilled := 0, bad }
     ⟨st (savedDev e bad p), { theTask with state := .saved, image := some g }, 0, 0, g, theLaunch, { theCtx with policy := p }, rfl,
      by cases bad <;> cases e <;> decide +kernel, rfl, by cases bad <;> cases e <;> decide +kernel, by cases bad <;> cases e <;> decide +kernel, rfl, rfl, rfl,
      by cases bad <;> cases e <;> decide +kernel, rfl⟩,
   ⟨st (withWave (fun v => { v with replaying := true })), 0, { theWave with replaying := true }, dk, rfl, dk, dk, dk⟩,
   ⟨st base, 0, 1, _, theCtx, rfl, dk, dk, dk⟩,
   ⟨st base, 0, 4, _, theCtx, rfl, dk, dk⟩,
   ⟨st base, 1, dk⟩, ⟨st base, BitVec.ofNat 64 (2 ^ 16), .inr dk⟩⟩
/-- A flit of the request mesh, from core's router 0 to the router east of it. -/
def someFlit : Flit :=
  { dx := 1, dy := 0, src := 0, age := 0, pkt := 0, idx := 0, cnt := 0, br := false, ctx := 1, payload := List.replicate 12 0 }
def travelling (age : Nat) : Moving := { flit := { someFlit with age }, x := 0, y := 0, came := .here, at_ := 0 }
def meshDev (f : MeshState → MeshState) : State := { State.reset with dev := { State.reset.dev with meshReq := f MeshState.reset } }
def slotUsed (n : Nat) : Reasm := { slot := 0, src := 1, pkt := 0, cnt := n, ctx := 1, flits := [], since := 0, last := 0 }
def withSlot (r : Reasm) : State :=
  { meshDev (fun m => m.updEndpoint 0 (fun e => { e with reasm := [r] })) with }

theorem test_MeshStepsPass :
    (∃ s : State, ∃ m f x y e, MayInject s m f x y e) ∧
    (∃ s : State, ∃ m x y, s.dev.mg.safe = false ∧ (s.dev.mesh m).arrived s.dev.cc x y ≠ []) ∧
    (∃ s : State, ∃ m x y b o, (s.dev.mesh m).offered.find? (offeredAt x y b) = some o) ∧
    (∃ s : State, ∃ m e k, ∃ r : Reasm, ((s.dev.mesh m).endpoint e).reasm.find? (fun r => r.slot == k) = some r ∧ r.complete = true) ∧
    (∃ s : State, ∃ m e k, ∃ r : Reasm, ((s.dev.mesh m).endpoint e).reasm.find? (fun r => r.slot == k) = some r ∧ r.complete = false ∧
      r.since + 1048576 ≤ s.dev.cc) ∧
    (∃ s : State, ∃ m e, e < 464 ∧ ((s.dev.mesh m).endpoint e).windowAt + 256 ≤ s.dev.cc) ∧
    (∃ s : State, ∃ m, (s.dev.mesh m).drain = false ∧ (s.dev.mesh m).drainDue s.dev.cc = true) ∧
    (∃ s : State, ∃ m c, (s.dev.mesh m).drain = true ∧ (s.dev.mesh m).drainClear = some c ∧ (s.dev.mesh m).anySaturated s.dev.cc = false ∧
      (s.dev.mesh m).offered = [] ∧ c + 64 ≤ s.dev.cc) :=
  let late (s : State) (n : Nat) : State := { s with dev := { s.dev with cc := n } }
  let i := slotUsed 1
  let c : Reasm := { slotUsed 0 with flits := [someFlit] }
  ⟨⟨State.reset, .request, someFlit, 0, 0, _, rfl, dk, rfl, dk, dk, dk, dk, dk, dk, dk, dk, dk⟩,
   ⟨meshDev (fun m => { m with flits := [travelling 0] }), .request, 0, 0, rfl, dk⟩,
   ⟨meshDev (fun m => { m with offered := [(travelling 0, false)] }), .request, 0, 0, false, (travelling 0, false), dk⟩,
   ⟨withSlot c, .request, 0, 0, c, dk, dk⟩,
   ⟨late (withSlot i) 1048576, .request, 0, 0, i, dk, dk, dk⟩,
   ⟨late State.reset 256, .reply, 463, dk, dk⟩,
   ⟨meshDev (fun m => { m with flits := [travelling 4095] }), .request, dk, dk⟩,
   ⟨late (meshDev (fun m => { m with drain := true, drainClear := some 0 })) 64, .request, 0, dk, dk, dk, dk, dk⟩⟩

theorem test_ProductivePortsApproach : ∃ f : Flit, ∃ x y : Nat, f.dx < 32 ∧ f.dy < 14 ∧ x < 32 ∧ y < 14 ∧
    ((x : Int) - f.dx).natAbs + ((y : Int) - f.dy).natAbs ≠ 0 := ⟨someFlit, 31, 13, dk⟩

theorem test_DebugStepsPass :
    (∃ s : State, ∃ u item x t v c, s.dev.wave u = some v ∧ s.dev.ctx v.ctx = some c ∧ c.debug = true ∧ v.halted = true ∧ residentWave s.dev v = true ∧
      editOk v item x t = true) ∧
    (∃ s : State, ∃ u item v, s.dev.wave u = some v ∧ itemLive v item = false) ∧
    (∀ item ∈ [DebugItem.queue 0 16, .frame 0 3], ∃ d v c, d.ctx v.ctx = some c ∧ c.debug = true ∧ v.halted = true ∧ residentWave d v = true ∧
      itemLive v item = true) ∧
    (∃ (v : Wave) (e g : Entry), (v.lane 0).q[16 - 1]? = some e ∧ (v.lane 0).f[3]? = some g) ∧
    (∃ s : State, ∃ b v w c, inputGate s.work (.mmio (blockOffset b + 0x070) v) = some w ∧ blockCtx w.d b = some c ∧ w.d.mg.safe = false ∧ bits v 1 63 = 0) ∧
    (∃ s : State, ∃ b v w c, inputGate s.work (.mmio (blockOffset b + 0x070) v) = some w ∧ blockCtx w.d b = some c ∧ ¬ bits v 1 63 = 0) ∧
    (∃ (v : Wave) (l a : Nat), l < v.lanes.length ∧ 1 ≤ a ∧ a ≤ (v.lane l).q.length) :=
  let x : StopSite := { pc := 0x10000, kernel := 0, ordinal := 0, q := BitVec.ofNat 16 (2 ^ 15), f := 8, p := 0, marks := 0 }
  let h (v : Wave) : Wave := { v with halted := true, haltSites := [(1, x)] }
  let c : Ctx := { theCtx with debug := true }
  let d : Dev := { withWave h with ctxs := [c] }
  ⟨⟨st d, 0, .queue 0 16, 5, .i32, h theWave, c, dk, dk, rfl, rfl, dk, dk⟩,
   ⟨st d, 0, .queue 0 15, h theWave, dk, dk⟩, fun i hi => ⟨d, h theWave, c, dk, rfl, rfl, dk, by revert i; decide +kernel⟩,
   ⟨theWave, Entry.empty, Entry.empty, dk⟩,
   ⟨st base, 0, 1, _, theCtx, rfl, dk, dk, dk⟩,
   ⟨st base, 0, 2, _, theCtx, rfl, dk, dk⟩, ⟨theWave, 31, 16, dk⟩⟩

/-- A device with management changed. -/
def managed (f : Mgmt → Mgmt) : State := { State.reset with dev := State.reset.dev.updMg f }

theorem test_ManagementStepsPass :
    (∃ s : State, s.dev.powered = true → s.dev.mg.ready = false ∧ s.dev.mg.safe = false) ∧
    (∃ s : State, ∃ k, bootSlot s.dev.mg = some k) ∧ (∃ s : State, bootSlot s.dev.mg = none) ∧
    (∃ r : SelfTest, minimumMet r = true) ∧ (∃ r : SelfTest, minimumMet r = false) ∧
    (∃ s : State, ∃ v : Word, ∃ key, bits v 1 63 = 0 ∧ v.getLsbD 0 = true ∧ (Config.verifies key (loadedImage s.work) = true →
      signerOf s.dev.mg.keys (loadedImage s.work) = some 5) ∧ (Config.verifies key (loadedImage s.work) = false →
      signerOf s.dev.mg.keys (loadedImage s.work) = none)) ∧
    (∃ v : Word, bits v 1 63 = 0 ∧ v.getLsbD 0 = false) ∧ (∃ s : State, ∀ code : Fin 5, ∃ t : State, t.mem = s.mem ∧ mailHolds t.dev code = true) ∧
    (∃ (d : Dev) (slot : Nat) (k : KeySlot), d.mg.keys[slot]? = some k ∧ keyLive d 0 = true ∧ keyLive d 15 = false) :=
  let r (q : Bool) : SelfTest := { failedQuads := [], failedStacks := if q then 0 else 1, failedBanks := 0, failedSlices := [] }
  let s := managed (fun m => { m with keys := [{ key := some 5, revoked := false }] })
  ⟨⟨{ State.reset with dev := { State.reset.dev with powered := false } }, fun h => nomatch h⟩, ⟨State.reset, 0, dk⟩,
   ⟨managed (fun m => { m with flashKey := 9 }), dk⟩, ⟨r true, dk⟩, ⟨r false, dk⟩,
   ⟨s, 1, 5, dk, dk, fun h => by
      show (List.find? (fun ik : Nat × Nat => Config.verifies ik.2 (loadedImage s.work)) [(0, 5)]).map Prod.snd = some 5
      simp only [List.find?, h]; rfl, fun h => by
      show (List.find? (fun ik : Nat × Nat => Config.verifies ik.2 (loadedImage s.work)) [(0, 5)]).map Prod.snd = none
      simp only [List.find?, h]; rfl⟩,
   ⟨0, dk⟩, ⟨State.reset, fun c => ⟨managed (fun m => { m with mbCmd := BitVec.ofNat 64 (2 ^ 63 + c) }), rfl, by revert c; decide +kernel⟩⟩,
   ⟨(managed (fun m => { m with keys := [{ key := some 5, revoked := false }] })).dev, 0, { key := some 5, revoked := false }, dk⟩⟩

theorem test_UnitManagementPasses :
    (∃ s : State, ∃ p, s.dev.mg.failing.contains p = true ∧ unitTasks s.dev p = [] ∧ unitCommits s.dev p = false) ∧
    (∃ s : State, ∃ p, s.dev.mg.failing.contains p = true ∧ (unitTasks s.dev p).any (fun t => t.state == .resident) = true) ∧
    (∃ s : State, ∃ k, k < 72 ∧ positionPresent s.dev k = true ∧ unitTasks s.dev (.quad k) = []) ∧
    (∃ s : State, ∃ k, k < 72 ∧ positionPresent s.dev k = true ∧ (s.dev.quad k).resetting = false) ∧
    (∃ s : State, ∃ k, (s.dev.quad k).resetting = true) ∧
    (∃ s : State, ∃ x rest, toyboxChange s.dev = none ∧ s.dev.placePending = x :: rest ∧ changedPlaces s.dev x.1 x.2 = []) ∧
    (∃ s : State, ∃ x rest, toyboxChange s.dev = none ∧ s.dev.placePending = x :: rest ∧
      (changedPlaces s.dev x.1 x.2).filter (placeReady s.dev x.1) ≠ []) ∧
    (∃ s : State, ∃ n, s.dev.toyboxPending = some n ∧ moving s.dev = false ∧ toyboxUsed s.dev ≤ 2097152 * n) ∧
    (∃ s : State, s.dev.gov.window + 16384 ≤ s.dev.cc) ∧ (∃ (s : State) (k : Nat) (p : PortState), s.dev.ports[k]? = some p ∧ p.working = true) :=
  let f : State := st (base.updMg (fun m => { m with failing := [.quad 71, .quad 0] }))
  ⟨⟨f, .quad 71, dk⟩, ⟨f, .quad 0, dk⟩, ⟨st (present base), 71, dk⟩,
   ⟨st (present base), 71, dk⟩, ⟨st (base.updQuad 0 (fun q => { q with resetting := true })), 0, dk⟩,
   ⟨st { base with placePending := [(0, 0)], placeMap := [List.replicate 9 0] }, (0, 0), [], dk⟩,
   ⟨st { base with placePending := [(0, 0)], placeMap := [List.replicate 9 1] }, (0, 0), [], dk⟩,
   ⟨st { base with toyboxPending := some 0 }, 0, dk⟩, ⟨st { base with cc := 16384 }, dk⟩,
   ⟨State.reset, 0, { working := true, retries := 0, sent := 0 }, dk⟩⟩

theorem test_RegisterWritesTakeOrReject :
    (∃ (s : State) (v : Word), s.dev.mg.safe = false ∧ v.toNat ≤ 128 ∧ bits v 9 54 = 0 ∧ bits v 8 56 = 0 ∧ (bits v 32 32 = 0 ∧ bits v 16 13 = 0 ∧ bits v 0 8 ≤ 16) ∧
      (8 ≤ v.toNat ∧ v.toNat ≤ 16)) ∧
    (∃ (s : State) (v : Word), s.dev.mg.safe = false ∧ bits v 45 19 = 0 ∧ ∀ p, p < 9 → bits v (5 * p) 4 ≤ 9) ∧
    (∃ s : State, ∃ b v w c, inputGate s.work (.mmio (blockOffset b + 0x090) v) = some w ∧ blockCtx s.dev b = some c ∧ blockCtx w.d b = some c ∧
      w.d.mg.safe = false ∧ bits v 57 7 = 0 ∧ bits v 0 3 = 0 ∧ (s.dev.launch c.id c.relocId).isSome = true ∧
      ∀ t ∈ s.dev.tasks, t.ctx = c.id → t.launchId = c.relocId → t.holds = false) ∧
    (∃ o, o < 0x1000 ∧ 0x068 ≤ o ∧ o < 0x080) ∧ (∃ o, 0x1000 ≤ o ∧ o < 0x00010000) ∧ (∃ o, 0x02000000 ≤ o) ∧
    (∃ o, o < 0x1000000 ∧ o % 8 = 0) ∧ (∃ k, k < 15) ∧ (∃ m : Master, m ∈ [.firmware, .function 0]) ∧
    (∃ s : State, ∃ core k v, core < 288 ∧ k < 4 ∧ s.dev.mg.safe = false ∧ watchOk true (4, 44) v = true) ∧
    (∃ s : State, ∃ b o v c saved ok f w, b < 256 ∧ o < 0x1000 ∧ ctxReg o v = some (saved, ok, f) ∧
      blockCtx s.dev b = some c ∧ inputGate s.work (.mmio (blockOffset b + o) v) = some w ∧ blockCtx w.d b = some c ∧ w.d.mg.safe = false ∧ ok c = true ∧
      (saved = true ∨ hasSaved s.dev c.id = false)) ∧
    (∃ v : Word, 3 ≤ v.toNat) ∧ (∀ b : Bool, ∃ s : State, decide (s.dev.mg.recMode = .record) = b) ∧
    (∃ (s : State) (v : Word), bits v 16 47 = 0 ∧ 1 ≤ bits v 0 16 ∧ bits v 0 16 ≤ 4 ∧ s.dev.mg.mbCmd.getLsbD 63 = false) ∧
    (∃ s : State, ∃ q v x, q < 64 ∧ s.dev.queues[q]? = some x ∧ s.dev.mg.safe = false ∧ x.q0.getLsbD 63 = false ∧
      queueOk s.dev v x.q1 = true ∧ bits v 57 7 = 0) ∧
    (∃ o, 0x00020000 ≤ o ∧ o < 0x00020100) ∧
    (∃ s : State, ∃ n o k, n ≠ 0 ∧ functionOffset s.dev n o = some k) ∧ (∃ s : State, ∃ n o, n ≠ 0 ∧ functionOffset s.dev n o = none) :=
  let c : Ctx := { theCtx with relocId := 1 }
  ⟨⟨st base, 8, dk⟩, ⟨st base, 0, dk⟩,
   ⟨st { withTask (fun t => { t with state := .ended }) with ctxs := [c] }, 0, 0x20000, _, c, rfl, dk, dk, dk, dk, dk, dk, dk⟩,
   ⟨0x068, by decide⟩, ⟨0xFFFF, by decide⟩, ⟨0x02000000, by decide⟩, ⟨0, by decide⟩, ⟨14, by decide⟩, ⟨.function 0, by decide⟩, ⟨st base, 287, 3, 3, dk⟩,
   ⟨st base, 0, 0x008, 32, theCtx, _, _, _, _, by decide, by decide, rfl, dk, rfl, dk, dk, dk, .inr dk⟩,
   ⟨3, dk⟩, fun b => ⟨managed (fun m => { m with recMode := if b then .record else .off }), by cases b <;> rfl⟩, ⟨st base, 4, dk⟩,
   ⟨st base, 63, 16, { q0 := 0, q1 := 0, head := 0, tail := 0, waitsOn := none, resumed := false }, dk⟩, ⟨0x00020000, dk⟩,
   ⟨st { base with ctxs := [{ theCtx with fn := 1 }] }, 1, 8, blockOffset 0 + 8, dk⟩, ⟨State.reset, 32, 0, dk⟩⟩

theorem test_HostStepsPass :
    (∃ (a : Nat) (bs : List Byte), a + bs.length ≤ 2 ^ 52 ∧ bs ≠ []) ∧
    (∀ sp : Bool, ∃ s : State, ∃ a bs w, let h : HostSpace := if sp then .hbm else .abacus
      a + bs.length ≤ hostSize h ∧ s.dev.mg.safe = false ∧ inputGate s.work (.hostMemory h a bs) = some w) ∧
    (∃ (s : State) (x : LogItem) (w : Work), inputGate s.work x = some w ∧ s.dev.mg.recMode ≠ .record) ∧
    (∃ (s : State) (p : Packet) (w w' : Work), s.dev.mg.safe = false ∧ inputGate s.work (.inbound p) = some w ∧ inbound w p = some w') ∧
    (∃ s : State, ∃ c b fn root, s.dev.mg.ready = true ∧ c < 65536 ∧ b < 256 ∧ fn ≤ 32 ∧ root % 4096 = 0 ∧ ∀ x ∈ s.dev.ctxs, x.id ≠ c ∧ x.block ≠ b) ∧
    (∃ (s : State) (c : Nat), (s.dev.ctx c).isSome = true) :=
  ⟨⟨2 ^ 52 - 1, [7], dk⟩, fun h => ⟨State.reset, 2 ^ 28 - 1, [7], _, by cases h <;> decide +kernel, rfl, rfl⟩,
   ⟨State.reset, .inbound (.commit 0), _, rfl, dk⟩, ⟨State.reset, .commit 0, _, _, rfl, rfl, rfl⟩,
   ⟨managed (fun m => { m with ready := true }), 65535, 255, 32, 4096, dk⟩, ⟨st base, 1, dk⟩⟩
/-! ## The machine: what its statements assume can be met -/

theorem test_StepsKeepMemoryCanonical : ∃ s t : State, s.Safe ∧ step s = .next t :=
  ⟨{ State.reset with dev := { State.reset.dev with agenda := [.event .powerLoss] } }, _, by unfold State.Safe; decide +kernel, rfl⟩

theorem test_DecodingUndoesEncoding : ∃ i : Instr, i.WellFormed :=
  ⟨.cbwait { f1 .empty with guard := { inv := true, p := 3 }, x13 := 0x65 }, by unfold Instr.WellFormed; decide +kernel⟩

/-- The hand-placed device about to try its split, at another PC; and page tables with another leaf. -/
def tries (pc : VAddr) : Dev := { withSplit (fun p => { p with pc }) with agenda := [.issue 0 0] }
def mapped (leaf w : Nat) : Memory :=
  Memory.empty.writeAll (wordCells (kHbm 0x1000) 0x2001 ++ (wordCells (kHbm 0x2000) 0x3001 ++ (wordCells (kHbm 0x3000) leaf ++ wordCells (kHbm 0x10000) w)))

/-- What a try at a PC meets. -/
structure Tries (s : State) (v : Wave) (p : Split) (c : Ctx) : Prop where
  agenda : s.dev.agenda = [.issue 0 0]
  wave : s.dev.wave 0 = some v
  split : v.split 0 = some p
  ctx : s.dev.ctx v.ctx = some c
  may : mayTry s.dev v p = true
  turn : inTurn { s.dev with agenda := [] } 0 0 = true
  awake : firstNext { s with dev := { s.dev with agenda := [] } } (wakeEvents { s.dev with agenda := [] } 0) = none
theorem tries_at (pc : VAddr) (m : Memory) (h : (decide ((tries pc).wave 0 = some { theWave with splits := [{ theSplit with pc }] } ∧
    ({ theWave with splits := [{ theSplit with pc }] } : Wave).split 0 = some { theSplit with pc } ∧ (tries pc).ctx theWave.ctx = some theCtx ∧
    mayTry (tries pc) { theWave with splits := [{ theSplit with pc }] } { theSplit with pc } = true ∧
    inTurn { tries pc with agenda := [] } 0 0 = true ∧
    (firstNext { dev := { tries pc with agenda := [] }, mem := m } (wakeEvents { tries pc with agenda := [] } 0)).isNone = true)) = true := by decide +kernel) :
    Tries { dev := tries pc, mem := m } { theWave with splits := [{ theSplit with pc }] } { theSplit with pc } theCtx := by
  obtain ⟨h1, h2, h3, h4, h5, h6⟩ := of_decide_eq_true h
  exact ⟨rfl, h1, h2, h3, h4, h5, Option.isNone_iff_eq_none.mp h6⟩

theorem test_StepRunsTheDecodedInstruction :
    (∃ s : State, ∃ v p c ws i k, s.dev.powered = true ∧ Tries s v p c ∧ fetchAll s.work c p.pc = .words ws ∧ Decode.words ws = .ok (i, k)) ∧
    (∃ s : State, ∃ v p c ws e, s.dev.powered = true ∧ Tries s v p c ∧ fetchAll s.work c p.pc = .words ws ∧ Decode.words ws = .error e) ∧
    (∃ s : State, ∃ v p c k, s.dev.powered = true ∧ Tries s v p c ∧ fetchAll s.work c p.pc = .lost k) ∧
    (∃ s : State, ∃ v p c va, s.dev.powered = true ∧ Tries s v p c ∧ fetchAll s.work c p.pc = .denied va) ∧
    (∃ s : State, ∃ v p c va, s.dev.powered = true ∧ Tries s v p c ∧ fetchAll s.work c p.pc = .untranslated va) ∧
    (∃ s : State, s.dev.powered = true ∧ s.dev.agenda = [.event .coreCycle] ∧ ccOpen { s with dev := { s.dev with agenda := [] } } = true) ∧
    (∃ s : State, s.dev.powered = true ∧ s.dev.agenda = [.event .coreCycle] ∧ ccOpen { s with dev := { s.dev with agenda := [] } } = false) ∧
    (∃ s : State, s.dev.powered = true ∧ s.dev.agenda = [.issue 0 1] ∧ inTurn { s.dev with agenda := [] } 0 1 = false) ∧
    (∃ s : State, s.dev.powered = true ∧ s.dev.agenda = [.issue 0 0] ∧
      (firstNext { s with dev := { s.dev with agenda := [] } } (wakeEvents { s.dev with agenda := [] } 0)).isSome = true) ∧
    (∃ s : State, s.dev.powered = true ∧ s.dev.agenda = [] ∧ (firstNext s (internalEvents s.dev)).isSome = true) ∧
    (∃ s : State, s.dev.powered = true ∧ s.dev.agenda = [] ∧ firstNext s (internalEvents s.dev) = none ∧ nextTry s.dev = some (0, 0)) ∧
    (∃ s : State, s.dev.powered = true ∧ s.dev.agenda = [] ∧ firstNext s (internalEvents s.dev) = none ∧ nextTry s.dev = none) ∧
    (∃ s : State, s.dev.powered = false ∧ s.dev.agenda = []) :=
  let a := tries_at 0x10000 (mapped 0xE03 0x017C000000000000)
  let g (p : Split) : Split := { p with asleep := true, sleep := 0 }
  ⟨⟨_, _, _, _, [0x017C000000000000], .nop (n1 .empty), 1, rfl, a, dk, rfl⟩,
   ⟨_, _, _, _, [0], _, rfl, tries_at 0x10000 (mapped 0xE03 0), dk, rfl⟩,
   ⟨{ dev := { tries 0x10000 with bad := [sectorOf (kHbm 0x10000)] }, mem := mapped 0xE03 0 }, _, _, _, kHbm 0x10000, rfl,
    ⟨rfl, a.wave, a.split, a.ctx, a.may, a.turn, a.awake⟩, dk⟩,
   ⟨_, _, _, _, 0x10000, rfl, tries_at 0x10000 (mapped 0x603 0), dk⟩,
   ⟨_, _, _, _, BitVec.ofNat 57 (2 ^ 40), rfl, tries_at (BitVec.ofNat 57 (2 ^ 40)) Memory.empty dk, dk⟩,
   ⟨st { base with cc := 1024, agenda := [.event .coreCycle] }, rfl, rfl, dk⟩, ⟨{ State.reset with dev := { State.reset.dev with agenda := [.event .coreCycle] } }, rfl, rfl, dk⟩,
   ⟨st { base with agenda := [.issue 0 1] }, rfl, rfl, dk⟩, ⟨st { withSplit g with agenda := [.issue 0 0] }, rfl, rfl, dk⟩,
   ⟨st { base with cc := 1024 }, rfl, rfl, dk⟩, ⟨st { withTask (fun t => { t with cores := [] }) with waves := [{ theWave with splits := [{ theSplit with readyAt := 0 }] }] }, rfl, rfl, dk, dk⟩,
   ⟨State.reset, rfl, rfl, dk, dk⟩, ⟨{ State.reset with dev := { State.reset.dev with powered := false } }, rfl, rfl⟩⟩

theorem test_RetiringKeepsTheRest :
    (∃ s t i, ∃ y : Iss, ∃ pc n occ, y.w.ws = [] ∧ y.f.st = false ∧ Answers s i (y.goto pc n occ) ∧ exec i s = .next t) ∧
    (∃ (y : Iss) (c : Ctx), y.f.st = true ∧ (coreLines y.w.d (y.w.d.coreOf y.v)).length < 28672 ∧ y.w.d.ctx y.v.ctx = some c ∧
      c.trCtl.getLsbD 63 = false ∧ siteAt y.w.d y.v y.p.pc = none) ∧
    (∃ (y : Iss) (c : Ctx) (site : StopSite), y.f.st = true ∧ (coreLines y.w.d (y.w.d.coreOf y.v)).length < 28672 ∧
      y.w.d.ctx y.v.ctx = some c ∧ c.trCtl.getLsbD 63 = false ∧
      siteAt y.w.d y.v y.p.pc = some site ∧ y.p.trapped = false) :=
  let u := one false []
  let i : Instr := .nop (n1 .empty)
  let a : Answers u.state i (u.issue i).done := Answers.of_eq (k := nopOp) (iss (u := u) (i := i)) rfl rfl
  let c := u.d.ctxs.headD (newCtx 1 0 0 0)
  let x : StopSite := { pc := 0x10000, kernel := 7, ordinal := 3, q := 0, f := 0, p := 0, marks := 0 }
  let e : Ctx := { c with sites := [x] }
  let w : Setup := { u with d := { u.d with ctxs := [e] } }
  let j : Instr := .nop { n1 .empty with st := true }
  ⟨⟨u.state, _, i, u.issue i, _, _, _, rfl, rfl, a, a⟩, ⟨u.issue j, c, rfl, dk, dk, dk, dk⟩,
   ⟨w.issue j, e, x, rfl, dk, dk, dk, dk, rfl⟩⟩

theorem test_ComputationsKeepTheRest : ∃ s t i x, Issues s i x ∧ computes i = true ∧ x.f.st = false ∧ exec i s = .next t :=
  let u := one false []
  let i : Instr := .nop (n1 .empty)
  let a : Answers u.state i (u.issue i).done := Answers.of_eq (k := nopOp) (iss (u := u) (i := i)) rfl rfl
  ⟨u.state, _, i, u.issue i, iss, dk, rfl, a⟩

theorem test_StoresStayInTheirBytes :
    (∃ (v : Wave) (r : Rec) (a : Access) (k i : Nat), r.op = .store 1 ∧ (accKeys v a k).Nodup ∧ a.data.length = a.bytes ∧ i < a.bytes) ∧
    (∃ (r : Rec) (t : Ty) (n wd : Nat), r.op = .load t n wd) ∧ (∃ (v : Wave) (a : Access) (k b : Nat), b ∉ accKeys v a k) ∧
    (∃ s i o f x g ts, (i, g) ∈ accessForms o x f ∧ Issues s i x ∧ x.f.st = false ∧ x.active ≠ [] ∧ x.addresses g.width = .targets ts) :=
  let a : Access := { lane := 0, target := .quad 0 8160, bytes := 2, data := [7, 9], b := 0, c := 0 }
  let u := one false [(0x2000, .ptr), (5, .n64), (6, .n64)]
  let g : Form := { fm .n64 with imm := none }
  ⟨⟨theWave, entry (.store 1) .sent, a, kShare 0 0 8160, 1, rfl, dk, rfl, by decide⟩, ⟨entry (.load .n32 1 4) .sent, .n32, 1, 4, rfl⟩,
   ⟨theWave, a, kShare 0 0 8160, 0, dk⟩,
   ⟨u.state, .atom .cas g, .cas, g, u.issue (.atom .cas g), _, [(0, .virt 0x2000)], nth 3 rfl, iss, rfl, dk, dk⟩⟩
/-! ## Decoding: a word for every form, written out from R61, R62, R64, R72 and R81 -/

/-- The form with guard !p3 whose sources are q2, f2 and q4, those it reads. -/
def enc (ds : DS) (fd : BitVec 5) (a b c : Bool) (ty : Ty) (x13 : BitVec 13) : Form :=
  { guard := { inv := true, p := 3 }, ds, fd, sa := .age (if a then 1 else 0), sb := if b then .frame 2 else .age 0
    sc := .age (if c then 3 else 0), packed := false, ty, st := false, modw := none, imm := none, x13 }

/-- Each word is the instruction beside it. -/
def reads (ws : List (Nat × Nat × Instr)) : Bool := ws.all (fun x => decodeTableWord x.1 x.2.1 == some x.2.2)

theorem test_decode_major_01 : reads [
  (64, 0x01BC000000000000, .nop (enc .discard 0 false false false .empty 0x0))] = true := by decide +kernel

theorem test_decode_major_02 : reads [
  (64, 0x02B8A0A400050135, .iadd (enc .frame 5 true true false .n64 0x135)),
  (64, 0x02B8A0A400150135, .isub (enc .frame 5 true true false .n64 0x135)),
  (64, 0x02B8A0A400250135, .imul (enc .frame 5 true true false .n64 0x135)),
  (64, 0x02B8A0A400350135, .imulh (enc .frame 5 true true false .n64 0x135)),
  (64, 0x02B8A0A418450135, .imad (enc .frame 5 true true true .n64 0x135)),
  (64, 0x02B8A0A400550135, .idiv (enc .frame 5 true true false .n64 0x135)),
  (64, 0x02B8A0A400650135, .irem (enc .frame 5 true true false .n64 0x135)),
  (64, 0x02B8A0A400750135, .iabsd (enc .frame 5 true true false .n64 0x135)),
  (64, 0x02B8A0A400850135, .imin (enc .frame 5 true true false .n64 0x135)),
  (64, 0x02B8A0A400950135, .imax (enc .frame 5 true true false .n64 0x135)),
  (64, 0x02B8A0A418A50135, .iaddc (enc .frame 5 true true true .n64 0x135)),
  (64, 0x02B8A0A400B60005, .lea (enc .frame 5 true true false .ptr 0x5))] = true := by decide +kernel

theorem test_decode_major_03 : reads [
  (64, 0x03B8A0A400010135, .shl (enc .frame 5 true true false .raw 0x135)),
  (64, 0x03B8A0A400110135, .shr (enc .frame 5 true true false .raw 0x135)),
  (64, 0x03B8A0A400210135, .sar (enc .frame 5 true true false .raw 0x135)),
  (64, 0x03B8A0A400310135, .rotl (enc .frame 5 true true false .raw 0x135))] = true := by decide +kernel

theorem test_decode_major_04 : reads [
  (64, 0x04B8A0A400010135, .and (enc .frame 5 true true false .raw 0x135)),
  (64, 0x04B8A0A400110135, .or (enc .frame 5 true true false .raw 0x135)),
  (64, 0x04B8A0A400210135, .xor (enc .frame 5 true true false .raw 0x135)),
  (64, 0x04B8A0A400310135, .andn (enc .frame 5 true true false .raw 0x135)),
  (64, 0x04B8A08000410135, .not (enc .frame 5 true false false .raw 0x135))] = true := by decide +kernel

theorem test_decode_major_05 : reads [
  (64, 0x05B8A08000010000, .popc (enc .frame 5 true false false .raw 0x0)),
  (64, 0x05B8A08000110000, .clz (enc .frame 5 true false false .raw 0x0)),
  (64, 0x05B8A08000210000, .ctz (enc .frame 5 true false false .raw 0x0)),
  (64, 0x05B8A08000310000, .brev (enc .frame 5 true false false .raw 0x0)),
  (64, 0x05B8A08000410135, .bfx (enc .frame 5 true false false .raw 0x135)),
  (64, 0x05B8A0A400510135, .bfi (enc .frame 5 true true false .raw 0x135)),
  (64, 0x05B8A0A418610000, .perm (enc .frame 5 true true true .raw 0x0))] = true := by decide +kernel

theorem test_decode_major_20 : reads [
  (64, 0x20B8A080000F0135, .mov (enc .frame 5 true false false .fx64 0x135)),
  (64, 0x207C008000100009, .drop { enc .discard 0 true false false .empty 0x9 with guard := { inv := false, p := 7 } }),
  (64, 0x20BC00A400200000, .swap (enc .discard 0 true true false .empty 0x0)),
  (64, 0x20BC000000300009, .rot (enc .discard 0 false false false .empty 0x9)),
  (64, 0x20B0000000400009, .pad (enc .push 0 false false false .empty 0x9)),
  (64, 0x20B8A00000500000, .qdepth (enc .frame 5 false false false .empty 0x0)),
  (64, 0x20B8A08000600000, .qtag (enc .frame 5 true false false .empty 0x0)),
  (64, 0x20B8A080007F0000, .retag (enc .frame 5 true false false .fx64 0x0))] = true := by decide +kernel

theorem test_decode_major_28 : reads [
  (64, 0x28B8A0A4000F0135, .shflIdx (enc .frame 5 true true false .fx64 0x135)),
  (64, 0x28B8A0A4001F0135, .shflUp (enc .frame 5 true true false .fx64 0x135)),
  (64, 0x28B8A0A4002F0135, .shflDown (enc .frame 5 true true false .fx64 0x135)),
  (64, 0x28B8A0A4003F0135, .shflXor (enc .frame 5 true true false .fx64 0x135)),
  (64, 0x28B8A0A4004F0135, .bcast (enc .frame 5 true true false .fx64 0x135)),
  (64, 0x28B8A00000500009, .voteAll (enc .frame 5 false false false .empty 0x9)),
  (64, 0x28B8A00000600009, .voteAny (enc .frame 5 false false false .empty 0x9)),
  (64, 0x28B8A00000700009, .voteBallot (enc .frame 5 false false false .empty 0x9)),
  (64, 0x28B8A080008F0000, .matchLanes (enc .frame 5 true false false .fx64 0x0))] = true := by decide +kernel

theorem test_decode_major_29 : reads [
  (64, 0x29B8A08000510135, .wred .xor (enc .frame 5 true false false .raw 0x135)),
  (64, 0x29B8A080000B0135, .wred .add (enc .frame 5 true false false .bf16x2 0x135))] = true := by decide +kernel

theorem test_decode_major_2A : reads [
  (64, 0x2AB8A080002B0135, .wscan .max false (enc .frame 5 true false false .bf16x2 0x135)),
  (64, 0x2AB8A080009B0135, .wscan .min true (enc .frame 5 true false false .bf16x2 0x135))] = true := by decide +kernel

theorem test_decode_major_30 : reads [
  (64, 0x30B8A0A400560135, .icmp .ge (enc .frame 5 true true false .ptr 0x135)),
  (64, 0x30B8A0A400260135, .icmp .lt (enc .frame 5 true true false .ptr 0x135))] = true := by decide +kernel

theorem test_decode_major_31 : reads [
  (64, 0x31B8A0A4000F0009, .sel (enc .frame 5 true true false .fx64 0x9))] = true := by decide +kernel

theorem test_decode_major_32 : reads [
  (64, 0x32B8A00000000085, .pand (enc .frame 5 false false false .empty 0x85)),
  (64, 0x32B8A00000100085, .por (enc .frame 5 false false false .empty 0x85)),
  (64, 0x32B8A00000200085, .pxor (enc .frame 5 false false false .empty 0x85)),
  (64, 0x32B8A00000300009, .pnot (enc .frame 5 false false false .empty 0x9)),
  (64, 0x32B8A00000400009, .pmov (enc .frame 5 false false false .empty 0x9)),
  (64, 0x32B8A08000530135, .ptest (enc .frame 5 true false false .n32 0x135))] = true := by decide +kernel

theorem test_decode_major_40 : reads [
  (64, 0x40B8A0A4000B0000, .fadd (enc .frame 5 true true false .bf16x2 0x0)),
  (64, 0x40B8A0A4001B0000, .fsub (enc .frame 5 true true false .bf16x2 0x0)),
  (64, 0x40B8A0A4002B0000, .fmul (enc .frame 5 true true false .bf16x2 0x0)),
  (64, 0x40B8A0A4183B0000, .ffma (enc .frame 5 true true true .bf16x2 0x0)),
  (64, 0x40B8A0A4004B0000, .fdiv (enc .frame 5 true true false .bf16x2 0x0)),
  (64, 0x40B8A080005B0000, .fsqrt (enc .frame 5 true false false .bf16x2 0x0)),
  (64, 0x40B8A0A418680000, .fdot2 (enc .frame 5 true true true .f32 0x0))] = true := by decide +kernel

theorem test_decode_major_41 : reads [
  (64, 0x41B8A0A4000B0000, .fminNum (enc .frame 5 true true false .bf16x2 0x0)),
  (64, 0x41B8A0A4001B0000, .fmin (enc .frame 5 true true false .bf16x2 0x0)),
  (64, 0x41B8A0A4002B0000, .fmaxNum (enc .frame 5 true true false .bf16x2 0x0)),
  (64, 0x41B8A0A4003B0000, .fmax (enc .frame 5 true true false .bf16x2 0x0))] = true := by decide +kernel

theorem test_decode_major_42 : reads [
  (64, 0x42B8A080000B0000, .frnd (enc .frame 5 true false false .bf16x2 0x0)),
  (64, 0x42B8A080001B0000, .ffract (enc .frame 5 true false false .bf16x2 0x0)),
  (64, 0x42B8A0A4002B0000, .fldexp (enc .frame 5 true true false .bf16x2 0x0)),
  (64, 0x42B8A080003B0000, .ffrexp (enc .frame 5 true false false .bf16x2 0x0)),
  (64, 0x42B8A0A4004B0000, .fcopysign (enc .frame 5 true true false .bf16x2 0x0)),
  (64, 0x42B8A080005B0000, .fclass (enc .frame 5 true false false .bf16x2 0x0))] = true := by decide +kernel

theorem test_decode_major_44 : reads [
  (64, 0x44B8A0A4007B0000, .fcmp .uno (enc .frame 5 true true false .bf16x2 0x0)),
  (64, 0x44B8A0A4003B0000, .fcmp .le (enc .frame 5 true true false .bf16x2 0x0))] = true := by decide +kernel

theorem test_decode_major_58 : reads [
  (64, 0x58B8A080000B0000, .cvt (enc .frame 5 true false false .bf16x2 0x0)),
  (64, 0x58B8A080001F0000, .cvti (enc .frame 5 true false false .fx64 0x0)),
  (64, 0x58B8A080002B0000, .cvtf (enc .frame 5 true false false .bf16x2 0x0)),
  (64, 0x58B8A0A4003B0000, .pack2 (enc .frame 5 true true false .bf16x2 0x0)),
  (64, 0x58B8A08000480000, .unpk2 (enc .frame 5 true false false .f32 0x0)),
  (64, 0x58B8A0A4005D0001, .f8pack (enc .frame 5 true true false .f8x4e5 0x1)),
  (64, 0x58B8A080006B0000, .f8unpk (enc .frame 5 true false false .bf16x2 0x0))] = true := by decide +kernel

theorem test_decode_major_59 : reads [
  (64, 0x59BC0080000B0003, .cbkld (enc .discard 0 true false false .bf16x2 0x3)),
  (64, 0x59B8A080001B0009, .cbkdec (enc .frame 5 true false false .bf16x2 0x9))] = true := by decide +kernel

theorem test_decode_major_60 : reads [
  (64, 0x60B8A080000B0000, .rcp (enc .frame 5 true false false .bf16x2 0x0)),
  (64, 0x60B8A08000180000, .rsq (enc .frame 5 true false false .f32 0x0)),
  (64, 0x60B8A08000280000, .sqrta (enc .frame 5 true false false .f32 0x0)),
  (64, 0x60B8A080003B0000, .exp2 (enc .frame 5 true false false .bf16x2 0x0)),
  (64, 0x60B8A08000480000, .log2 (enc .frame 5 true false false .f32 0x0)),
  (64, 0x60B8A08000580000, .sinpi (enc .frame 5 true false false .f32 0x0)),
  (64, 0x60B8A08000680000, .cospi (enc .frame 5 true false false .f32 0x0)),
  (64, 0x60B8A08000780000, .sincospi (enc .frame 5 true false false .f32 0x0)),
  (64, 0x60B8A080008B0000, .tanh (enc .frame 5 true false false .bf16x2 0x0))] = true := by decide +kernel

theorem test_decode_major_80 : reads [
  (64, 0x80BC000000000135, .bra (enc .discard 0 false false false .empty 0x135)),
  (64, 0x80BC000000100135, .brs (enc .discard 0 false false false .empty 0x135)),
  (64, 0x807C000000200009, .rejoin { enc .discard 0 false false false .empty 0x9 with guard := { inv := false, p := 7 } }),
  (64, 0x807C008000300000, .jmpi { enc .discard 0 true false false .empty 0x0 with guard := { inv := false, p := 7 } }),
  (128, 0x0000000000010003807C000000402009, .call { enc .discard 0 false false false .empty 0x9 with imm := some 0x10003, guard := { inv := false, p := 7 } }),
  (64, 0x807C008000500085, .calli { enc .discard 0 true false false .empty 0x85 with guard := { inv := false, p := 7 } }),
  (64, 0x807C000000600009, .ret { enc .discard 0 false false false .empty 0x9 with guard := { inv := false, p := 7 } }),
  (64, 0x80BC000000700000, .exit (enc .discard 0 false false false .empty 0x0))] = true := by decide +kernel

theorem test_decode_major_81 : reads [
  (64, 0x81B8A00000000000, .maskrd (enc .frame 5 false false false .empty 0x0)),
  (64, 0x817C008000100000, .maskwr { enc .discard 0 true false false .empty 0x0 with guard := { inv := false, p := 7 } }),
  (64, 0x817C000000200000, .yield { enc .discard 0 false false false .empty 0x0 with guard := { inv := false, p := 7 } }),
  (64, 0x817C000000300135, .sleep { enc .discard 0 false false false .empty 0x135 with guard := { inv := false, p := 7 } }),
  (64, 0x81BC000000500135, .trap (enc .discard 0 false false false .empty 0x135)),
  (64, 0x81B8A00000700002, .splitrd (enc .frame 5 false false false .empty 0x2)),
  (64, 0x81BC000000608123, .brk { enc .discard 0 false false false .empty 0x123 with st := true }),
  (64, 0x81B8490000431FF0, .loop { enc .frame 2 true false false .n32 0x1FF0 with sa := .frame 2 })] = true := by decide +kernel

theorem test_decode_major_A0 : reads [
  (64, 0xA0B8A080000F1025, .ld (enc .frame 5 true false false .fx64 0x1025)),
  (64, 0xA0B8A080001F0135, .ldv (enc .frame 5 true false false .fx64 0x135)),
  (64, 0xA0B8A000002F0135, .ldp (enc .frame 5 false false false .fx64 0x135)),
  (64, 0xA0BC00A4003F1025, .st (enc .discard 0 true true false .fx64 0x1025)),
  (64, 0xA0BC00A4004F0135, .stv (enc .discard 0 true true false .fx64 0x135)),
  (64, 0xA0BC008000500135, .pref (enc .discard 0 true false false .empty 0x135))] = true := by decide +kernel

theorem test_decode_major_A1 : reads [
  (64, 0xA1B8A0A4187F1025, .atom .cas (enc .frame 5 true true true .fx64 0x1025)),
  (64, 0xA1B8A0A400A51025, .atom .xadd (enc .frame 5 true true false .n64 0x1025))] = true := by decide +kernel

theorem test_decode_major_A2 : reads [
  (64, 0xA2BC00A4009B1025, .red .bfadd (enc .discard 0 true true false .bf16x2 0x1025))] = true := by decide +kernel

theorem test_decode_major_A3 : reads [
  (64, 0xA3BC00A400081025, .abupd (enc .discard 0 true true false .f32 0x1025)),
  (64, 0xA3B8A08000181025, .abred (enc .frame 5 true false false .f32 0x1025))] = true := by decide +kernel

theorem test_decode_major_B0 : reads [
  (64, 0xB07C000000000000, .phase { enc .discard 0 false false false .empty 0x0 with guard := { inv := false, p := 7 } }),
  (64, 0xB07C000000100005, .fence { enc .discard 0 false false false .empty 0x5 with guard := { inv := false, p := 7 } }),
  (64, 0xB07C000000200005, .fencesc { enc .discard 0 false false false .empty 0x5 with guard := { inv := false, p := 7 } }),
  (64, 0xB0BC00A400300000, .discard (enc .discard 0 true true false .empty 0x0)),
  (64, 0xB0BC00A400400000, .wback (enc .discard 0 true true false .empty 0x0)),
  (64, 0xB0BC00A400500000, .inval (enc .discard 0 true true false .empty 0x0))] = true := by decide +kernel

theorem test_decode_major_C0 : reads [
  (64, 0xC0BC008000020005, .az (enc .discard 0 true false false .i32 0x5)),
  (64, 0xC0BC008000120005, .anch (enc .discard 0 true false false .i32 0x5)),
  (64, 0xC0BC000000400000, .mfence (enc .discard 0 false false false .empty 0x0)),
  (64, 0xC0BC000000500005, .mwait (enc .discard 0 false false false .empty 0x5)),
  (64, 0xC0BC008000630000, .gang (enc .discard 0 true false false .n32 0x0)),
  (64, 0xC0BC000000700005, .res (enc .discard 0 false false false .empty 0x5)),
  (64, 0xC0B8A000008F0085, .resv (enc .frame 5 false false false .fx64 0x85)),
  (64, 0xC0B8A080009F0085, .acmp (enc .frame 5 true false false .fx64 0x85)),
  (64, 0xC0BC008000B00005, .astr (enc .discard 0 true false false .empty 0x5)),
  (64, 0xC0BC008000C00005, .ald (enc .discard 0 true false false .empty 0x5)),
  (64, 0xC0BC000000D00021, .aadd (enc .discard 0 false false false .empty 0x21)),
  (64, 0xC0B8A00000E00085, .avld (enc .frame 5 false false false .empty 0x85)),
  (64, 0xC0B8A00000F00005, .mrow (enc .frame 5 false false false .empty 0x5)),
  (64, 0xC0B8A080010D0000, .mxexp (enc .frame 5 true false false .f8x4e5 0x0)),
  (128, 0x0000000000155000C0BC00A400202005, .mma { enc .discard 0 true true false .empty 0x5 with imm := some 0x155000 }),
  (128, 0x0000000000155000C0BC00A418302005, .mmas { enc .discard 0 true true true .empty 0x5 with imm := some 0x155000 }),
  (64, 0xC0B8400000A00005, .asgn (enc .frame 2 false false false .empty 0x5))] = true := by decide +kernel

theorem test_decode_major_D0 : reads [
  (64, 0xD0B8A08000000000, .copy (enc .frame 5 true false false .empty 0x0)),
  (64, 0xD0B8A08000100000, .cstat (enc .frame 5 true false false .empty 0x0)),
  (64, 0xD0BC008000200021, .tdesc (enc .discard 0 true false false .empty 0x21)),
  (64, 0xD0BC00A400300009, .cbinit (enc .discard 0 true true false .empty 0x9)),
  (64, 0xD0B8A00000400135, .cbwait (enc .frame 5 false false false .empty 0x135)),
  (64, 0xD0BC000000500135, .cbpop (enc .discard 0 false false false .empty 0x135)),
  (64, 0xD0BC000000600135, .cbsig (enc .discard 0 false false false .empty 0x135)),
  (64, 0xD0B8A00000700135, .cbfree (enc .frame 5 false false false .empty 0x135)),
  (64, 0xD0BC008000800021, .spost (enc .discard 0 true false false .empty 0x21)),
  (64, 0xD0B8A00000900064, .swait (enc .frame 5 false false false .empty 0x64)),
  (128, 0x0000000000010003D0BC000000A02135, .send { enc .discard 0 false false false .empty 0x135 with imm := some 0x10003 }),
  (64, 0xD0BC000000B00003, .inwait (enc .discard 0 false false false .empty 0x3)),
  (64, 0xD0B8A00000C00000, .nqpop (enc .frame 5 false false false .empty 0x0))] = true := by decide +kernel

theorem test_decode_major_E0 : reads [
  (64, 0xE0B8A00000000003, .gbar (enc .frame 5 false false false .empty 0x3)),
  (64, 0xE0BC000000100003, .garr (enc .discard 0 false false false .empty 0x3)),
  (64, 0xE0B8A00000200003, .gwait (enc .frame 5 false false false .empty 0x3)),
  (64, 0xE0BC008000300009, .gset (enc .discard 0 true false false .empty 0x9)),
  (64, 0xE0B8A00000400009, .gget (enc .frame 5 false false false .empty 0x9)),
  (64, 0xE0B8A08000500000, .launch (enc .frame 5 true false false .empty 0x0)),
  (64, 0xE0B8A00000600064, .srd (enc .frame 5 false false false .empty 0x64)),
  (64, 0xE0BC008000700009, .swr (enc .discard 0 true false false .empty 0x9)),
  (64, 0xE0B8A08000800000, .place (enc .frame 5 true false false .empty 0x0)),
  (64, 0xE0B8A0A400900020, .ptset (enc .frame 5 true true false .empty 0x20)),
  (64, 0xE0BC00A400A00000, .tlbinv (enc .discard 0 true true false .empty 0x0)),
  (64, 0xE0B8A08000B00001, .pgcnt (enc .frame 5 true false false .empty 0x1))] = true := by decide +kernel

/-! ## Words that are no instruction (R82), and terms that no word is -/

/-- Words that raise ILLEGAL: majors and FN values not assigned, TY 0 and a TY not accepted, FD under push, the guard of an
unguarded form, a source not read, X13 not used, MW with a field that iadd does not accept, RND 0b110, IW with no source. -/
theorem test_illegal_words : [
    (64, 0), (64, 0x0178000000000000), (64, 0x097C000000000000), (64, 0x0270000000C20000), (64, 0x0270000000000000), (64, 0x0270000000080000),
    (64, 0x0270200000020000), (64, 0x203C010000100002), (64, 0x017C008000000000), (64, 0x017C000000000001),
    (128, 0x00020000000000000270000000024000), (128, 0x00018000000000004070000000084000), (128, 0x00000000000000000270000000022000)].all
      (fun x => (decodeTableWord x.1 x.2).isNone) = true := by decide +kernel

/-- Terms that break one check each: the type, a packed form, the guard, sources A, B and C that are not read, a typed constant
under PTR, X13 as a source and the immediate word as a source where there is none, the destination, X13, the immediate word, the
modifier, a form's own rule; and a step of the device. -/
theorem test_ill_formed : [
    Instr.iadd { fm .f32 with sc := .age 0 }, .iadd { f2 .i32 with packed := true }, .drop { n1 .empty with x13 := 1, guard := { inv := false, p := 3 } },
    .nop { n1 .empty with sa := .age 1 }, .not { f2 .i32 with sb := .age 1 }, .iadd (fm .i32),
    .mov { f1 .ptr with sa := .const 1 }, .fadd { f2 .f32 with sb := .x13 }, .iadd { f2 .i32 with sb := .imm },
    .nop (f1 .empty), .fadd { f2 .f32 with x13 := 1 }, .iadd { f2 .i32 with imm := some 5 },
    .and { f2 .i32 with
      modw := some {
      na := true, aa := false, nb := false, ab := false, nc := false, ac := false, sat := false, clamp := .none, scale := 0, rnd := .dflt, raw := false } },
    .brk { n1 .empty with st := false }, .coreCycle].all (fun i => !i.wellFormed) = true := by decide +kernel

/-- And the same terms mended are well formed. -/
theorem test_well_formed : [
    Instr.iadd (f2 .i32), .fadd { f2 .f16x2 with packed := true }, .drop { n1 .empty with x13 := 1 }, .nop (n1 .empty), .not (f1 .i32), .imad (fm .i32),
    .mov { f1 .i32 with sa := .const 1 }, .iadd { f2 .i32 with sb := .x13, x13 := 5 }, .iadd { f2 .i32 with sb := .imm, imm := some 5 },
    .brk { n1 .empty with st := true }].all Instr.wellFormed = true := by decide +kernel

/-! ## Single steps: the worked examples and tables of the spec -/

/-- The wave after an instruction. -/
def Setup.run (u : Setup) (i : Instr) : Option Wave := match exec i u.state with
  | .next t => t.dev.wave u.v.uid
  | _ => none

/-- An entry of a lane's queue, as its bits and tag; and some of lane 0's. -/
def top (v : Wave) (l a : Nat) : Nat × Ty := (((v.lane l).q[a - 1]?).map (fun e => (e.val.toNat, e.tag))).getD (0, .empty)
def Setup.gives (u : Setup) (i : Instr) (es : List (Nat × Ty)) : Bool := match u.run i with
  | some v => (enum es).all (fun e => top v 0 (e.1 + 1) == e.2)
  | none => false

/-- R114: the table of `idiv` and `irem`. -/
theorem test_idiv_table :
    (one false [(7, .i32), (2 ^ 32 - 2, .i32)]).gives (.idiv (f2 .i32)) [(2 ^ 32 - 3, .i32)] = true ∧
    (one false [(2 ^ 31, .i32), (2 ^ 32 - 1, .i32)]).gives (.idiv (f2 .i32)) [(2 ^ 31, .i32)] = true ∧
    (one false [(2 ^ 32 - 7, .i32), (2, .i32)]).gives (.irem (f2 .i32)) [(2 ^ 32 - 1, .i32)] = true ∧
    (one false [(5, .i32), (0, .i32)]).gives (.irem (f2 .i32)) [(2 ^ 32 - 1, .i32)] = true := by decide +kernel

/-- R114, R107: a zero divisor sets the integer flag. -/
theorem test_idiv_zero_flag : ((one false [(5, .i32), (0, .i32)]).run (.idiv (f2 .i32))).map Wave.intFlag = some true := by decide +kernel

/-- R115: the carry ends at q1. -/
theorem test_iaddc_carry : (one false [(2 ^ 32 - 1, .i32), (1, .i32), (1, .i32)]).gives (.iaddc (fm .i32)) [(1, .i32), (1, .i32)] = true := by
  decide +kernel

/-- R135: the reshaping of a queue: A 3, B 4, C 10, D 6. -/
theorem test_queue_reshaping :
    let q : List (Nat × Ty) := [(3, .i32), (4, .i32), (10, .i32), (6, .i32)]
    (one false q).gives (.rot { n1 .empty with x13 := 3 }) [(10, .i32), (3, .i32), (4, .i32), (6, .i32)] = true ∧
    (one false [(10, .i32), (7, .i32), (4, .i32), (6, .i32)]).gives (.drop { n1 .empty with sa := .age 2, x13 := 1 })
      [(10, .i32), (7, .i32), (6, .i32), (0, .empty)] = true ∧
    (one false [(10, .i32), (7, .i32), (6, .i32)]).gives (.pad { f1 .empty with x13 := 2 })
      [(0, .empty), (0, .empty), (10, .i32), (7, .i32)] = true ∧
    (one false q).gives (.swap { n2 .empty with sa := .age 1, sb := .age 3 }) [(3, .i32), (6, .i32), (10, .i32), (4, .i32)] = true := by decide +kernel

/-- R143: the scan over a partial mask: lanes 0, 2, 4, 5, 6 and 7 of the home set 0xFF, lane l holding l + 1. -/
def scanSetup : Setup :=
  let u := one false []
  { u with
    v := { u.v with lanes := (List.range 32).map (fun l => { Lane.reset with q := queue [(l + 1, .i32)] }) }
    p := { u.p with emask := 0xF5, home := 0xFF } }
def scanned (i : Instr) (n : Nat) : Option (List Nat) := (scanSetup.run i).map (fun v => (List.range n).map (fun l => (top v l 1).1))
theorem test_scan_inclusive : scanned (.wscan .add false (f1 .i32)) 9 = some [1, 0, 4, 0, 9, 15, 22, 30, 9] := by decide +kernel
theorem test_scan_exclusive : scanned (.wscan .add true (f1 .i32)) 9 = some [0, 0, 1, 0, 4, 9, 15, 22, 9] := by decide +kernel
theorem test_reduction : scanned (.wred .add (f1 .i32)) 9 = some [30, 0, 30, 0, 30, 30, 30, 30, 9] := by decide +kernel

/-- R152, R166: packing to E4M3, plain and with SAT, and its flags. -/
theorem test_f8pack :
    let u := one false [(0x7E009553, .f16x2), (0x5FD034CD, .f16x2)]
    let f : Form := { f2 .f8x4 with sa := .age 1, sb := .age 0 }
    let m : Modifier := {
      na := false, aa := false, nb := false, ab := false, nc := false, ac := false, sat := true, clamp := .none, scale := 0, rnd := .dflt
      raw := false }
    u.gives (.f8pack f) [(0x7F817F2A, .f8x4)] = true ∧ u.gives (.f8pack { f with modw := some m }) [(0x7F817E2A, .f8x4)] = true ∧
    (u.run (.f8pack f)).map Wave.fpFlags = some 7 := by decide +kernel

/-- R104, R105: an instruction stored where the step fetches runs: `iadd.i32 1, 1` pushes 2, and the PC moves past its word. -/
theorem test_step_runs_a_word :
    (match step (State.reset.withFetchWord 64 0x027018E200020000) with
     | .next t => (t.dev.wave 0).map (fun v => (top v 0 1, top v 31 1, v.splits.map Split.pc))
     | _ => none) = some ((2, .i32), (2, .i32), [0x10008]) := by decide +kernel

/-- R82, R403: a word that is no instruction raises ILLEGAL at its PC. -/
theorem test_step_traps_a_word :
    (match step (State.reset.withFetchWord 64 0) with
     | .next t => t.dev.traps.map (fun x => (x.code, x.pc))
     | _ => []) = [(tIllegal, 0x10000)] := by decide +kernel


/-! ## Registers the host reads -/

/-- R449: quad 7 of die 5 fails its self-test; the spare takes its place. -/
def worn : Dev := boot State.reset.dev
  { failedQuads := [(5, 7)], failedStacks := 0, failedBanks := 0, failedSlices := [] }

theorem test_worn_part_reads : mmioRead (.function 0) worn 0x010 = 0x8000000000000020 ∧
    mmioRead (.function 0) worn 0x040 = 0xFFFFFFFFFFFFFFFF ∧ mmioRead (.function 0) worn 0x068 = 0xFF := by decide +kernel

/-- R449: entry 7 of the die's place map is 0b1_1001, at bits [39:35]. -/
theorem test_worn_part_place : bits (mmioRead .firmware worn 0x20048) 35 5 = 0b11001 := by decide +kernel

/-- R384: M[2] names AC, bit 62. -/
theorem test_ptset_mask : pteMask 4 = 0x4000000000000000 := by decide

/-- R412, R413: the image of the hand-placed task: format 2, context 1, launch 1; 1 unit of header, 16 of wave control, 6 of
operands, 3 of records, 9 of matrix engines, 256 of quad state and 1 of group arrivals, 292 in all. -/
theorem test_image_header :
    let d := handDev State.reset.dev false
    (d.tasks.head?.map (fun t => (headerDwords d t (headerOf d t)).take 6)) =
      some [0x0002000100000001, 0x0000110000000124, 0x10000, 0, 1, 0x11] := by decide +kernel


end Sys2Proof.Tests
end

section
/-! PROOF. Writes of the firmware load window (R445): what they leave in memory, and the refutation of O50 that rests on it. -/

open Sys2Proof
open Sys2Proof.Machine

namespace Sys2Proof.Machine

/-! ## Bytes written from a key on -/

/-- The byte written last is seen at its key. -/
theorem Work.byte_put (w : Work) (a : Nat) (b : Byte) (y : Nat) : (w.put a b).byte y = if y = a then b else w.byte y := by
  by_cases h : y = a
  · simp [Work.byte, Work.put, h]
  · simp [Work.byte, Work.put, h, Ne.symm h]

theorem enum_concat {α : Type} (l : List α) (x : α) : enum (l ++ [x]) = enum l ++ [(l.length, x)] := by
  simp [enum, List.range_succ, List.zip_append]

theorem Work.puts_concat (w : Work) (a : Nat) (bs : List Byte) (b : Byte) :
    w.puts a (bs ++ [b]) = (w.puts a bs).put (a + 8 * bs.length) b := by
  simp [Work.puts, enum_concat]

@[simp] theorem Work.puts_d (w : Work) (a : Nat) (bs : List Byte) : (w.puts a bs).d = w.d := by
  induction bs using List.reverseRecOn with
  | nil => rfl
  | append_singleton bs b ih => rw [Work.puts_concat, Work.put_d, ih]

@[simp] theorem Work.puts_m (w : Work) (a : Nat) (bs : List Byte) : (w.puts a bs).m = w.m := by
  induction bs using List.reverseRecOn with
  | nil => rfl
  | append_singleton bs b ih => rw [Work.puts_concat]; exact ih

theorem Work.byte_puts_of_lt (w : Work) (a : Nat) (bs : List Byte) {i : Nat} (hi : i < bs.length) :
    (w.puts a bs).byte (a + 8 * i) = bs.getD i 0 := by
  induction bs using List.reverseRecOn with
  | nil => simp at hi
  | append_singleton bs b ih =>
    rw [Work.puts_concat, Work.byte_put]
    rw [List.length_append, List.length_singleton] at hi
    by_cases hlast : i = bs.length
    · simp [hlast]
    · rw [if_neg (by omega), ih (by omega), List.getD_append _ _ _ _ (by omega)]

theorem Work.byte_puts_of_ne (w : Work) (a : Nat) (bs : List Byte) {y : Nat} (hy : ∀ i, i < bs.length → y ≠ a + 8 * i) :
    (w.puts a bs).byte y = w.byte y := by
  induction bs using List.reverseRecOn with
  | nil => rfl
  | append_singleton bs b ih =>
    rw [List.length_append, List.length_singleton] at hy
    rw [Work.puts_concat, Work.byte_put, if_neg (hy _ (by omega)), ih fun i hi => hy i (by omega)]

/-! ## The load window (R445) -/

/-- R445: firmware, and the physical function, write a dword of the load window as its bytes and change nothing of the device. -/
theorem exec_mmioWrite_loadWindow (s : State) {m : Master} {o : Nat} (v : Word) (hm : m ∈ [Master.firmware, .function 0])
    (ho : o < 0x1000000) (ha : o % 8 = 0) :
    exec (.mmioWrite m (0x01000000 + o) v) s = .next ((s.work.puts (kLoad o) (wordBytes v)).after s) := by
  have hphys : ∀ firmware w, physWrite w firmware (0x01000000 + o) v = .ok (w.puts (kLoad o) (wordBytes v)) := by
    intro firmware w
    unfold physWrite
    rw [if_neg (by omega), if_neg (by omega), if_neg (by omega), if_neg (by omega), if_neg (by omega), if_neg (by omega),
      if_pos (by omega), Nat.add_sub_cancel_left]
  have hrun : ∀ firmware, s.run (fun w => physWrite w firmware (0x01000000 + o) v) =
      .next ((s.work.puts (kLoad o) (wordBytes v)).after s) := by
    intro firmware
    simp only [State.run, hphys, State.work]
  rcases List.mem_pair.1 hm with rfl | rfl
  · exact hrun true
  · exact hrun false

/-- R445: in a safe state a dword written to the load window reads back byte by byte, and every other byte is kept. The clause
of O50 about the load window says so of every state, which is more than holds. -/
theorem loadWindowWrite_of_safe (s : State) (hs : s.Safe) {m : Master} {o : Nat} (v : Word)
    (hm : m ∈ [Master.firmware, .function 0]) (ho : o < 0x1000000) (ha : o % 8 = 0) : ∃ t,
    exec (.mmioWrite m (0x01000000 + o) v) s = .next t ∧ t.dev = s.dev ∧
    (∀ i, i < 8 → t.mem.read (kLoad (o + i)) = (wordBytes v).getD i 0) ∧
    KeepsOutside s t ((List.range 8).map (fun i => kLoad (o + i))) := by
  have hkey : ∀ i, kLoad (o + i) = kLoad o + 8 * i := fun i => by unfold kLoad; omega
  have hread : ∀ y, ((s.work.puts (kLoad o) (wordBytes v)).after s).mem.read y = (s.work.puts (kLoad o) (wordBytes v)).byte y :=
    Work.byte_after (by rw [Work.puts_m]; rfl) hs
  refine ⟨_, exec_mmioWrite_loadWindow s v hm ho ha, by simp, fun i hi => ?_, fun y hy => ?_⟩
  · rw [hread, hkey, Work.byte_puts_of_lt _ _ _ hi]
  · rw [hread, Work.byte_puts_of_ne]
    · rfl
    · rintro i hi rfl
      exact hy (List.mem_map.2 ⟨i, List.mem_range.2 hi, hkey i⟩)

/-! ## A state that is not safe -/

/-- The state at reset, but for a memory that lists byte 0 of the load window twice: not the canonical form (log 1). -/
def listedTwice : State := { State.reset with mem := { cells := [(kLoad 0, 1), (kLoad 0, 1)] } }

/-- A zero written removes the first listing alone, so the byte still reads 1. -/
theorem read_listedTwice_after_zero :
    ((listedTwice.work.puts (kLoad 0) (wordBytes 0)).after listedTwice).mem.read (kLoad 0) = 1 := by
  decide +kernel

end Sys2Proof.Machine

/-- Refutes O50 at its clause on the load window, which takes any state: where memory is not in canonical form
(`listedTwice`, not a safe state), a dword of zeros written at 0x01000000 leaves byte 0 reading 1. In a safe state the clause
holds: `loadWindowWrite_of_safe`. -/
theorem not_registerWritesTakeOrReject : ¬ Obligations.RegisterWritesTakeOrReject := by
  unfold Obligations.RegisterWritesTakeOrReject
  rintro ⟨-, -, -, -, -, -, -, -, loadWindow, -⟩
  obtain ⟨t, hexec, -, hread, -⟩ := loadWindow listedTwice .firmware 0 0 (by simp) (by decide) (by decide)
  rw [exec_mmioWrite_loadWindow listedTwice 0 (by simp) (by decide) (by decide)] at hexec
  cases hexec
  have hzero := hread 0 (by decide)
  rw [read_listedTwice_after_zero] at hzero
  exact absurd hzero (by decide)

end

section
/-! PROOF. Steps of the device, and the launch unit (spec/02 R37 to R57, spec/14 R383): what each of its steps answers, and O36. -/

open Sys2Proof
open Sys2Proof.Machine

namespace Sys2Proof.Machine

/-! ## Steps of the device -/

/-- A step's next state is that of the step in progress its meaning makes. -/
theorem State.run_ok {s : State} {f : Work → Except Refusal Work} {w : Work} (h : f s.work = .ok w) :
    s.run f = .next (w.after s) := by
  unfold State.work at h
  rw [State.run, h]

/-! ## Acceptance (R40, R46, R435) -/

theorem exec_acceptStep (waits : Bool) (queue : Option Nat) (s : State) :
    exec (acceptStep waits queue) s = s.run (fun w => acceptFrom w queue waits) := by
  cases waits <;> rfl

theorem nextInput_of_not_replay {d : Dev} (h : d.mg.recMode ≠ .replay) : nextInput d = none := by
  simp [nextInput, h]

/-- R40: outside the safe state and without a replay, acceptance is from a queue or of a request. -/
theorem acceptFrom_eq_fresh {w : Work} (hsafe : w.d.mg.safe = false) (hrec : w.d.mg.recMode ≠ .replay) (queue : Option Nat)
    (waits : Bool) : acceptFrom w queue waits = acceptFresh w queue waits := by
  simp [acceptFrom, hsafe, nextInput_of_not_replay hrec]

theorem acceptFresh_queue {w : Work} {n : Nat} {waits : Bool} {q : LaunchQueue} {c : Ctx} (hready : queueReady w.d n waits q c)
    (hnext : waits = false → nextQueue w.d = some n) : acceptFresh w (some n) waits = .ok (acceptQueue w n q c) := by
  obtain ⟨hq, hc, hen, hne, hwaits, hres⟩ := hready
  have hturn : (!waits && nextQueue w.d != some n) = false := by
    cases waits with
    | false => simp [hnext rfl]
    | true => rfl
  simp only [acceptFresh, hq, hc]
  simp [hen, hne, hwaits, hres, hturn]

theorem acceptFresh_request {w : Work} {waits : Bool} {q : LaunchReq} {c : Ctx} (hready : requestReady w.d waits q c) :
    acceptFresh w none waits = .ok (acceptRequest w q c (takeRequest q c)) := by
  obtain ⟨hq, hc⟩ := hready
  simp only [acceptFresh, hq, hc]

/-- R40, R383: once the descriptor at a queue's head is taken, the head has advanced and the queue waits on nothing. -/
theorem acceptQueue_queue_of_taken {w w' : Work} {n id : Nat} {q q' : LaunchQueue} {c : Ctx}
    (htake : takeAt w (.queue n) c q.headAt = .inl (id, w')) (hq : w'.d.queues[n]? = some q') :
    (acceptQueue w n q c).d.queues[n]? = some { q' with head := (q.head + 1) % 65536, waitsOn := none, resumed := false } := by
  simp [acceptQueue, htake, updAt, hq]

/-- R435: in replay mode the next launch of the log is taken for its queue. -/
theorem acceptFrom_logged {w : Work} {n i id : Nat} {c : Ctx} {t : Taken} (hsafe : w.d.mg.safe = false)
    (hnext : nextInput w.d = some (.launch (.queue n) i id t)) (hc : w.d.ctx i = some c) :
    acceptFrom w (some n) false = .ok (takeLogged w c t).2 := by
  simp [acceptFrom, acceptLogged, hsafe, hnext, hc]

/-! ## Tail writes (R383) -/

theorem tailWrite_eq {w : Work} {n : Nat} {q : LaunchQueue} (v : Word) (hq : w.d.queues[n]? = some q) :
    tailWrite w n v = .ok (if w.d.mg.safe = false ∧ bits v 16 48 = 0 ∧ (bits v 0 16 + 65536 - q.head) % 65536 ≤ 2 ^ q.log2
      then w.upd (fun d => { d with
        queues := updAt d.queues n (fun q => { q with tail := bits v 0 16 })
        tails := if bits v 0 16 = q.head then d.tails else d.tails ++ [(n, bits v 0 16)] })
      else w.upd (fun d => reject d (queueOffset n + 24))) := by
  simp only [tailWrite, hq, regWrite]
  congr 1
  by_cases hsafe : w.d.mg.safe = true
  · simp [hsafe]
  · by_cases hv : bits v 16 48 = 0 ∧ (bits v 0 16 + 65536 - q.head) % 65536 ≤ 2 ^ q.log2
    · simp [hsafe, hv]
    · have hbad : (bits v 16 48 == 0 && decide ((bits v 0 16 + 65536 - q.head) % 65536 ≤ 2 ^ q.log2)) = false := by
        simpa using hv
      simp [hbad, hv]

/-! ## Launches on their way (R37, R42, R48, R57) -/

/-- R37, R42: a running launch whose tasks are all over retires. -/
theorem launchRetire_answers {s : State} {c i : Nat} {l : Launch} (hl : s.dev.launch c i = some l) (hrun : l.state = .running)
    (hover : ∀ t ∈ s.dev.tasks, t.ctx = c → t.launchId = i → taskOver s.dev t = true) :
    let w := (setLaunch s.work c i .retired).upd (fun d =>
      { d with tasks := d.tasks.filter (fun t => !(t.ctx == c && t.launchId == i)) })
    Answers s (.launchRetire c i) (post w .launchUnit c (launchNotif w.d ((w.d.launch c i).getD l)) (.launch c i)) := by
  have hall : s.dev.tasks.all (fun t => !(t.ctx == c && t.launchId == i) || taskOver s.dev t) = true := by
    refine List.all_eq_true.2 fun t ht => ?_
    by_cases hmine : t.ctx = c ∧ t.launchId = i
    · simp [hover t ht hmine.1 hmine.2]
    · simp [hmine, ← not_and_or]
  show execLaunchRetire c i s = _
  refine State.run_ok ?_
  simp only [State.work_d, hl, hrun, hall]
  rfl

/-- R48, R49: the next waiting task is placed, and its launch runs. -/
theorem taskPlacement_answers {s : State} {t : Task} {ox oy : Nat} {l : Launch} (hsafe : s.dev.mg.safe = false)
    (hnext : nextPlacement s.dev = some (t, ox, oy)) (hl : s.dev.launch t.ctx t.launchId = some l) (hfirst : t.placedOnce = false) :
    let w := s.work.upd (fun d => placeTask d l t ox oy)
    Answers s .taskPlacement (if l.state = .ready then setLaunch w l.ctx l.id .running else w) := by
  show execTaskPlacement s = _
  refine State.run_ok ?_
  simp [hsafe, hnext, hl, hfirst]

/-- R57: the tasks of the rotation are chosen, and the places are kept for the task that waits. -/
theorem rotationPreempt_answers {s : State} {t : Task} {vs : List Nat} (hchoice : rotationChoice s.dev = some (t, vs)) :
    Answers s .rotationPreempt (s.work.upd (fun d =>
      (vs.foldl choose d).updTask t.uid (fun u => { u with claim := originFor d (leavingTasks d ++ vs) t }))) := by
  show execRotationPreempt s = _
  refine State.run_ok ?_
  simp only [State.work_d, hchoice]

theorem launchUnitAccepts : Claims.LaunchUnitAccepts := by
  refine ⟨fun s n waits q c hsafe hrec hready hnext => ⟨?_, fun id w q' => acceptQueue_queue_of_taken⟩,
    fun s waits q c hsafe hrec hready => ?_, fun s n i id c t hsafe hnext hc => ?_, fun s n v q hq => ?_⟩
  · exact (exec_acceptStep waits _ s).trans
      (State.run_ok ((acceptFrom_eq_fresh hsafe hrec _ _).trans (acceptFresh_queue hready hnext)))
  · exact (exec_acceptStep waits _ s).trans
      (State.run_ok ((acceptFrom_eq_fresh hsafe hrec _ _).trans (acceptFresh_request hready)))
  · exact (exec_acceptStep false _ s).trans (State.run_ok (acceptFrom_logged hsafe hnext hc))
  · show execLaunchQueueTailWrite n v s = _
    exact State.run_ok (tailWrite_eq v hq)

theorem launchesRunAndRetire : Claims.LaunchesRunAndRetire :=
  ⟨fun _ _ _ _ => launchRetire_answers, fun _ _ _ _ _ => taskPlacement_answers, fun _ _ _ => rotationPreempt_answers⟩

end Sys2Proof.Machine

/-- Settles O36: each step of the launch unit, by the lemma that says what it answers. -/
theorem launchesPass : Obligations.LaunchesPass := ⟨launchUnitAccepts, launchesRunAndRetire⟩

end

section
/-! PROOF. What an issue that retires changes (spec/02 R29, R53, spec/08 R227, spec/03 R79, spec/17 R429), and O57. -/

open Sys2Proof
open Sys2Proof.Machine

namespace Sys2Proof.Machine

/-! ## Lists with elements changed -/

/-- A change that decides nothing of what is searched for changes only what is found. -/
theorem find?_updWhere {α : Type} {p q : α → Bool} {f : α → α} (hq : ∀ x, p x = true → q (f x) = q x)
    (l : List α) : (updWhere p f l).find? q = (l.find? q).map (fun x => if p x then f x else x) := by
  have hsame : (q ∘ fun x => if p x then f x else x) = q := by
    funext x
    by_cases hx : p x = true <;> simp [hx, hq]
  rw [updWhere, List.find?_map, hsame]

/-- The element at a place of a list changed at one. -/
theorem getD_updAt {α : Type} (l : List α) (i k : Nat) (f : α → α) (a : α) :
    (updAt l i f).getD k a = if i = k ∧ k < l.length then f (l.getD k a) else l.getD k a := by
  by_cases hk : k < l.length
  · by_cases hi : i = k <;> simp [updAt, hk, hi]
  · simp [updAt, hk]

/-- A relation that a change of an element respects holds between the elements at a place before and after it. -/
theorem rel_getD_updAt {α : Type} {R : α → α → Prop} {f : α → α} (hrefl : ∀ x, R x x) (hf : ∀ x, R x (f x))
    (l : List α) (i k : Nat) (a : α) : R (l.getD k a) ((updAt l i f).getD k a) := by
  rw [getD_updAt]
  split
  · exact hf _
  · exact hrefl _

/-! ## Waves found after a change -/

theorem Dev.wave_uid {d : Dev} {u : Nat} {v : Wave} (h : d.wave u = some v) : v.uid = u := by
  simpa using List.find?_some h

/-- The wave found after a change of one that keeps its identifier. -/
theorem Dev.wave_updWave {d : Dev} {n : Nat} {f : Wave → Wave} (hf : ∀ v, v.uid = n → (f v).uid = n) (u : Nat) :
    (d.updWave n f).wave u = (d.wave u).map (fun v => if v.uid == n then f v else v) := by
  refine find?_updWhere (fun v hv => ?_) d.waves
  have hn : v.uid = n := eq_of_beq hv
  rw [hf v hn, hn]

theorem Dev.wave_updWave_same {d : Dev} {u : Nat} {v : Wave} {f : Wave → Wave} (hf : ∀ v, v.uid = u → (f v).uid = u)
    (h : d.wave u = some v) : (d.updWave u f).wave u = some (f v) := by
  simp [Dev.wave_updWave hf, h, Dev.wave_uid h]

theorem Dev.wave_updWave_of_ne {d : Dev} {u n : Nat} {v : Wave} {f : Wave → Wave} (hf : ∀ v, v.uid = n → (f v).uid = n)
    (h : d.wave u = some v) (hne : u ≠ n) : (d.updWave n f).wave u = some v := by
  simp [Dev.wave_updWave hf, h, Dev.wave_uid h, hne]

/-! ## Yields (R227) -/

/-- R227: a wave whose splits no longer await split `n` of wave `u`. -/
def Wave.unawait (w : Wave) (u n : Nat) : Wave :=
  { w with splits := w.splits.map (fun q => { q with
      yield := q.yield.map (fun y => { y with peers := y.peers.filter (fun e => !(e.1 == u && e.2 == n)) }) }) }

theorem Wave.unawait_calls (w : Wave) (u n : Nat) : (w.unawait u n).calls = w.calls := by
  simp [Wave.unawait, Wave.calls, Split.awake]

/-! ## Marking an issue (R29, R227, R395) -/

/-- R29: a scheduler whose half, and whose special-function unit where an issue occupies it, are taken. -/
def Sched.taken (x : Sched) (cc : Nat) (occ : Occupancy) : Sched :=
  let y := (takeHalf x cc occ.half).getD x
  if occ.sfu = 0 then y else { y with sfu := cc + occ.sfu, sfuAt := cc }

theorem markIssued_waves (d : Dev) (v : Wave) (n : Nat) (occ : Occupancy) : (markIssued d v n occ).waves =
    updWhere (fun w => w.sched == v.sched && d.coreOf w == d.coreOf v) (fun w => w.unawait v.uid n) d.waves := rfl

theorem markIssued_cores (d : Dev) (v : Wave) (n : Nat) (occ : Occupancy) : (markIssued d v n occ).cores =
    updAt d.cores (d.coreOf v) (fun c => { c with scheds := updAt c.scheds v.sched (fun x => x.taken d.cc occ) }) := rfl

theorem markIssued_quads (d : Dev) (v : Wave) (n : Nat) (occ : Occupancy) : (markIssued d v n occ).quads =
    updAt d.quads (d.coreOf v / 4) (fun q => { q with issuedInCc := true }) := rfl

/-- R227: a marked issue changes of the waves of its scheduler what their splits yield to. -/
theorem wave_markIssued (d : Dev) (v : Wave) (n : Nat) (occ : Occupancy) (u : Nat) :
    (markIssued d v n occ).wave u = (d.wave u).map (fun w =>
      if w.sched == v.sched && d.coreOf w == d.coreOf v then w.unawait v.uid n else w) := by
  rw [Dev.wave, markIssued_waves, find?_updWhere, Dev.wave]
  exact fun _ _ => rfl

theorem wave_markIssued_of_some {d : Dev} {u : Nat} {w : Wave} (v : Wave) (n : Nat) (occ : Occupancy) (h : d.wave u = some w) :
    ∃ w', (markIssued d v n occ).wave u = some w' ∧ w' = { w with splits := w'.splits } ∧ w'.calls = w.calls := by
  rw [wave_markIssued, h]
  refine ⟨_, rfl, ?_⟩
  dsimp only
  split
  · exact ⟨rfl, Wave.unawait_calls ..⟩
  · exact ⟨rfl, rfl⟩

theorem core_markIssued (d : Dev) (v : Wave) (n : Nat) (occ : Occupancy) (k : Nat) :
    (markIssued d v n occ).core k = { d.core k with scheds := ((markIssued d v n occ).core k).scheds } := by
  rw [Dev.core, markIssued_cores]
  exact rel_getD_updAt (R := fun (c e : Core) => e = { c with scheds := e.scheds }) (fun _ => rfl) (fun _ => rfl) ..

theorem quad_markIssued (d : Dev) (v : Wave) (n : Nat) (occ : Occupancy) (k : Nat) :
    (markIssued d v n occ).quad k = { d.quad k with issuedInCc := ((markIssued d v n occ).quad k).issuedInCc } := by
  rw [Dev.quad, markIssued_quads]
  exact rel_getD_updAt (R := fun (c e : Quad) => e = { c with issuedInCc := e.issuedInCc }) (fun _ => rfl) (fun _ => rfl) ..

/-! ## Retiring (R29, R53, R399) -/

theorem Iss.put_wave_same {y : Iss} {w : Wave} (h : y.w.d.wave y.v.uid = some w) :
    y.put.d.wave y.v.uid = some (y.v.updSplit y.p.num (fun _ => y.p)) :=
  Dev.wave_updWave_same (f := fun _ => y.v.updSplit y.p.num (fun _ => y.p)) (fun _ _ => rfl) h

theorem Iss.put_wave_of_ne {y : Iss} {u : Nat} {w : Wave} (h : y.w.d.wave u = some w) (hne : u ≠ y.v.uid) :
    y.put.d.wave u = some w :=
  Dev.wave_updWave_of_ne (f := fun _ => y.v.updSplit y.p.num (fun _ => y.p)) (fun _ _ => rfl) h hne

/-- R29: a step that retires without a safe point. -/
theorem Iss.goto_eq {y : Iss} (hst : y.f.st = false) (pc : VAddr) (n : Nat) (occ : Occupancy) :
    y.goto pc n occ = (y.retired pc n occ).put.upd (fun d => markIssued d (y.retired pc n occ).v y.p.num occ) := by
  simp [Iss.goto, Iss.retired, hst]

theorem onlyIssues_goto {y : Iss} (hst : y.f.st = false) (pc : VAddr) (n : Nat) (occ : Occupancy) :
    OnlyIssues y.w.d (y.goto pc n occ).d := by
  rw [Iss.goto_eq hst]
  exact ⟨rfl, core_markIssued _ _ _ _, quad_markIssued _ _ _ _⟩

theorem goto_ws {y : Iss} (hst : y.f.st = false) (pc : VAddr) (n : Nat) (occ : Occupancy) : (y.goto pc n occ).ws = y.w.ws := by
  rw [Iss.goto_eq hst]
  rfl

theorem goto_traps {y : Iss} (hst : y.f.st = false) (pc : VAddr) (n : Nat) (occ : Occupancy) :
    (y.goto pc n occ).d.traps = y.w.d.traps := by
  rw [Iss.goto_eq hst]
  rfl

/-- R227: of a wave that does not retire, an issue changes what its splits yield to. -/
theorem goto_wave_of_ne {y : Iss} (hst : y.f.st = false) (pc : VAddr) (n : Nat) (occ : Occupancy) {u : Nat} {w : Wave}
    (h : y.w.d.wave u = some w) (hne : u ≠ y.v.uid) :
    ∃ w', (y.goto pc n occ).d.wave u = some w' ∧ w' = { w with splits := w'.splits } ∧ w'.calls = w.calls := by
  rw [Iss.goto_eq hst]
  exact wave_markIssued_of_some _ _ _ (Iss.put_wave_of_ne (y := y.retired pc n occ) h hne)

/-- R53, R395: the wave that retires: its split and its count of issues, and what its splits yield to. -/
theorem goto_wave_self {y : Iss} (hst : y.f.st = false) (pc : VAddr) (n : Nat) (occ : Occupancy) {w : Wave}
    (h : y.w.d.wave y.v.uid = some w) :
    ∃ w', (y.goto pc n occ).d.wave y.v.uid = some w' ∧
      w' = { y.v with splits := w'.splits, counters := { y.v.counters with issued := y.v.counters.issued + 1 } } ∧
      w'.calls = (y.v.updSplit y.p.num (fun _ => (y.retired pc n occ).p)).calls := by
  have hput : (y.retired pc n occ).put.d.wave y.v.uid =
      some ((y.retired pc n occ).v.updSplit y.p.num (fun _ => (y.retired pc n occ).p)) :=
    Iss.put_wave_same (y := y.retired pc n occ) h
  have hcount : (y.retired pc n occ).v = { y.v with counters := { y.v.counters with issued := y.v.counters.issued + 1 } } := by
    simp [Iss.retired, hst]
  rw [Iss.goto_eq hst]
  obtain ⟨w', hfound, hw, hcalls⟩ := wave_markIssued_of_some (y.retired pc n occ).v y.p.num occ hput
  refine ⟨w', hfound, hw.trans ?_, hcalls⟩
  rw [hcount]
  rfl

/-! ## Safe points (R79, R271, R429, R434) -/

/-- R271: what the version lines of a core are read from is no part of what an issue changes. -/
theorem OnlyIssues.coreLines_eq {d e : Dev} (h : OnlyIssues d e) (core : Nat) : coreLines e core = coreLines d core := by
  have hvers : e.vers = d.vers := by rw [h.rest]
  have hbound : ∀ k, (e.core k).boundary = (d.core k).boundary := fun k => by rw [h.cores k]
  have hline : VerByte.line e = VerByte.line d := by
    funext x
    simp only [VerByte.line, verLine, committing, hbound]
  simp only [coreLines, verLines, hvers, hline]

theorem OnlyIssues.coreOf_eq {d e : Dev} (h : OnlyIssues d e) (v : Wave) : e.coreOf v = d.coreOf v := by
  rw [h.rest]
  rfl

theorem OnlyIssues.ctx_eq {d e : Dev} (h : OnlyIssues d e) (i : Nat) : e.ctx i = d.ctx i := by
  rw [h.rest]
  rfl

theorem OnlyIssues.siteAt_eq {d e : Dev} (h : OnlyIssues d e) (v : Wave) (pc : VAddr) : siteAt e v pc = siteAt d v pc := by
  rw [h.rest]
  rfl

/-- R271: a core below its high water takes no early boundary. -/
theorem highWater_of_lt {w : Work} {core : Nat} (h : (coreLines w.d core).length < 28672) : highWater w core = w := by
  simp [highWater, Nat.not_le.2 h]

theorem traceRecord_of_off {c : Ctx} (h : c.trCtl.getLsbD 63 = false) (w : Work) (v : Wave) (o : Nat) :
    traceRecord w v c o = w := by
  simp only [traceRecord, h, Bool.false_and, Bool.false_eq_true, if_false]

/-- R79: an issue with ST set is one with ST clear, its safe point counted, and what the safe point brings. -/
theorem Iss.goto_eq_safePoint {y : Iss} (hst : y.f.st = true) (pc : VAddr) (n : Nat) (occ : Occupancy) :
    y.goto pc n occ = safePoint (y.plain.goto pc n occ) (y.retired pc n occ).v (y.retired pc n occ).p y.p.pc y.lanes := by
  have hplain : y.plain.goto pc n occ =
      (y.retired pc n occ).put.upd (fun d => markIssued d (y.retired pc n occ).v y.p.num occ) := by
    rw [Iss.goto_eq rfl]
    simp [Iss.retired, Iss.plain, hst, Iss.put, Iss.cc]
  rw [hplain]
  simp [Iss.goto, Iss.retired, hst]

/-- R271, R429, R434: off the stop sites, a safe point below the high water brings nothing. -/
theorem safePoint_of_none {w : Work} {v : Wave} {c : Ctx} {pc : VAddr} (hlines : (coreLines w.d (w.d.coreOf v)).length < 28672)
    (hc : w.d.ctx v.ctx = some c) (hsite : siteAt w.d v pc = none) (p : Split) (act : LaneMask) : safePoint w v p pc act = w := by
  simp [safePoint, highWater_of_lt hlines, hc, hsite]

/-- R429: at a stop site, below the high water and with tracing off, it brings the trap of an armed breakpoint alone. -/
theorem safePoint_of_site {w : Work} {v : Wave} {c : Ctx} {pc : VAddr} {site : StopSite} {p : Split}
    (hlines : (coreLines w.d (w.d.coreOf v)).length < 28672) (hc : w.d.ctx v.ctx = some c) (htrace : c.trCtl.getLsbD 63 = false)
    (hsite : siteAt w.d v pc = some site) (hp : p.trapped = false) (act : LaneMask) :
    safePoint w v p pc act =
      if armed c site.kernel site.ordinal then
        w.upd (fun d => raise d { splitTrap v p tBreak p.stopPoint act (2 ^ 31 + site.ordinal % 8192) 0 with site := some site })
      else w := by
  simp [safePoint, highWater_of_lt hlines, hc, hsite, traceRecord_of_off htrace, hp]

end Sys2Proof.Machine

/-- Settles O57: what a retiring issue does to the device, to its wave and to the others, and what a safe point adds. -/
theorem retiringKeepsTheRest : Obligations.RetiringKeepsTheRest := by
  refine ⟨fun s t i y pc n occ hws hst hans hexec => ?_, fun y pc n occ => rfl, fun y pc n occ c hst hlines hc htrace => ?_⟩
  · obtain rfl : (y.goto pc n occ).after s = t := by
      rw [Answers, hexec] at hans
      injection hans with h
      exact h.symm
    exact ⟨by simp [goto_ws hst, hws, Memory.writeAll], goto_traps hst pc n occ, onlyIssues_goto hst pc n occ,
      fun u v => goto_wave_of_ne hst pc n occ, fun v => goto_wave_self hst pc n occ⟩
  · have only : OnlyIssues y.w.d (y.plain.goto pc n occ).d := onlyIssues_goto (y := y.plain) rfl pc n occ
    have hlines' : (coreLines (y.plain.goto pc n occ).d
        ((y.plain.goto pc n occ).d.coreOf (y.retired pc n occ).v)).length < 28672 := by
      rw [only.coreLines_eq, only.coreOf_eq]
      exact hlines
    have hc' := (only.ctx_eq y.v.ctx).trans hc
    have hsites := only.siteAt_eq (y.retired pc n occ).v y.p.pc
    rw [Iss.goto_eq_safePoint hst]
    exact ⟨fun hsite => safePoint_of_none hlines' hc' (hsites.trans hsite) _ _,
      fun site hsite hp => safePoint_of_site (p := (y.retired pc n occ).p) hlines' hc' htrace (hsites.trans hsite) hp _⟩

end

section
/-! PROOF. The passing of time (spec/02 R35, R53, spec/08 R227, spec/10 R266 to R282): cycles, swaps, boundaries and ticks, and
O39. -/

open Sys2Proof
open Sys2Proof.Machine

namespace Sys2Proof.Machine

/-! ## Repeated changes -/

/-- What each change of a run of changes keeps, the run keeps. -/
theorem foldl_keeps {α β γ : Type} {g : α → γ} {f : α → β → α} (h : ∀ a b, g (f a b) = g a) (l : List β) (a : α) :
    g (l.foldl f a) = g a := by
  induction l generalizing a with
  | nil => rfl
  | cons b l ih => rw [List.foldl_cons, ih, h]

/-! ## A cc (R53, R395) -/

/-- R53, R400: the cc of a device, and what has issued and has tried to in it. -/
def Dev.clock (d : Dev) : Nat × List Issued × List (Nat × Nat) := (d.cc, d.issued, d.tried)

theorem fillTable_clock (fuel : Nat) (d : Dev) (core sched : Nat) : (fillTable fuel d core sched).clock = d.clock := by
  induction fuel generalizing d with
  | zero => rfl
  | succ fuel ih =>
    rw [fillTable]
    split
    · rfl
    · exact ih _

theorem fillTables_clock (d : Dev) : (fillTables d).clock = d.clock :=
  foldl_keeps (fun d i => fillTable_clock 32 d (i / 8) (i % 8)) _ d

theorem shrinkShare_clock (d : Dev) (task pos : Nat) : (shrinkShare d task pos).clock = d.clock := by
  rw [shrinkShare]
  split <;> rfl

theorem resetBuffers_clock (d : Dev) (t : Task) : (resetBuffers d t).clock = d.clock := by
  rw [resetBuffers]
  refine foldl_keeps ?_ _ d
  exact fun d _ => shrinkShare_clock _ _ _

theorem fuseWave_clock (d : Dev) (u : Nat) : (fuseWave d u).clock = d.clock := by
  rw [fuseWave]
  split <;> rfl

theorem injectNext_clock (d : Dev) : (injectNext d).clock = d.clock := by
  rw [injectNext]
  refine foldl_keeps ?_ _ d
  exact fun _ _ => rfl

/-- R53: a cc has passed, and nothing has issued in the next. -/
theorem passCycle_clock (w : Work) : (passCycle w).d.clock = (w.d.cc + 1, [], []) := by
  rw [passCycle, Work.upd_d, injectNext_clock]
  refine (foldl_keeps fuseWave_clock _ _).trans ?_
  rw [fillTables_clock]
  exact foldl_keeps resetBuffers_clock _ _

/-- A step that has written no byte keeps memory. -/
theorem keepsMemory_of_ws {s : State} {w : Work} (h : w.ws = []) : KeepsMemory s (w.after s) := fun a => by
  rw [Work.after_mem, h, Memory.writeAll, List.foldr_nil]

theorem coreCycle_answers (s : State) : Answers s .coreCycle (passCycle s.work) := by
  show execCoreCycle s = _
  exact State.run_ok rfl

/-! ## Splits and the time (R35, R227, R282) -/

theorem splitSwapPeriod_answers {s : State} {u : Nat} {v : Wave} {p : Split} (hv : s.dev.wave u = some v)
    (hspilled : v.spilled ≠ []) (hcount : 4096 ≤ v.spillCount) (hp : longestLoaded v = some p) :
    Answers s (.splitSwapPeriod u) (s.work.upd (fun d => d.updWave u (fun v =>
      let due := { v with spillCount := v.spillCount - 4096 }
      if inIssue d v p then { due with swapDue := true, swapSplit := p.num } else swapSplits due p.num d.cc))) := by
  show execSplitSwapPeriod u s = _
  refine State.run_ok ?_
  simp only [State.work_d, hv, hp]
  simp [hspilled, Nat.not_lt.2 hcount]

theorem splitSwapDeferred_answers {s : State} {u : Nat} {v : Wave} {p : Split} (hv : s.dev.wave u = some v)
    (hdue : v.swapDue = true) (hp : v.split v.swapSplit = some p) (hidle : inIssue s.dev v p = false) :
    Answers s (.splitSwapDeferred u) (s.work.upd (fun d => d.updWave u (fun v =>
      if p.loaded then swapSplits v p.num d.cc else { v with swapDue := false }))) := by
  show execSplitSwapDeferred u s = _
  refine State.run_ok ?_
  simp [hv, hdue, hp, hidle]

theorem sleepExpiry_answers {s : State} {u n : Nat} {v : Wave} {p : Split} (hv : s.dev.wave u = some v) (hp : v.split n = some p)
    (hasleep : p.asleep = true) (hsleep : p.sleep = 0) :
    Answers s (.sleepExpiry u n) (s.work.upd (fun d => d.updWave u (fun v =>
      v.updSplit n (fun p => { p with asleep := false })))) := by
  show execSleepExpiry u n s = _
  refine State.run_ok ?_
  simp [hv, hp, hasleep, hsleep]

theorem yieldEnd_answers {s : State} {u n : Nat} {v : Wave} {p : Split} {y : Yield} (hv : s.dev.wave u = some v)
    (hp : v.split n = some p) (hy : p.yield = some y) (hfresh : y.fresh = false) (hover : y.peers = [] ∨ y.until_ ≤ s.dev.cc) :
    Answers s (.yieldEnd u n) (s.work.upd (fun d => d.updWave u (fun v =>
      v.updSplit n (fun p => { p with yield := none })))) := by
  show execYieldEnd u n s = _
  refine State.run_ok ?_
  have hends : (!y.fresh && (y.peers.isEmpty || decide (y.until_ ≤ s.dev.cc))) = true := by simpa [hfresh] using hover
  simp only [State.work_d, hv, Option.bind_some, hp, hy]
  exact if_pos hends

theorem fencescGuardExpiry_answers {s : State} {u n c : Nat} {v : Wave} {p : Split} (hv : s.dev.wave u = some v)
    (hp : v.split n = some p) (hstage : p.stage = .scGuard c) (hover : c + 1024 ≤ s.dev.cc) :
    Answers s (.fencescGuardExpiry u n) (s.work.upd (fun d => d.updWave u (fun v =>
      v.updSplit n (fun p => { p with stage := .scEntry none })))) := by
  show execFencescGuardExpiry u n s = _
  refine State.run_ok ?_
  simp [hv, hp, hstage, Nat.not_lt.2 hover]

/-! ## A core changed -/

theorem Dev.core_updCore (d : Dev) (i k : Nat) (f : Core → Core) :
    (d.updCore i f).core k = if i = k ∧ k < d.cores.length then f (d.core k) else d.core k :=
  getD_updAt d.cores i k f Core.reset

theorem Dev.core_updCore_of_ne (d : Dev) {i k : Nat} (h : k ≠ i) (f : Core → Core) : (d.updCore i f).core k = d.core k := by
  rw [Dev.core_updCore, if_neg (fun hk => h hk.1.symm)]

/-! ## Commits that complete (R266, R270) -/

theorem getElem?_of_mem_enum {α : Type} {l : List α} {i : Nat} {x : α} (h : (i, x) ∈ enum l) : l[i]? = some x := by
  obtain ⟨k, hk⟩ := List.mem_iff_getElem?.1 h
  obtain ⟨hi, hx⟩ := List.getElem?_zip_eq_some.1 hk
  obtain ⟨_, hki⟩ := List.getElem?_eq_some_iff.1 hi
  rw [List.getElem_range] at hki
  obtain rfl : k = i := hki
  exact hx

/-- R266: a core whose commit completes. -/
def Core.complete (c : Core) (cc : Nat) : Core :=
  { c with
    committed := (c.boundary.map Boundary.num).getD c.committed
    lastCommitCc := cc
    boundary := c.boundary.map (fun b => { b with done := true }) }

theorem Core.complete_complete (c : Core) (cc : Nat) : (c.complete cc).complete cc = c.complete cc := by
  cases h : c.boundary <;> simp [Core.complete, h]

theorem completeCommits_eq (d : Dev) (ss : List Nat) : completeCommits d ss =
    (commitCores d ss).foldl (fun d k => d.updCore k (fun c => c.complete d.cc))
      { d with openCommits := d.openCommits.filter (fun s => !ss.contains s) } := rfl

theorem completeCommits_openCommits (d : Dev) (ss : List Nat) :
    (completeCommits d ss).openCommits = d.openCommits.filter (fun s => !ss.contains s) := by
  rw [completeCommits_eq]
  refine foldl_keeps (g := Dev.openCommits) ?_ _ _
  exact fun _ _ => rfl

/-- Completing some commits completes each core's once. -/
theorem core_foldl_complete (ks : List Nat) (d : Dev) (k : Nat) :
    (ks.foldl (fun d k => d.updCore k (fun c => c.complete d.cc)) d).core k =
      if k ∈ ks ∧ k < d.cores.length then (d.core k).complete d.cc else d.core k := by
  induction ks generalizing d with
  | nil => simp
  | cons j ks ih =>
    have hlen : (d.updCore j (fun c => c.complete d.cc)).cores.length = d.cores.length := by simp [updAt]
    rw [List.foldl_cons, ih, hlen, Dev.core_updCore, Dev.updCore_cc]
    by_cases hj : j = k
    · by_cases hk : k < d.cores.length <;> simp [hj, hk, Core.complete_complete]
    · simp [hj, Ne.symm hj]

/-- R266: a core of `commitCores` has a commit under way. -/
theorem boundary_of_mem_commitCores {d : Dev} {ss : List Nat} {k : Nat} (h : k ∈ commitCores d ss) :
    ∃ b, (d.core k).boundary = some b := by
  obtain ⟨⟨i, c⟩, hmem, rfl⟩ := List.mem_map.1 h
  obtain ⟨hc, hb⟩ := List.mem_filter.1 hmem
  have hcore : d.core i = c := by rw [Dev.core, List.getD_eq_getElem?_getD, getElem?_of_mem_enum hc, Option.getD_some]
  cases hbound : c.boundary with
  | none => simp [hbound] at hb
  | some b => exact ⟨b, by rw [hcore, hbound]⟩

/-- R266, R270: each core whose commit completes holds its boundary's number as committed. -/
theorem core_completeCommits {d : Dev} {ss : List Nat} {k : Nat} (h : k ∈ commitCores d ss) (hk : k < d.cores.length) :
    ((completeCommits d ss).core k).boundary.map Boundary.done = some true ∧
    some ((completeCommits d ss).core k).committed = (d.core k).boundary.map Boundary.num := by
  obtain ⟨b, hb⟩ := boundary_of_mem_commitCores h
  rw [completeCommits_eq, core_foldl_complete, if_pos ⟨h, hk⟩]
  have hcore : ({ d with openCommits := d.openCommits.filter (fun s => !ss.contains s) } : Dev).core k = d.core k := rfl
  rw [hcore]
  simp [Core.complete, hb]

/-! ## Entries and the end of a boundary (R241, R266, R267) -/

/-- R241, R266: the commits under way, and the cores: what the loads of fills under way keep leaves them. -/
def Dev.commits (d : Dev) : List Nat × List Core := (d.openCommits, d.cores)

theorem keepLate_commits (d : Dev) (core : Nat) : (keepLate d core).commits = d.commits := by
  rw [keepLate]
  refine foldl_keeps (fun d m => ?_) _ d
  split
  · refine foldl_keeps ?_ _ d
    exact fun _ _ => rfl
  · rfl

theorem enter_openCommits (d : Dev) (core : Nat) : (enter d core).openCommits = d.openCommits :=
  congrArg Prod.fst (keepLate_commits d core)

theorem enter_core_of_ne (d : Dev) {core k : Nat} (h : k ≠ core) : (enter d core).core k = d.core k := by
  have hcores : (keepLate d core).cores = d.cores := congrArg Prod.snd (keepLate_commits d core)
  refine (Dev.core_updCore_of_ne (keepLate d core) h _).trans ?_
  rw [Dev.core, hcores, Dev.core]

/-- R266: the end of a written commit that awaits no other: the commits of its group are complete, whatever becomes of the entry
that follows on its own core. -/
theorem completeBoundary_of_written {d : Dev} {core : Nat} {b : Boundary} (hb : (d.core core).boundary = some b)
    (hwritten : b.written = true) (hdone : b.done = false) (hnone : awaitsNone d b.serial = true) :
    ∃ e, completeBoundary d core = some e ∧ e.openCommits = (completeCommits d (commitGroup d b.serial)).openCommits ∧
      ∀ k, k ≠ core → e.core k = (completeCommits d (commitGroup d b.serial)).core k := by
  simp only [completeBoundary, hb, hwritten, hdone, hnone]
  set x := completeCommits d (commitGroup d b.serial)
  by_cases hentry : b.entry = true
  · by_cases hreads : readsComplete x core = true
    · simp only [hentry, hreads, Bool.not_true, Bool.false_eq_true, Bool.or_true, Bool.and_self, if_true, if_false]
      refine ⟨_, rfl, enter_openCommits x core, fun k hk => ?_⟩
      rw [Dev.core_updCore_of_ne _ hk, Dev.core_updCore_of_ne _ hk, enter_core_of_ne x hk]
    · exact ⟨x, by simp [hentry, hreads], rfl, fun _ _ => rfl⟩
  · simp only [hentry, Bool.not_false, Bool.or_true, Bool.and_self, if_true]
    exact ⟨_, rfl, rfl, fun k hk => Dev.core_updCore_of_ne _ hk _⟩

/-! ## Boundaries (R266 to R270, R275) -/

/-- R267, R268: with no boundary under way, and none ended in this cc that a merged one must wait for, the next begins. -/
theorem startMerged_of_free {w : Work} {core : Nat} (hnone : (w.d.core core).boundary = none)
    (hfree : (w.d.core core).merged = none ∨ (w.d.core core).ended < w.d.cc) :
    startMerged w core = some (tryCommit (w.upd (fun d => startBoundary (d.updCore core (fun c => { c with merged := none })) core
      ((w.d.core core).merged.getD true))) core) := by
  refine if_neg ?_
  rcases hfree with h | h <;> simp [hnone, h]

theorem mergedBoundaryStart_answers {s : State} {core : Nat} (hnone : (s.dev.core core).boundary = none)
    (hfree : (s.dev.core core).merged = none ∨ (s.dev.core core).ended < s.dev.cc) :
    Answers s (.mergedBoundaryStart core)
      (tryCommit (s.work.upd (fun d => startBoundary (d.updCore core (fun c => { c with merged := none })) core
        ((s.dev.core core).merged.getD true))) core) := by
  show execMergedBoundaryStart core s = _
  refine State.run_ok ?_
  simp only [startMerged_of_free (w := s.work) hnone hfree, State.work_d]

theorem commitComplete_answers_of_unwritten {s : State} {core : Nat} {b : Boundary} (hb : (s.dev.core core).boundary = some b)
    (hwritten : b.written = false) (hstand : storesStand s.dev core = true) :
    Answers s (.commitComplete core) (tryCommit s.work core) := by
  show execCommitComplete core s = _
  refine State.run_ok ?_
  simp [unwritten, hb, hwritten, hstand]

theorem commitComplete_answers_of_complete {s : State} {core : Nat} {b : Boundary} {d : Dev}
    (hb : (s.dev.core core).boundary = some b) (hwritten : b.written = true) (hd : completeBoundary s.dev core = some d) :
    Answers s (.commitComplete core) ((jointCores s.dev core).foldl (fun w c => afterBoundary w c [])
      (afterBoundary { s.work with d } core (awaitingEntry s.dev core))) := by
  show execCommitComplete core s = _
  refine State.run_ok ?_
  simp [unwritten, hb, hwritten, hd]

theorem neighbourNumberReceived_answers {s : State} {task core n nx ny nc : Nat} {t : Task} {l : Launch}
    (ht : s.dev.task task = some t) (hl : s.dev.launch t.ctx t.launchId = some l) (hx : core / 4 % 12 < l.w)
    (hy : core / 4 / 12 < l.h)
    (hn : (neighbours l.w l.h (core / 4 % 12) (core / 4 / 12) (core % 4)).getD n none = some (nx, ny, nc)) :
    Answers s (.neighbourNumberReceived task core n) (s.work.upd (fun d => d.updTask task (fun t => { t with
      cores := updAt t.cores ((core / 4 / 12 * l.w + core / 4 % 12) * 4 + core % 4)
        (fun k => { k with nbr := updAt k.nbr n (fun y => y.receive s.dev.cc (coreNumber s.dev task nx ny nc)) }) }))) := by
  show execNeighbourNumberReceived task core n s = _
  refine State.run_ok ?_
  simp only [State.work_d, ht, hl]
  rw [if_neg (by omega), hn]

/-! ## Ticks (R281, R282, R447) -/

/-- R281, R447: a package tick counts, and a new period governs from it on. -/
theorem packageTick_answers {s : State} (hdue : s.dev.hb.next ≤ s.dev.cc) : ∃ w, Answers s .packageTick w ∧
    w.d.hb.count = (s.dev.hb.count + 1) % 2 ^ 64 ∧ w.d.hb.logP = s.dev.hbPending.getD s.dev.hb.logP ∧
    w.d.hb.next = s.dev.hb.next + 2 ^ w.d.hb.logP ∧ w.d.hbPending = none ∧ KeepsMemory s (w.after s) :=
  ⟨_, show execPackageTick s = _ from State.run_ok (if_neg (Nat.not_lt.2 hdue)), rfl, rfl, rfl, rfl, keepsMemory_of_ws rfl⟩

/-- R281: a domain tick counts. -/
theorem domainTick_answers {s : State} (hruns : s.dev.hb.domRunning = true) (hdue : s.dev.hb.domNext ≤ s.dev.cc) :
    ∃ w, Answers s .domainTick w ∧
    w.d.hb = { s.dev.hb with
      domCount := (s.dev.hb.domCount + 1) % 2 ^ 64, domNext := s.dev.hb.domNext + 16 * 2 ^ s.dev.hb.logP } ∧
    KeepsMemory s (w.after s) := by
  have hrun : ¬ (!s.dev.hb.domRunning) = true := by simp [hruns]
  exact ⟨_, show execDomainTick s = _ from State.run_ok ((if_neg hrun).trans (if_neg (Nat.not_lt.2 hdue))), rfl,
    keepsMemory_of_ws rfl⟩

theorem cyclesPass : Claims.CyclesPass := by
  refine ⟨fun s => ?_, fun _ _ _ _ => splitSwapPeriod_answers, fun _ _ _ _ => splitSwapDeferred_answers,
    fun _ _ _ _ _ hv hp => ⟨sleepExpiry_answers hv hp, fun _ => yieldEnd_answers hv hp⟩⟩
  obtain ⟨hcc, hissued, htried⟩ : _ ∧ _ ∧ _ := by simpa only [Dev.clock, Prod.mk.injEq] using passCycle_clock s.work
  exact ⟨coreCycle_answers s, hcc, hissued, htried, keepsMemory_of_ws rfl⟩

theorem boundariesAndTicksPass : Claims.BoundariesAndTicksPass := by
  refine ⟨fun _ _ => mergedBoundaryStart_answers, fun s core b hb => ⟨commitComplete_answers_of_unwritten hb,
    fun hwritten hdone hnone => ?_⟩, fun _ _ _ _ _ _ _ _ _ => neighbourNumberReceived_answers, fun _ => packageTick_answers,
    fun _ => domainTick_answers, fun _ _ _ _ _ _ => fencescGuardExpiry_answers⟩
  obtain ⟨d, hd, hopen, hcores⟩ := completeBoundary_of_written hb hwritten hdone hnone
  refine ⟨d, hd, hopen.trans (completeCommits_openCommits _ _), fun c hmem hc hne => ?_,
    commitComplete_answers_of_complete hb hwritten hd⟩
  rw [hcores c hne]
  exact core_completeCommits hmem hc

end Sys2Proof.Machine

/-- Settles O39: each step of the time, by the lemma that says what it answers. -/
theorem timePasses : Obligations.TimePasses := ⟨cyclesPass, boundariesAndTicksPass⟩

end

section
/-! PROOF. The encoding (spec/03 R61 to R82): each code, word and list of bytes is read back as what was written; O54 and O56. -/

open Sys2Proof
open Sys2Proof.Machine

namespace Sys2Proof.Decode

/-! ## Codes read back (R64, R68, R72, R75) -/

theorem src_srcCode (s : Src) : src (srcCode s) = s := by
  cases s with
  | age i | frame i | const i | inbox i => revert i; decide
  | lane | wslot | x13 | imm => rfl

theorem ds_dsCode (d : DS) : ds (dsCode d) = d := by cases d <;> rfl

theorem rnd_rndCode (r : Rnd) : rnd (rndCode r) = some r := by cases r <;> rfl

theorem tyOf_tyCode (t : Ty) : tyOf (tyCode t) = t := by cases t <;> rfl

/-! ## Fields side by side (R62, R75) -/

/-- R62: the fields of a base word side by side, in a type that shows their widths. -/
abbrev baseFields (op fn : Nat) (f : Form) :=
  BitVec.ofNat 8 op ++ BitVec.ofBool f.guard.inv ++ BitVec.ofNat 3 f.guard.p.val ++ dsCode f.ds ++ f.fd ++
    srcCode f.sa ++ srcCode f.sb ++ srcCode f.sc ++ BitVec.ofNat 7 (fn + if f.packed then 64 else 0) ++
    tyCode f.ty ++ BitVec.ofBool f.st ++ BitVec.ofBool f.modw.isSome ++ BitVec.ofBool f.imm.isSome ++ f.x13

theorem extract_baseWord (op fn : Nat) (f : Form) (lo len : Nat) :
    (baseWord op fn f).extractLsb' lo len = (baseFields op fn f).extractLsb' lo len := rfl

theorem getLsbD_baseWord (op fn : Nat) (f : Form) (i : Nat) :
    (baseWord op fn f).getLsbD i = ((baseFields op fn f).extractLsb' i 1).getLsbD 0 := by
  rw [BitVec.getLsbD_extractLsb']
  simp
  rfl

/-- R75: the fields of a modifier word side by side. -/
abbrev modifierFields (m : Modifier) :=
  BitVec.ofBool m.na ++ BitVec.ofBool m.aa ++ BitVec.ofBool m.nb ++ BitVec.ofBool m.ab ++ BitVec.ofBool m.nc ++
    BitVec.ofBool m.ac ++ BitVec.ofBool m.sat ++ (clampCode m.clamp).1 ++ m.scale ++ rndCode m.rnd ++ BitVec.ofBool m.raw ++
    (0 : BitVec 13) ++ (clampCode m.clamp).2.1 ++ (clampCode m.clamp).2.2

theorem extract_modifierWord (m : Modifier) (lo len : Nat) :
    (modifierWord m).extractLsb' lo len = (modifierFields m).extractLsb' lo len := rfl

theorem getLsbD_modifierWord (m : Modifier) (i : Nat) :
    (modifierWord m).getLsbD i = ((modifierFields m).extractLsb' i 1).getLsbD 0 := by
  rw [BitVec.getLsbD_extractLsb']
  simp
  rfl

/-! ## Words read back -/

/-- R75: the fields of a modifier word, each read where it is written. -/
theorem modifier_modifierWord (m : Modifier) : modifier (modifierWord m) = some m := by
  simp (disch := decide) only [modifier, bits, extract_modifierWord, getLsbD_modifierWord,
    BitVec.extractLsb'_append_eq_of_le, BitVec.extractLsb'_append_eq_of_add_le]
  obtain ⟨na, aa, nb, ab, nc, ac, sat, clamp, scale, rnd, raw⟩ := m
  cases clamp <;> simp [clampCode, rnd_rndCode]

theorem bits_baseWord_major {op : Nat} (h : op < 256) (fn : Nat) (f : Form) : bits (baseWord op fn f) 56 8 = op := by
  simp (disch := decide) only [bits, extract_baseWord, BitVec.extractLsb'_append_eq_of_le]
  simpa using h

theorem bits_baseWord_fn {fn : Nat} (h : fn < 64) (op : Nat) (f : Form) :
    bits (baseWord op fn f) 20 7 = fn + if f.packed then 64 else 0 := by
  simp (disch := decide) only [bits, extract_baseWord, BitVec.extractLsb'_append_eq_of_le, BitVec.extractLsb'_append_eq_of_add_le]
  rw [BitVec.extractLsb'_eq_self, BitVec.toNat_ofNat]
  exact Nat.mod_eq_of_lt (by split <;> omega)

@[simp] theorem hasMod_baseWord (op fn : Nat) (f : Form) : hasMod (baseWord op fn f) = f.modw.isSome := by
  simp (disch := decide) only [hasMod, getLsbD_baseWord, BitVec.extractLsb'_append_eq_of_le,
    BitVec.extractLsb'_append_eq_of_add_le]
  simp

@[simp] theorem hasImm_baseWord (op fn : Nat) (f : Form) : hasImm (baseWord op fn f) = f.imm.isSome := by
  simp (disch := decide) only [hasImm, getLsbD_baseWord, BitVec.extractLsb'_append_eq_of_le,
    BitVec.extractLsb'_append_eq_of_add_le]
  simp

theorem fields_baseWord (op fn : Nat) (f : Form) : fields (baseWord op fn f) f.packed f.modw f.imm = f := by
  simp (disch := decide) only [fields, bits, extract_baseWord, getLsbD_baseWord,
    BitVec.extractLsb'_append_eq_of_le, BitVec.extractLsb'_append_eq_of_add_le]
  simp [src_srcCode, ds_dsCode, tyOf_tyCode, Nat.mod_eq_of_lt f.guard.p.isLt]

/-! ## The opcode map read back (R74, R81, R82) -/

/-- R74, R81: where a form stands, its function leaves FN[6] to the packed bit, which only the majors of R74 have. -/
theorem formSpec_place {i : Instr} {g : FormSpec} (h : formSpec i = some g) :
    g.major < 256 ∧ g.fn < 64 ∧ (g.packed = true → packable g.major = true) := by
  cases i with
  | icmp o | fcmp o | wred o | atom o | red o => cases h; cases o <;> decide
  | wscan o excl => cases h; cases o <;> cases excl <;> decide
  | _ => cases h <;> decide

/-- R81: an assigned encoding stands in the opcode map at its major opcode and function.
R300: `red` has no `xchg` and no `cas`. -/
theorem build_of_formOk {i : Instr} {g : FormSpec} {f : Form} (hg : formSpec i = some g) (hf : formOf i = some f)
    (hok : formOk g i f = true) : ∃ k, build g.major g.fn = some k ∧ k f = i := by
  cases i with
  | red o =>
    cases hg; cases hf
    have hextra : o ≠ .xchg ∧ o ≠ .cas := by
      simp [formOk, extraOk] at hok
      tauto
    cases o with
    | xchg | cas => simp at hextra
    | _ => exact ⟨_, rfl, rfl⟩
  | icmp o | fcmp o | wred o | atom o => cases hg; cases hf; cases o <;> exact ⟨_, rfl, rfl⟩
  | wscan o excl => cases hg; cases hf; cases o <;> cases excl <;> exact ⟨_, rfl, rfl⟩
  | _ => cases hg <;> cases hf <;> exact ⟨_, rfl, rfl⟩

/-! ## Instructions read back (R61, R82) -/

/-- R74, R82: only a form of the majors of R74 is packed. -/
theorem packable_of_formOk {i : Instr} {g : FormSpec} {f : Form} (hg : formSpec i = some g) (hok : formOk g i f = true)
    (hp : f.packed = true) : packable g.major = true := by
  refine (formSpec_place hg).2.2 ?_
  simp [formOk, hp] at hok
  tauto

/-- R82: the words of an assigned encoding are assembled to its instruction. -/
theorem assemble_baseWord {i : Instr} {g : FormSpec} {f : Form} (hg : formSpec i = some g) (hf : formOf i = some f)
    (hok : formOk g i f = true) : assemble (baseWord g.major g.fn f) (f.modw.map modifierWord) f.imm = .ok i := by
  obtain ⟨hmajor, hfn, -⟩ := formSpec_place hg
  obtain ⟨k, hk, hi⟩ := build_of_formOk hg hf hok
  have hpacked : (packable g.major && decide (64 ≤ g.fn + if f.packed then 64 else 0)) = f.packed := by
    cases hp : f.packed
    · simp [hfn]
    · simp [packable_of_formOk hg hok hp]
  have hplace : (if f.packed then (g.fn + if f.packed then 64 else 0) - 64 else g.fn + if f.packed then 64 else 0) = g.fn := by
    cases f.packed <;> simp
  have hform : k (fields (baseWord g.major g.fn f) f.packed f.modw f.imm) = i := by rw [fields_baseWord, hi]
  have hvalid : instrOk i = true := by simp [instrOk, hg, hf, hok]
  simp only [assemble, bits_baseWord_major hmajor, bits_baseWord_fn hfn, hpacked, hplace, hk]
  cases hm : f.modw with
  | none => rw [hm] at hform; simp [hform, hvalid]
  | some m => rw [hm] at hform; simp [modifier_modifierWord, hform, hvalid]

/-- R61: a base word, and the words it says follow it, are assembled together, whatever comes after them. -/
theorem words_of_base {w : Word} {mw imm : Option Word} (hmod : hasMod w = mw.isSome) (himm : hasImm w = imm.isSome)
    (rest : List Word) : words (w :: (mw.toList ++ imm.toList) ++ rest) =
      (assemble w mw imm).map (fun i => (i, (w :: (mw.toList ++ imm.toList)).length)) := by
  cases mw <;> cases imm <;> simp [words, hmod, himm]

/-- R61, R82: the words of an assigned encoding, followed by any others, are read as its instruction and their number. -/
theorem words_encode {i : Instr} (h : i.WellFormed) (rest : List Word) :
    words (encode i ++ rest) = .ok (i, (encode i).length) := by
  obtain ⟨g, f, hg, hf, hok⟩ : ∃ g f, formSpec i = some g ∧ formOf i = some f ∧ formOk g i f = true := by
    unfold Instr.WellFormed instrOk at h
    split at h
    · exact ⟨_, _, ‹_›, ‹_›, h⟩
    · cases h
  have hencode : encode i = baseWord g.major g.fn f :: ((f.modw.map modifierWord).toList ++ f.imm.toList) := by
    simp [encode, hg, hf]
  rw [hencode, words_of_base (by simp) (by simp), assemble_baseWord hg hf hok]
  rfl

/-! ## Bytes read back (R3) -/

/-- R3: the eight bytes of a word, joined, are the word. -/
theorem word_extract (w : Word) : word (w.extractLsb' 0 8) (w.extractLsb' 8 8) (w.extractLsb' 16 8) (w.extractLsb' 24 8)
    (w.extractLsb' 32 8) (w.extractLsb' 40 8) (w.extractLsb' 48 8) (w.extractLsb' 56 8) = w := by
  simp (disch := rfl) only [word, BitVec.extractLsb'_append_extractLsb'_eq_extractLsb']
  exact BitVec.extractLsb'_eq_self

theorem wordsOf_wordBytes (w : Word) (bs : List Byte) : wordsOf (wordBytes w ++ bs) = w :: wordsOf bs :=
  congrArg (· :: wordsOf bs) (word_extract w)

theorem wordsOf_flatMap_wordBytes (ws : List Word) (bs : List Byte) :
    wordsOf (ws.flatMap wordBytes ++ bs) = ws ++ wordsOf bs := by
  induction ws with
  | nil => rfl
  | cons w ws ih => rw [List.flatMap_cons, List.append_assoc, wordsOf_wordBytes, ih, List.cons_append]

end Sys2Proof.Decode

/-- Settles O54: the words stand in the bytes, and each field of a word is read where it is written. -/
theorem decodingUndoesEncoding : Obligations.DecodingUndoesEncoding := by
  intro i rest h
  rw [Decode.decode, encodeBytes, Decode.wordsOf_flatMap_wordBytes, Decode.words_encode h]
  rfl

/-- Settles O56: each word decoded as it stands. -/
theorem decodedWordsAreRight : Obligations.DecodedWordsAreRight := by
  unfold Obligations.DecodedWordsAreRight
  decide +kernel

end

section
/-! PROOF. What a lane holds once an issue has delivered its results or written a predicate (spec/03 R68 to R71, spec/04 R92,
R101, R103); O6 and O7. -/

open Sys2Proof
open Sys2Proof.Machine

namespace Sys2Proof.Machine

/-! ## Lanes changed one by one -/

theorem getElem?_enum {α : Type} (l : List α) (i : Nat) : (enum l)[i]? = l[i]?.map (fun x => (i, x)) := by
  by_cases h : i < l.length <;> simp [enum, h]

/-- A lane of a wave whose lanes are changed each by its number. -/
theorem Wave.lane_map_enum {u v : Wave} {g : Nat × Lane → Lane} (hu : u.lanes = (enum v.lanes).map g) {l : Nat}
    (h : l < v.lanes.length) : u.lane l = g (l, v.lane l) := by
  simp [Wave.lane, hu, getElem?_enum, h]

/-! ## The queue and the frame (R68, R92) -/

/-- R92: of entries pushed on sixteen, the youngest sixteen stay. -/
theorem pushAll_eq {q : List Entry} (h : q.length = 16) (es : List Entry) : pushAll q es = (es.reverse ++ q).take 16 := by
  induction es generalizing q with
  | nil => simp [pushAll, ← h]
  | cons e es ih =>
    have hpush : (push q e).length = 16 := by simp [push, h]
    have hlast : pushAll q (e :: es) = pushAll (push q e) es := rfl
    rw [hlast, ih hpush, List.reverse_cons, List.append_assoc, List.take_append, List.take_append, push]
    congr 1
    cases hn : 16 - es.reverse.length with
    | zero => rfl
    | succ n => simp [List.take_take]; omega

theorem writeFrame_concat (fr : List Entry) (fd : Nat) (es : List Entry) (e : Entry) :
    writeFrame fr fd (es ++ [e]) = (writeFrame fr fd es).set (fd + es.length) e := by
  simp [writeFrame, enum_concat]

theorem length_writeFrame (fr : List Entry) (fd : Nat) (es : List Entry) : (writeFrame fr fd es).length = fr.length := by
  induction es using List.reverseRecOn with
  | nil => rfl
  | append_singleton es e ih => rw [writeFrame_concat, List.length_set, ih]

/-- R68: a frame slot holds the result written to it, or what it held. -/
theorem getElem?_writeFrame {fr : List Entry} {k : Nat} (h : k < fr.length) (fd : Nat) (es : List Entry) :
    (writeFrame fr fd es)[k]? = if fd ≤ k ∧ k < fd + es.length then es[k - fd]? else fr[k]? := by
  induction es using List.reverseRecOn with
  | nil => simp [writeFrame, enum]
  | append_singleton es e ih =>
    rw [writeFrame_concat, List.getElem?_set, length_writeFrame, ih, List.length_append, List.length_singleton]
    by_cases hlast : fd + es.length = k
    · subst hlast
      simp [h]
    · by_cases hin : fd ≤ k ∧ k < fd + es.length
      · rw [if_neg hlast, if_pos hin, if_pos (by omega), List.getElem?_append_left (by omega)]
      · rw [if_neg hlast, if_neg hin, if_neg (by omega)]

/-! ## Results delivered (R68, R70, R103) -/

theorem Iss.pop_lanes (x : Iss) : x.pop.v.lanes = x.v.lanes := by rw [Iss.pop_eq]

theorem Iss.pop_p (x : Iss) : x.pop.p = x.p := by rw [Iss.pop_eq]

theorem Iss.pop_f (x : Iss) : x.pop.f = x.f := by rw [Iss.pop_eq]

/-- R68, R103: a lane once results are delivered: with its own in the active set, with zeros elsewhere in the home set. -/
theorem Iss.delivered_lane (x : Iss) (lat : Nat) (tags : List Ty) (res : Nat → List (Word × Ty)) {l : Nat}
    (h : l < x.v.lanes.length) : (x.delivered lat tags res).v.lane l =
      if x.active.contains l then deliverLane x.f (x.v.lane l) ((res l).map (x.entry lat))
      else if inMask x.p.home l then zeroLane x.f (x.v.lane l) tags else x.v.lane l := by
  have hlane := Wave.lane_map_enum (u := (x.delivered lat tags res).v) (rfl : _ = (enum x.pop.v.lanes).map _)
    (h.trans_eq (congrArg _ x.pop_lanes.symm))
  rwa [Iss.pop_f, Iss.pop_p, Wave.lane, Wave.lane, Iss.pop_lanes] at hlane

/-! ## Predicates written (R69, R71, R101) -/

/-- R101: a predicate of a lane once one of them other than p7 is written. -/
theorem predVal_write {l : Lane} (hp : l.p.length = 7) {k pd : Nat} (hk : k < 8) (hpd : pd ≠ 7) (e : Pred) :
    predVal { l with p := l.p.set pd e } k = if k = 7 then true else if k = pd then e.val else predVal l k := by
  by_cases h7 : k = 7
  · simp [predVal, h7]
  · by_cases h : k = pd
    · simp [predVal, hp, h, hpd, show pd < 7 by omega]
    · simp [predVal, h7, h, Ne.symm h]

/-- R110: a written predicate is pending until it may be read. -/
theorem predPending_write {l : Lane} (hp : l.p.length = 7) {pd : Nat} (hpd : pd < 7) (e : Pred) (cc : Nat) :
    predPending cc { l with p := l.p.set pd e } pd = decide (cc < e.ready) := by
  simp [predPending, hp, hpd, hpd.ne]

/-- R69, R101: a lane once a predicate is written: changed where it is active and the predicate is not p7. -/
theorem Iss.setPred_lane (x : Iss) (pd lat : Nat) (val : Nat → Bool) {l : Nat} (h : l < x.v.lanes.length) :
    (x.setPred x.active pd lat val).v.lane l =
      if x.active.contains l && pd != 7
      then { x.v.lane l with p := (x.v.lane l).p.set pd { val := val l, ready := x.cc + lat } } else x.v.lane l :=
  Wave.lane_map_enum (u := (x.setPred x.active pd lat val).v) (rfl : _ = (enum x.v.lanes).map _) h

end Sys2Proof.Machine

/-- Settles O6: a lane by what it takes: its own results, zeros, or nothing. -/
theorem resultsStandInTheQueue : Obligations.ResultsStandInTheQueue := by
  intro x lat tags res l hl hq y old zeros
  have hy : y = _ := x.delivered_lane lat tags res hl
  by_cases hact : x.active.contains l = true
  · rw [if_pos hact] at hy
    have hpush := pushAll_eq hq ((res l).map (x.entry lat))
    refine ⟨by rw [hy]; rfl, fun _ => ⟨?_, fun hf => ?_, fun hf k hk => ?_⟩, fun h => ?_, fun h => ?_⟩
    · rw [hy, ← hpush]; rfl
    · simp [hy, deliverLane, hf, old]
    · have hslot := getElem?_writeFrame hk x.f.fd.toNat ((res l).map (x.entry lat))
      simpa [hy, deliverLane, hf] using hslot
    · exact absurd (hact.symm.trans h) (by decide)
    · exact absurd (hact.symm.trans h) (by decide)
  · rw [if_neg hact] at hy
    by_cases hhome : inMask x.p.home l = true
    · rw [if_pos hhome] at hy
      refine ⟨by rw [hy]; rfl, fun h => absurd h hact, fun _ _ => ⟨?_, by rw [hy]; rfl⟩, fun _ h => ?_⟩
      · rw [hy, ← pushAll_eq hq zeros]; rfl
      · exact absurd (hhome.symm.trans h) (by decide)
    · rw [if_neg hhome] at hy
      exact ⟨by rw [hy], fun h => absurd h hact, fun _ h => absurd h hhome, fun _ _ => hy⟩

/-- Settles O7: a lane whose predicate is written, or one that is kept. -/
theorem predicatesStandInTheLanes : Obligations.PredicatesStandInTheLanes := by
  intro x pd lat val l k hl hp hk y
  have hy : y = _ := x.setPred_lane pd lat val hl
  by_cases hset : (x.active.contains l && pd != 7) = true
  · rw [if_pos hset] at hy
    obtain ⟨hact, hpd⟩ : x.active.contains l = true ∧ pd ≠ 7 := by simpa only [Bool.and_eq_true, bne_iff_ne] using hset
    rw [hy]
    refine ⟨rfl, rfl, ?_, fun hlt _ hlat => ?_⟩
    · simp only [predVal_write hp hk hpd, hact, true_and]
    · simp only [predPending_write hp hlt, decide_eq_true_eq, decide_eq_false_iff_not]
      omega
  · rw [if_neg hset] at hy
    have hkept : x.active.contains l = true → pd = 7 := by
      simpa only [Bool.and_eq_true, bne_iff_ne, not_and, not_not] using hset
    rw [hy]
    refine ⟨rfl, rfl, ?_, fun hlt hact => absurd (hkept hact) hlt.ne⟩
    by_cases h : k = 7
    · simp [predVal, h]
    · have hne : ¬ (x.active.contains l = true ∧ k = pd) := fun hk => h (hk.2.trans (hkept hk.1))
      rw [if_neg h, if_neg hne]

end

section
/-! PROOF. What a step runs (spec/03 R83, R84, spec/02 R54): the agenda, the turns of the splits, and what a fetch meets; O55. -/

open Sys2Proof
open Sys2Proof.Machine

namespace Sys2Proof.Machine

/-! ## Inputs (log 3) -/

theorem step_of_agenda {s : State} {i : Input} {rest : List Input} (hp : s.dev.powered = true) (ha : s.dev.agenda = i :: rest) :
    step s = Input.act { s with dev := { s.dev with agenda := rest } } i := by
  simp [step, move, ha, hp]

theorem step_of_idle {s : State} (hp : s.dev.powered = true) (ha : s.dev.agenda = []) : step s = byDefault s := by
  simp [step, move, ha, hp]

/-- R437: without a supply only an input that powers the package on has an effect. -/
theorem step_of_unpowered {s : State} {i : Input} {rest : List Input} (hp : s.dev.powered = false)
    (ha : s.dev.agenda = i :: rest) : step s =
      if powersOn i then Input.act { s with dev := { s.dev with agenda := rest } } i else .fault .unpowered := by
  simp [step, move, ha, hp]

theorem step_of_unpowered_idle {s : State} (hp : s.dev.powered = false) (ha : s.dev.agenda = []) :
    step s = .fault .unpowered := by
  simp [step, move, ha, hp]

/-- R54: an event is its own effect; the end of a cc, where nothing is due in it. -/
theorem Input.act_event {s : State} {i : Instr} (h : i ≠ .coreCycle ∨ ccOpen s = false) :
    Input.act s (.event i) = exec i s := by
  cases i with
  | coreCycle => simp [Input.act, h.resolve_left (fun hne => hne rfl)]
  | _ => rfl

/-- R54, R55: the split that tries next tries, once no split of its scheduler is about to wake. -/
theorem Input.act_issue {s : State} {u n : Nat} (hturn : inTurn s.dev u n = true)
    (hwake : firstNext s (wakeEvents s.dev u) = none) :
    Input.act s (.issue u n) = attempt u n s := by
  simp [Input.act, hturn, hwake]

/-- R54, R227: no split tries while one of its scheduler is about to wake. -/
theorem Input.act_issue_refused {s : State} {u n : Nat} (hwake : (firstNext s (wakeEvents s.dev u)).isSome = true) :
    ∃ m, Input.act s (.issue u n) = .refused (.notEnabled m) := by
  cases hturn : inTurn s.dev u n <;> simp [Input.act, hturn, hwake]

/-! ## An attempt to issue (R83, R84, R261) -/

/-- R83, R84, R261: what becomes of an attempt whose fetch gives no instruction. -/
def Fetched.stops (w : Work) (v : Wave) (p : Split) : Fetched → Work
  | .wait va => fetchWaits w v p va
  | .prot va => w.upd (fun d => raise d (splitTrap v p tProt p.pc 0 0 va.toNat))
  | .memerr k => w.upd (fun d => raise d (splitTrap v p tMemerr p.pc 0 0 (keyOffset k)))
  | .illegal => w.upd (fun d => raise d (splitTrap v p tIllegal p.pc 0 0 0))
  | .instr _ => w

section Attempt

variable {s : State} {u n : Nat} {v : Wave} {p : Split} {c : Ctx} (hv : s.dev.wave u = some v) (hp : v.split n = some p)
  (hc : s.dev.ctx v.ctx = some c) (hmay : mayTry s.dev v p = true)
include hv hp hc hmay

/-- R83: a fetched instruction has its effect. -/
theorem attempt_of_instr {i : Instr} (h : fetchInstr s.work c p.pc = .instr i) :
    attempt u n s = exec i { s with dev := { (trying s.work v p c).d with issuer := some (u, n) } } := by
  simp [attempt, hv, hp, hc, hmay, h]

/-- R83: a fetch that gives no instruction stops the attempt. -/
theorem attempt_of_stop {r : Fetched} (h : fetchInstr s.work c p.pc = r) (hstop : ∀ i, r ≠ .instr i) :
    attempt u n s = .next ((r.stops (trying s.work v p c) v p).after s) := by
  cases r with
  | instr i => exact absurd rfl (hstop i)
  | _ =>
    simp only [attempt, hv, hp, hc, hmay, h, Bool.not_true, Bool.false_eq_true, if_false]
    exact State.run_ok rfl

end Attempt

theorem fetchInstr_of_ok {w : Work} {c : Ctx} {pc : VAddr} {ws : List Word} {i : Instr} {k : Nat}
    (hf : fetchAll w c pc = .words ws) (hd : Decode.words ws = .ok (i, k)) : fetchInstr w c pc = .instr i := by
  simp [fetchInstr, fetched, hf, hd]

theorem fetchInstr_of_error {w : Work} {c : Ctx} {pc : VAddr} {ws : List Word} {e : Reject}
    (hf : fetchAll w c pc = .words ws) (hd : Decode.words ws = .error e) : fetchInstr w c pc = .illegal := by
  simp [fetchInstr, fetched, hf, hd]

/-! ## The model's own order (log 3) -/

theorem byDefault_of_event {s : State} {t : Host.Outcome State Fault Refusal} (h : firstNext s (internalEvents s.dev) = some t) :
    byDefault s = t := by
  simp [byDefault, h]

theorem byDefault_of_try {s : State} {u n : Nat} (h : firstNext s (internalEvents s.dev) = none)
    (hn : nextTry s.dev = some (u, n)) : byDefault s = attempt u n s := by
  simp [byDefault, h, hn]

theorem byDefault_of_none {s : State} (h : firstNext s (internalEvents s.dev) = none) (hn : nextTry s.dev = none) :
    byDefault s = if s.dev.traps = [] then exec .coreCycle s else exec .trapDelivery s := by
  simp [byDefault, h, hn]

end Sys2Proof.Machine

/-- Settles O55: a step by its input, and an attempt to issue by what its fetch meets. -/
theorem stepRunsTheDecodedInstruction : Obligations.StepRunsTheDecodedInstruction := by
  refine ⟨?_, fun s hpow ha => ?_, fun s r rest hpow => ⟨fun ha => ?_, fun ha => ?_, fun u n ha => ?_⟩⟩
  · intro s rest hpow s'
    refine ⟨fun i ha hopen => ?_, fun ha hopen => ?_, fun u n ha hturn => ?_, fun u n ha hwake => ?_, ?_⟩
    · exact (step_of_agenda hpow ha).trans (Input.act_event hopen)
    · exact ⟨_, (step_of_agenda hpow ha).trans (if_pos hopen)⟩
    · exact ⟨_, (step_of_agenda hpow ha).trans (if_pos (by rw [hturn]; rfl))⟩
    · rw [step_of_agenda hpow ha]
      exact Input.act_issue_refused hwake
    · intro u n v p c ha hturn hwake hv hp hc hmay w traps
      have hstep : step s = attempt u n s' := (step_of_agenda hpow ha).trans (Input.act_issue hturn hwake)
      have hstops (r : Fetched) (hf : fetchInstr s'.work c p.pc = r) (hstop : ∀ i, r ≠ .instr i) :
          step s = .next ((r.stops w v p).after s') := hstep.trans (attempt_of_stop hv hp hc hmay hf hstop)
      exact ⟨fun ws i k hf hd => hstep.trans (attempt_of_instr hv hp hc hmay (fetchInstr_of_ok hf hd)),
        fun ws e hf hd => hstops .illegal (fetchInstr_of_error hf hd) (by simp),
        fun k hf => hstops (.memerr k) (congrArg fetched hf) (by simp),
        fun va hf => hstops (.prot va) (congrArg fetched hf) (by simp),
        fun va hf => hstops (.wait va) (congrArg fetched hf) (by simp)⟩
  · rw [step_of_idle hpow ha]
    exact ⟨fun _ => byDefault_of_event, fun _ _ => byDefault_of_try, byDefault_of_none⟩
  · exact step_of_unpowered_idle hpow ha
  · exact step_of_unpowered hpow ha
  · exact step_of_unpowered hpow ha

end

section
/-! PROOF. The forms that compute, majors 0x01 to 0x60 (spec/03 R68, spec/04 R103 to R107): each changes what a computation may
change of its wave, and then retires, waits or traps; and O58. -/

open Sys2Proof
open Sys2Proof.Machine

namespace Sys2Proof.Machine

/-! ## What a computation changes, and how it ends -/

/-- R68, R103, R106, R107: issue `y` is issue `x` with lanes, counters, inboxes and flags of its wave, and counts of its split's
marks, changed; and codebooks, unless `keep` holds. -/
structure Iss.Computed (keep : Prop) (x y : Iss) : Prop where
  work : y.w = x.w
  form : y.f = x.f
  num : y.p.num = x.p.num
  wave : y.v = { x.v with
    lanes := y.v.lanes, counters := y.v.counters, inboxes := y.v.inboxes, fpFlags := y.v.fpFlags, intFlag := y.v.intFlag
    raisedAt := y.v.raisedAt, books := y.v.books, oldBooks := y.v.oldBooks }
  books : keep → y.v.books = x.v.books ∧ y.v.oldBooks = x.v.oldBooks

/-- R83: an issue ends: it retires, waits or traps. -/
inductive Iss.Ends (y : Iss) : Work → Prop
  | retires (pc : VAddr) (n : Nat) (occ : Occupancy) : y.Ends (y.goto pc n occ)
  | waits (c : Nat) : y.Ends (y.wait c)
  | traps (code : Nat) (pc : VAddr) (lanes : LaneMask) (d2 addr : Nat) : y.Ends (y.trapAt code pc lanes d2 addr)

/-- An issue computes, and ends. -/
def Iss.Runs (keep : Prop) (x : Iss) (w : Work) : Prop := ∃ y, x.Computed keep y ∧ y.Ends w

variable {keep : Prop} {x y z : Iss} {w : Work}

theorem Iss.Computed.refl (keep : Prop) (x : Iss) : x.Computed keep x := ⟨rfl, rfl, rfl, rfl, fun _ => ⟨rfl, rfl⟩⟩

theorem Iss.Computed.trans (h : x.Computed keep y) (h' : y.Computed keep z) : x.Computed keep z where
  work := h'.work.trans h.work
  form := h'.form.trans h.form
  num := h'.num.trans h.num
  wave := by rw [h'.wave, h.wave]
  books hk := ⟨(h'.books hk).1.trans (h.books hk).1, (h'.books hk).2.trans (h.books hk).2⟩

theorem Iss.Ends.runs (h : x.Ends w) : x.Runs keep w := ⟨x, .refl keep x, h⟩

theorem Iss.runs_doneOcc (h : x.Computed keep y) (occ : Occupancy) : x.Runs keep (y.doneOcc occ) := ⟨y, h, .retires ..⟩

theorem Iss.runs_done (h : x.Computed keep y) : x.Runs keep y.done := ⟨y, h, .retires ..⟩

/-! ## The changes -/

theorem Iss.computed_pop (x : Iss) : x.Computed keep x.pop := by
  rw [Iss.pop_eq]
  exact ⟨rfl, rfl, rfl, rfl, fun _ => ⟨rfl, rfl⟩⟩

theorem addCount_num (p : Split) (n : Int) : (addCount p n).num = p.num := by
  unfold addCount
  split
  · split <;> rfl
  · rfl

theorem Iss.computed_deliver (x : Iss) (act : List Nat) (tags : List Ty) (res : Nat → List Entry) :
    x.Computed keep (x.deliver act tags res) := by
  refine ⟨rfl, rfl, ?_, rfl, fun _ => ⟨rfl, rfl⟩⟩
  rw [Iss.deliver]
  dsimp only
  split
  · exact addCount_num _ _
  · rfl

theorem Iss.computed_setPred (x : Iss) (act : List Nat) (pd lat : Nat) (val : Nat → Bool) :
    x.Computed keep (x.setPred act pd lat val) := ⟨rfl, rfl, rfl, rfl, fun _ => ⟨rfl, rfl⟩⟩

theorem Iss.computed_flag (x : Iss) (fl : Fl) : x.Computed keep (x.flag fl) := ⟨rfl, rfl, rfl, rfl, fun _ => ⟨rfl, rfl⟩⟩

theorem Iss.computed_intFlag (x : Iss) (b : Bool) : x.Computed keep (x.intFlag b) :=
  ⟨rfl, rfl, rfl, rfl, fun _ => ⟨rfl, rfl⟩⟩

theorem Iss.computed_mapLanes (x : Iss) (p : Nat → Bool) (g : Nat → Lane → Lane) : x.Computed keep (x.mapLanes p g) :=
  ⟨rfl, rfl, rfl, rfl, fun _ => ⟨rfl, rfl⟩⟩

/-! ## The gates -/

theorem Iss.runs_gated {ls : List Nat} {accs : List (List Ty)} {k : Iss → Work} (hk : x.Runs keep (k x)) :
    x.Runs keep (x.gated ls accs k) := by
  obtain h | ⟨c, h⟩ | ⟨c, m, h⟩ := x.gated_cases ls accs k
  · rwa [h]
  · rw [h]
    exact (Ends.waits c).runs
  · rw [h]
    exact (Ends.traps ..).runs

theorem Iss.runs_guardGate {k : Iss → Work} (hk : x.Runs keep (k x)) : x.Runs keep (x.guardGate k) := by
  obtain h | ⟨c, h⟩ := x.guardGate_cases k
  · rwa [h]
  · rw [h]
    exact (Ends.waits c).runs

theorem Iss.runs_predGate {ks : List Nat} {k : Iss → Work} (hk : x.Runs keep (k x)) : x.Runs keep (x.predGate ks k) := by
  unfold Iss.predGate
  split
  · exact (Ends.waits 1).runs
  · exact hk

/-- R155: FPE, or the flags and the effect. -/
theorem Iss.runs_raiseFlags {rs : List (Nat × Fl)} {k : Iss → Work} (hk : ∀ fl, x.Runs keep (k (x.flag fl))) :
    x.Runs keep (x.raiseFlags rs k) := by
  by_cases h : orFlags (rs.map Prod.snd) &&& x.v.fpTrapEn = 0
  · rw [Iss.raiseFlags_ready h]
    exact hk _
  · rw [Iss.raiseFlags_traps h]
    exact ⟨_, x.computed_flag _, .traps ..⟩

theorem Iss.runs_halves {accs : List (List Ty)} {k : Work} (hk : x.Runs keep k) : x.Runs keep (x.halves accs k) := by
  unfold Iss.halves
  generalize (if x.raw then [] else mixedHalves x x.active) = mixed
  cases x.gate x.active accs with
  | wait c => exact (Ends.waits c).runs
  | trap c m => exact (Ends.traps ..).runs
  | ready =>
    cases mixed with
    | nil => exact hk
    | cons l ls => exact (Ends.traps ..).runs

/-! ## The shared forms -/

theorem Iss.runs_laneOp (x : Iss) (accs : List (List Ty)) (lat : Nat) (tags : List Ty)
    (compute : Iss → Nat → List (Word × Ty) → List (Word × Ty)) : x.Runs keep (x.laneOp accs lat tags compute) :=
  Iss.runs_gated (Iss.runs_done (x.computed_pop.trans (Iss.computed_deliver ..)))

theorem Iss.runs_predOp (x : Iss) (accs : List (List Ty)) (lat : Nat) (compute : Iss → Nat → List (Word × Ty) → Bool) :
    x.Runs keep (x.predOp accs lat compute) :=
  Iss.runs_gated (Iss.runs_done (x.computed_pop.trans (Iss.computed_setPred ..)))

theorem Iss.runs_floatOp (x : Iss) (accs : List (List Ty)) (lat : Nat) (occ : Occupancy) (tags : List Ty)
    (compute : Iss → Nat → List (Word × Ty) → List (Word × Ty) × Fl) :
    x.Runs keep (x.floatOp accs lat occ tags compute) :=
  Iss.runs_gated (Iss.runs_raiseFlags fun fl =>
    Iss.runs_doneOcc ((x.computed_flag fl).trans ((Iss.computed_pop _).trans (Iss.computed_deliver ..))) occ)

theorem Iss.runs_floatPred (x : Iss) (accs : List (List Ty)) (lat : Nat) (occ : Occupancy)
    (compute : Iss → Nat → List (Word × Ty) → Bool × Fl) : x.Runs keep (x.floatPred accs lat occ compute) :=
  Iss.runs_gated (Iss.runs_raiseFlags fun fl =>
    Iss.runs_doneOcc ((x.computed_flag fl).trans ((Iss.computed_pop _).trans (Iss.computed_setPred ..))) occ)

theorem divOp_runs (rem : Bool) (x : Iss) : x.Runs keep (divOp rem x) := by
  unfold divOp
  exact Iss.runs_gated (Iss.runs_done (x.computed_pop.trans ((Iss.computed_intFlag ..).trans (Iss.computed_deliver ..))))

theorem dropOp_runs (x : Iss) : x.Runs keep (dropOp x) :=
  Iss.runs_done ((x.computed_mapLanes _ _).trans ⟨rfl, rfl, addCount_num _ _, rfl, fun _ => ⟨rfl, rfl⟩⟩)

theorem readOp_runs (x : Iss) (value : Iss → Lane → Nat) : x.Runs keep (readOp x value) :=
  Iss.runs_guardGate (Iss.runs_done (x.computed_deliver ..))

theorem cbkldOp_runs (hkeep : ¬ keep) (x : Iss) : x.Runs keep (cbkldOp x) :=
  Iss.runs_gated (Iss.runs_done (x.computed_pop.trans ⟨rfl, rfl, rfl, rfl, fun h => absurd h hkeep⟩))

/-! ## Every form -/

/-- R81, R83: whatever a form of majors 0x01 to 0x60 does, it computes, and ends; only `cbkld` changes codebooks. -/
theorem exec_runs {i : Instr} (h : computes i = true) :
    ∃ k : Iss → Work, (∀ s, exec i s = s.issue i k) ∧ ∀ x : Iss, x.Runs (∀ f, i ≠ .cbkld f) (k x) := by
  cases i with
  | nop f => exact ⟨_, fun _ => rfl, fun x => Iss.runs_done (.refl _ x)⟩
  | iadd | isub | imul | imulh | imad | iabsd | imin | imax | iaddc | lea | shl | shr | sar | rotl | and | or | xor | andn | not
  | popc | clz | ctz | brev | bfx | bfi | perm | mov | retag | shflIdx | shflUp | shflDown | shflXor | bcast | matchLanes =>
    refine ⟨_, fun _ => rfl, fun x => ?_⟩
    dsimp only [intOp, addcOp, leaOp, shiftOp, bitOp, permOp, movOp, retagOp, shflOp, bcastOp, matchOp]
    exact x.runs_laneOp ..
  | idiv | irem => exact ⟨_, fun _ => rfl, fun x => divOp_runs _ x⟩
  | icmp | ptest =>
    refine ⟨_, fun _ => rfl, fun x => ?_⟩
    dsimp only [icmpOp, ptestOp]
    exact x.runs_predOp ..
  | pand | por | pxor | pnot | pmov | voteAll | voteAny =>
    refine ⟨_, fun _ => rfl, fun x => ?_⟩
    dsimp only [predLogic, predUnary, voteOp]
    exact Iss.runs_predGate (x.runs_predOp ..)
  | sel | voteBallot =>
    refine ⟨_, fun _ => rfl, fun x => ?_⟩
    dsimp only [selOp, ballotOp]
    exact Iss.runs_predGate (x.runs_laneOp ..)
  | drop => exact ⟨_, fun _ => rfl, dropOp_runs⟩
  | swap | rot => exact ⟨_, fun _ => rfl, fun x => Iss.runs_guardGate (Iss.runs_done (x.computed_mapLanes ..))⟩
  | pad => exact ⟨_, fun _ => rfl, fun x => Iss.runs_guardGate (Iss.runs_done (x.computed_deliver ..))⟩
  | qdepth | qtag => exact ⟨_, fun _ => rfl, fun x => readOp_runs x _⟩
  | fcmp =>
    refine ⟨_, fun _ => rfl, fun x => ?_⟩
    dsimp only [fcmpOp]
    exact x.runs_floatPred ..
  | fdot2 | f8pack =>
    refine ⟨_, fun _ => rfl, fun x => ?_⟩
    dsimp only [fdot2Op, f8packOp]
    exact Iss.runs_halves (x.runs_floatOp ..)
  | cbkld f => exact ⟨_, fun _ => rfl, cbkldOp_runs (fun h => h f rfl)⟩
  | wred | wscan | fadd | fsub | fmul | ffma | fdiv | fsqrt | fminNum | fmin | fmaxNum | fmax | frnd | ffract | fldexp | ffrexp
  | fcopysign | fclass | cvt | cvti | cvtf | pack2 | unpk2 | f8unpk | cbkdec | rcp | rsq | sqrta | exp2 | log2 | sinpi | cospi
  | sincospi | tanh =>
    refine ⟨_, fun _ => rfl, fun x => ?_⟩
    dsimp only [wredOp, wscanOp, arithForm, minmaxForm, floatForm1, fldexpOp, ffrexpOp, fclassOp, convOp, pack2Op, cbkdecOp,
      specialOp, sincospiOp]
    exact x.runs_floatOp ..
  | _ => cases h

/-! ## What an issue that ends leaves alone -/

theorem Wave.mem_updSplit {v : Wave} {q : Split} {n : Nat} (hq : q ∈ v.splits) (hn : q.num ≠ n) (f : Split → Split) :
    q ∈ (v.updSplit n f).splits := by
  refine List.mem_map.2 ⟨q, hq, ?_⟩
  simp [hn]

theorem Wave.mem_calls {v : Wave} {q : Split} (hq : q ∈ v.splits) : q.awake ∈ v.calls := List.mem_map_of_mem hq

/-- R29, R227: `w` leaves of the device of issue `y` all but what an issue may change: no byte written, other waves but for what
their splits yield to, and its own wave but for its own split and its counters. -/
structure Iss.Spares (y : Iss) (w : Work) : Prop where
  ws : w.ws = y.w.ws
  device : OnlyIssues y.w.d w.d
  others : ∀ u v, y.w.d.wave u = some v → u ≠ y.v.uid →
    ∃ v', w.d.wave u = some v' ∧ v' = { v with splits := v'.splits } ∧ v'.calls = v.calls
  own : ∀ v, y.w.d.wave y.v.uid = some v → ∃ v', w.d.wave y.v.uid = some v' ∧
    v' = { y.v with splits := v'.splits, counters := v'.counters } ∧
    ∀ q ∈ y.v.splits, q.num ≠ y.p.num → q.awake ∈ v'.calls

theorem Iss.put_spares (y : Iss) : y.Spares y.put where
  ws := rfl
  device := ⟨rfl, fun _ => rfl, fun _ => rfl⟩
  others _ v h hne := ⟨v, Iss.put_wave_of_ne h hne, rfl, rfl⟩
  own _ h := ⟨_, Iss.put_wave_same h, rfl, fun _ hq hn => Wave.mem_calls (Wave.mem_updSplit hq hn _)⟩

theorem Iss.wait_spares (y : Iss) (c : Nat) : y.Spares (y.wait c) :=
  have ⟨ws, device, others, own⟩ := Iss.put_spares { y with p := { y.p with wait := some c } }
  ⟨ws, device, others, own⟩

theorem Iss.goto_spares {y : Iss} (hst : y.f.st = false) (pc : VAddr) (n : Nat) (occ : Occupancy) :
    y.Spares (y.goto pc n occ) where
  ws := goto_ws hst pc n occ
  device := onlyIssues_goto hst pc n occ
  others _ _ h hne := goto_wave_of_ne hst pc n occ h hne
  own _ h := by
    obtain ⟨v', hv', heq, hcalls⟩ := goto_wave_self hst pc n occ h
    refine ⟨v', hv', ?_, fun q hq hn => ?_⟩
    · rw [heq]
    · rw [hcalls]
      exact Wave.mem_calls (Wave.mem_updSplit hq hn _)

/-- R403: the trap of a split stops the split, and no more. -/
theorem raise_splitTrap (d : Dev) (v : Wave) (p : Split) (code : Nat) (pc : VAddr) (lanes : LaneMask) (d2 addr : Nat) :
    raise d (splitTrap v p code pc lanes d2 addr) =
      ({ d with traps := d.traps ++ [splitTrap v p code pc lanes d2 addr] }).updWave v.uid (fun v =>
        v.updSplit p.num (fun p => { p with trapped := true, stage := .idle, wait := none })) := rfl

theorem Iss.trapAt_spares (y : Iss) (code : Nat) (pc : VAddr) (lanes : LaneMask) (d2 addr : Nat) :
    y.Spares (y.trapAt code pc lanes d2 addr) where
  ws := rfl
  device := ⟨rfl, fun _ => rfl, fun _ => rfl⟩
  others u v h hne := by
    have hput : y.put.d.wave u = some v := Iss.put_wave_of_ne h hne
    refine ⟨v, ?_, rfl, rfl⟩
    rw [Iss.trapAt, Work.upd_d, raise_splitTrap]
    exact Dev.wave_updWave_of_ne (fun _ h => h) hput hne
  own v h := by
    have hput : y.put.d.wave y.v.uid = some (y.v.updSplit y.p.num (fun _ => y.p)) := Iss.put_wave_same h
    rw [Iss.trapAt, Work.upd_d, raise_splitTrap]
    exact ⟨_, Dev.wave_updWave_same (fun _ h => h) hput, rfl,
      fun _ hq hn => Wave.mem_calls (Wave.mem_updSplit (Wave.mem_updSplit hq hn _) hn _)⟩

theorem Iss.Ends.spares {y : Iss} {w : Work} (h : y.Ends w) (hst : y.f.st = false) : y.Spares w := by
  cases h with
  | retires pc n occ => exact Iss.goto_spares hst pc n occ
  | waits c => exact y.wait_spares c
  | traps code pc lanes d2 addr => exact y.trapAt_spares code pc lanes d2 addr

theorem Iss.Computed.uid {keep : Prop} {x y : Iss} (h : x.Computed keep y) : y.v.uid = x.v.uid := by rw [h.wave]

theorem Iss.Computed.splits {keep : Prop} {x y : Iss} (h : x.Computed keep y) : y.v.splits = x.v.splits := by rw [h.wave]

end Sys2Proof.Machine

/-- Settles O58: each form computes and ends, and either leaves the rest alone. -/
theorem computationsKeepTheRest : Obligations.ComputationsKeepTheRest := by
  intro s t i x hiss hcomp hst hexec
  obtain ⟨k, hk, hruns⟩ := exec_runs hcomp
  obtain ⟨y, hy, hends⟩ := hruns x
  obtain ⟨hws, hdev, hothers, hown⟩ := hends.spares (hy.form ▸ hst)
  rw [hk, State.issue_next hiss] at hexec
  obtain rfl : (k x).after s = t := Host.Outcome.next.inj hexec
  have hd : y.w.d = s.dev := by rw [hy.work, hiss.work]; rfl
  rw [hy.work, hiss.ws] at hws
  rw [hd] at hdev hothers hown
  rw [hy.uid] at hothers hown
  obtain ⟨v', hv', heq, hcalls⟩ := hown x.v hiss.wave
  refine ⟨by rw [Work.after_mem, hws]; rfl, hdev, hothers, v', hv', ?_, fun hkeep => ?_, fun q hq hn => ?_⟩
  · unfold KeepsWave
    rw [heq, hy.wave]
  · rw [heq]
    exact hy.books hkeep
  · exact hcalls q (hy.splits ▸ hq) (hy.num ▸ hn)

end

section
/-! PROOF. Where an issue traps (spec/03 R73, R82, R83, spec/02 R43, spec/04 R94, R99, spec/08 R208 to R221, spec/17 R431): the
checks of an encoding and a role, sources, marks and call levels; and O60. -/

open Sys2Proof
open Sys2Proof.Machine

namespace Sys2Proof.Machine

/-! ## Checks before an issue (R43, R82, R431) -/

/-- R83: every encoded instruction is issued by the split that issues. -/
theorem exec_encoded {i : Instr} {g : FormSpec} (h : formSpec i = some g) (s : State) : ∃ k, exec i s = s.issue i k := by
  cases i <;> cases h <;> exact ⟨_, rfl⟩

/-- R51, R83: an attempt whose units are free comes to the checks of the issue. -/
theorem State.issue_attempts {s : State} {i : Instr} {x : Iss} (h : Attempts s i x) (k : Iss → Work) :
    s.issue i k = .next ((x.act k).after s) := by
  obtain ⟨w, v, p, j, g, f, ls⟩ := x
  obtain ⟨hissuer, hwave, hsplit, hspec, hform, hwork, hinstr, hlanes, hunits⟩ := h
  simp only at hissuer hwave hsplit hspec hform hwork hinstr hlanes hunits
  subst hwork hinstr hlanes
  refine State.run_ok ?_
  simp [hissuer, hwave, hsplit, hspec, hform, hunits]

/-- R82, R431, R43: what an attempt answers where its checks make `w` of it. -/
theorem Attempts.answers {s : State} {i : Instr} {x : Iss} (h : Attempts s i x) {w : Work} (hw : ∀ k, x.act k = w) :
    Answers s i w := by
  obtain ⟨k, hk⟩ := exec_encoded h.spec s
  rw [Answers, hk, State.issue_attempts h, hw]

theorem checksBeforeIssue : Claims.ChecksBeforeIssue := by
  intro s i x h
  refine ⟨fun hbad => h.answers fun k => ?_, fun hok hst hidle w a hwatch => h.answers fun k => ?_,
    fun hok hcalm hrole => h.answers fun k => ?_⟩
  · simp [Iss.act, h.instr, hbad]
  · simp [Iss.act, h.instr, hok, hst, hidle, hwatch]
  · have hnone : (if x.f.st && x.p.stage == .idle then x.v.homeWatch else none) = none := by
      cases hbegin : (x.f.st && x.p.stage == .idle) with
      | false => rfl
      | true => simpa [hbegin] using hcalm
    simp only [Iss.act, hnone]
    simp [h.instr, hok, hrole]

/-! ## Sources (R73, R83, R94) -/

/-- R94: a guard that is pending. -/
theorem Iss.gated_of_guardPending {x : Iss} (h : ¬ x.GuardReady) (ls : List Nat) (accs : List (List Ty)) (k : Iss → Work) :
    x.gated ls accs k = x.wait 1 := by
  have hgate : x.gate ls accs = .wait 1 := if_pos (by simpa [Iss.GuardReady] using h)
  rw [Iss.gated, hgate]

/-- R94: sources that are pending, or an inbox that is short. -/
theorem Iss.gated_of_sourceWait {x : Iss} (hg : x.GuardReady) {ls : List Nat} {c : Nat} (h : x.sourceWait ls = some c)
    (accs : List (List Ty)) (k : Iss → Work) : x.gated ls accs k = x.wait c := by
  have hgate : x.gate ls accs = .wait c := by simp [Iss.gate, show guardPending x.cc x.v x.p x.f = false from hg, h]
  rw [Iss.gated, hgate]

/-- R73, R83: past the waits, the gate of the active lanes looks for EMPTY sources and then for wrong tags. -/
theorem Iss.gate_of_ready {x : Iss} (hg : x.GuardReady) (hw : x.sourceWait x.active = none) (accs : List (List Ty)) :
    x.gate x.active accs = if x.active.isEmpty then .ready
      else if !x.emptyLanes.isEmpty then .trap tQempty (maskOf x.emptyLanes)
      else if !x.raw && !(x.wrongLanes accs).isEmpty then .trap tTag (maskOf (x.wrongLanes accs)) else .ready := by
  rw [Iss.gate, show guardPending x.cc x.v x.p x.f = false from hg, hw]
  rfl

/-- R83 step 4: an EMPTY source in some active lane. -/
theorem Iss.gated_of_empty {x : Iss} (hg : x.GuardReady) (hw : x.sourceWait x.active = none) (h : x.emptyLanes ≠ [])
    (accs : List (List Ty)) (k : Iss → Work) : x.gated x.active accs k = x.trap tQempty (maskOf x.emptyLanes) := by
  have hact : x.active ≠ [] := fun hnil => h (by simp [Iss.emptyLanes, hnil])
  simp [Iss.gated, Iss.gate_of_ready hg hw, hact, h]

/-- R73: a source of a tag the form does not accept, in some active lane. -/
theorem Iss.gated_of_wrongTag {x : Iss} (hg : x.GuardReady) (hw : x.sourceWait x.active = none) (he : x.emptyLanes = [])
    (hraw : x.raw = false) {accs : List (List Ty)} (h : x.wrongLanes accs ≠ []) (k : Iss → Work) :
    x.gated x.active accs k = x.trap tTag (maskOf (x.wrongLanes accs)) := by
  have hact : x.active ≠ [] := fun hnil => h (by simp [Iss.wrongLanes, hnil])
  simp [Iss.gated, Iss.gate_of_ready hg hw, hact, he, hraw, h]

/-- R83: a form that begins with the gate of its active lanes' sources. -/
def Iss.Gates (x : Iss) (accs : List (List Ty)) (w : Work) : Prop := ∃ k, w = x.gated x.active accs k

theorem Iss.gates_laneOp (x : Iss) (accs : List (List Ty)) (lat : Nat) (tags : List Ty)
    (compute : Iss → Nat → List (Word × Ty) → List (Word × Ty)) : x.Gates accs (x.laneOp accs lat tags compute) := ⟨_, rfl⟩

theorem Iss.gates_predOp (x : Iss) (accs : List (List Ty)) (lat : Nat) (compute : Iss → Nat → List (Word × Ty) → Bool) :
    x.Gates accs (x.predOp accs lat compute) := ⟨_, rfl⟩

theorem Iss.gates_floatOp (x : Iss) (accs : List (List Ty)) (lat : Nat) (occ : Occupancy) (tags : List Ty)
    (compute : Iss → Nat → List (Word × Ty) → List (Word × Ty) × Fl) : x.Gates accs (x.floatOp accs lat occ tags compute) :=
  ⟨_, rfl⟩

theorem intOp_gates (lat : Ty → Nat) (value : Int → Int → Int → Int) (x : Iss) :
    x.Gates (List.replicate 3 (intTags x.f.ty)) (intOp lat value x) := by
  unfold intOp
  exact x.gates_laneOp ..

theorem divOp_gates (rem : Bool) (x : Iss) : x.Gates (List.replicate 2 (intTags x.f.ty)) (divOp rem x) := by
  unfold divOp
  exact ⟨_, rfl⟩

theorem shiftOp_gates (sh : Nat → Nat → Nat → Nat) (x : Iss) :
    x.Gates [intTags x.f.ty, if isLiteral x.f.sb then [] else countTags] (shiftOp sh x) := by
  unfold shiftOp
  exact x.gates_laneOp ..

theorem bitOp_gates (tag : Ty → Ty) (op : Nat → Word → Word → Word → Word) (x : Iss) :
    x.Gates (List.replicate 3 (intTags x.f.ty)) (bitOp tag op x) := by
  unfold bitOp
  exact x.gates_laneOp ..

theorem icmpOp_gates (c : Cond) (x : Iss) : x.Gates (List.replicate 2 (intTags x.f.ty)) (icmpOp c x) := by
  unfold icmpOp
  exact x.gates_predOp ..

theorem floatForm1_gates (lat : Ty → Nat) (n : Nat) (compute : Iss → FFmt → List Nat → Nat × Fl) (x : Iss) :
    x.Gates (List.replicate n [x.f.ty]) (floatForm1 lat n compute x) := by
  unfold floatForm1
  exact x.gates_floatOp ..

theorem arithForm_gates (lat : Ty → Nat) (n : Nat) (op : RMode → FV → FV → FV → Exact × Fl) (x : Iss) :
    x.Gates (List.replicate n [x.f.ty]) (arithForm lat n op x) := by
  unfold arithForm
  exact floatForm1_gates ..

theorem minmaxForm_gates (mx num : Bool) (x : Iss) : x.Gates (List.replicate 2 [x.f.ty]) (minmaxForm mx num x) := by
  unfold minmaxForm
  exact floatForm1_gates ..

/-- The instruction carries form `f`, and begins with the gate of its active lanes' sources. -/
def GatedForm (x : Iss) (f : Form) (e : Instr × List (List Ty)) : Prop :=
  formOf e.1 = some f ∧ ∃ k : Iss → Work, (∀ s, exec e.1 s = s.issue e.1 k) ∧ (x.f = f → x.Gates e.2 (k x))

theorem exactForms_gated (x : Iss) (f : Form) :
    ∀ e ∈ exactForms f.ty f, GatedForm x f (e.1, List.replicate 3 (intTags f.ty)) := by
  simp only [exactForms, List.forall_mem_cons]
  refine ⟨?_, ?_, ?_, ?_, ?_, ?_, ?_, ?_, by simp⟩ <;> exact ⟨rfl, _, fun _ => rfl, by rintro rfl; exact intOp_gates ..⟩

theorem shiftForms_gated (x : Iss) (f : Form) :
    ∀ e ∈ shiftForms f, GatedForm x f (e.1, [intTags f.ty, if isLiteral f.sb then [] else countTags]) := by
  simp only [shiftForms, List.forall_mem_cons]
  refine ⟨?_, ?_, ?_, ?_, by simp⟩ <;> exact ⟨rfl, _, fun _ => rfl, by rintro rfl; exact shiftOp_gates ..⟩

theorem bitForms_gated (x : Iss) (f : Form) :
    ∀ e ∈ bitForms f.ty f, GatedForm x f (e.1, List.replicate 3 (intTags f.ty)) := by
  simp only [bitForms, List.forall_mem_cons]
  refine ⟨?_, ?_, ?_, ?_, ?_, ?_, ?_, ?_, ?_, ?_, ?_, by simp⟩ <;>
    exact ⟨rfl, _, fun _ => rfl, by rintro rfl; exact bitOp_gates ..⟩

theorem icmp_gated (x : Iss) (f : Form) (c : Cond) : GatedForm x f (.icmp c f, List.replicate 2 (intTags f.ty)) :=
  ⟨rfl, _, fun _ => rfl, by rintro rfl; exact icmpOp_gates ..⟩

theorem arithmeticForms_gated (x : Iss) (f : Form) : ∀ e ∈ arithmeticForms x f, GatedForm x f (e.1, e.2.accs) := by
  simp only [arithmeticForms, List.forall_mem_cons]
  refine ⟨?fadd, ?fsub, ?fmul, ?ffma, ?fdiv, ?fsqrt, ?fminNum, ?fmin, ?fmaxNum, ?fmax, ?frnd, ?ffract, ?fcopysign,
    ?fldexp, ?ffrexp, ?fclass, by simp⟩
  case fadd | fsub | fmul | ffma | fdiv | fsqrt => exact ⟨rfl, _, fun _ => rfl, fun _ => arithForm_gates ..⟩
  case fminNum | fmin | fmaxNum | fmax => exact ⟨rfl, _, fun _ => rfl, fun _ => minmaxForm_gates ..⟩
  case frnd | ffract | fcopysign => exact ⟨rfl, _, fun _ => rfl, fun _ => floatForm1_gates ..⟩
  case fldexp => exact ⟨rfl, _, fun _ => rfl, fun _ => by unfold fldexpOp; exact x.gates_floatOp ..⟩
  case ffrexp => exact ⟨rfl, _, fun _ => rfl, fun _ => by unfold ffrexpOp; exact x.gates_floatOp ..⟩
  case fclass => exact ⟨rfl, _, fun _ => rfl, fun _ => by unfold fclassOp; exact x.gates_floatOp ..⟩

/-- The other integer forms of `sourceForms`. -/
theorem otherForms_gated (x : Iss) (f : Form) :
    GatedForm x f (.idiv f, List.replicate 2 (intTags f.ty)) ∧ GatedForm x f (.irem f, List.replicate 2 (intTags f.ty)) ∧
    GatedForm x f (.iaddc f, List.replicate 3 (intTags f.ty)) ∧ GatedForm x f (.lea f, [intTags .ptr, countTags]) ∧
    GatedForm x f (.perm f, [intTags f.ty, intTags f.ty, [.i32, .n32]]) ∧
    GatedForm x f (.ptest f, List.replicate 1 (intTags f.ty)) := by
  refine ⟨?idiv, ?irem, ?iaddc, ?lea, ?perm, ?ptest⟩
  case idiv | irem => exact ⟨rfl, _, fun _ => rfl, by rintro rfl; exact divOp_gates ..⟩
  case iaddc => exact ⟨rfl, _, fun _ => rfl, by rintro rfl; unfold addcOp; exact x.gates_laneOp ..⟩
  case lea => exact ⟨rfl, _, fun _ => rfl, by rintro rfl; unfold leaOp; exact x.gates_laneOp ..⟩
  case perm => exact ⟨rfl, _, fun _ => rfl, by rintro rfl; unfold permOp; exact x.gates_laneOp ..⟩
  case ptest => exact ⟨rfl, _, fun _ => rfl, by rintro rfl; unfold ptestOp; exact x.gates_predOp ..⟩

theorem sourceForms_gated (x : Iss) (f : Form) : ∀ e ∈ sourceForms x f, GatedForm x f e := by
  obtain ⟨hidiv, hirem, hiaddc, hlea, hperm, hptest⟩ := otherForms_gated x f
  simp only [sourceForms, List.forall_mem_append, List.forall_mem_map, List.forall_mem_cons]
  exact ⟨⟨⟨⟨⟨exactForms_gated x f, hidiv, hirem, hiaddc, hlea, hperm, hptest, by simp⟩, shiftForms_gated x f⟩,
    bitForms_gated x f⟩, icmp_gated x f .eq, icmp_gated x f .ne, icmp_gated x f .lt, icmp_gated x f .le, icmp_gated x f .gt,
    icmp_gated x f .ge, by simp⟩, arithmeticForms_gated x f⟩

/-- R83: a form of `sourceForms` answers what the gate of its sources makes of it. -/
theorem sourceForms_answers {s : State} {i : Instr} {f : Form} {x : Iss} {accs : List (List Ty)}
    (hmem : (i, accs) ∈ sourceForms x f) (h : Issues s i x) : ∃ k, Answers s i (x.gated x.active accs k) := by
  obtain ⟨hform, k, hk, hgates⟩ := sourceForms_gated x f (i, accs) hmem
  obtain ⟨k', hk'⟩ := hgates (h.form_eq hform)
  exact ⟨k', Answers.of_eq h (hk s) hk'⟩

theorem sourcesTrap : Claims.SourcesTrap := by
  intro s i f x accs hmem h
  obtain ⟨k, hans⟩ := sourceForms_answers hmem h
  refine ⟨fun hg => ?_, fun hg c hc => ?_, fun hg hw => ⟨fun he => ?_, fun he hraw hbad => ?_⟩⟩
  · rwa [Iss.gated_of_guardPending hg] at hans
  · rwa [Iss.gated_of_sourceWait hg hc] at hans
  · rwa [Iss.gated_of_empty hg hw he] at hans
  · rwa [Iss.gated_of_wrongTag hg hw he hraw hbad] at hans

/-! ## Marks (R208, R214, R218) -/

/-- R208: a ninth mark. -/
theorem Iss.marked_full {x : Iss} (h : 8 ≤ x.p.marks.length) (k : Iss → Work) : x.marked k = x.trap tRejoin 0 := if_pos h

/-- R84, R218: the lanes turned away are the active ones whose target is no multiple of 8. -/
theorem crooked_targets (x : Iss) : crooked x.targets = x.active.filter (fun l => bits (opnd (x.vals l) 0) 0 3 != 0) := by
  simp [crooked, Iss.targets, List.filter_map, Function.comp_def]

theorem groupLanes_ne_nil {xs : List (Nat × Word)} (h : xs ≠ []) : groupLanes xs ≠ [] := by
  obtain ⟨ys, y, rfl⟩ := xs.eq_nil_or_concat.resolve_left h
  rw [groupLanes, List.concat_eq_append, List.foldl_append]
  generalize List.foldl _ [] ys = gs
  cases gs with
  | nil => simp
  | cons g gs =>
    rw [List.foldl_cons, List.foldl_nil]
    split <;> simp

theorem exec_brs (f : Form) (s : State) : exec (.brs f) s = s.issue (.brs f) brsOp := rfl
theorem exec_jmpi (f : Form) (s : State) : exec (.jmpi f) s = s.issue (.jmpi f) jmpiOp := rfl
theorem exec_rejoin (f : Form) (s : State) : exec (.rejoin f) s = s.issue (.rejoin f) rejoinOp := rfl
theorem exec_call (f : Form) (s : State) : exec (.call f) s = s.issue (.call f) callOp := rfl
theorem exec_calli (f : Form) (s : State) : exec (.calli f) s = s.issue (.calli f) calliOp := rfl
theorem exec_ret (f : Form) (s : State) : exec (.ret f) s = s.issue (.ret f) retOp := rfl

theorem brs_traps {s : State} {f : Form} {x : Iss} (h : Issues s (.brs f) x) (hg : x.GuardReady) (hm : 8 ≤ x.p.marks.length) :
    Answers s (.brs f) (x.trap tRejoin 0) := by
  refine Answers.of_eq h (exec_brs f s) ?_
  rw [brsOp, Iss.guardGate_ready hg, Iss.marked_full hm]

/-- R218: what a `jmpi` does once its targets can be read. -/
theorem jmpiOp_of_crooked {x : Iss} (hr : x.Readable x.active [[.ptr]]) (h : crooked x.targets ≠ []) :
    jmpiOp x = x.trap tAlign (maskOf (crooked x.targets)) := by
  rw [jmpiOp, Iss.gated_ready hr]
  simp [h]

theorem jmpiOp_of_full {x : Iss} (hr : x.Readable x.active [[.ptr]]) (h : crooked x.targets = []) (hm : 8 ≤ x.p.marks.length) :
    jmpiOp x = x.trap tRejoin 0 := by
  rw [jmpiOp, Iss.gated_ready hr]
  simp [h, Iss.marked_full hm]

theorem calliOp_of_depth {x : Iss} (hd : x.p.depth ≠ x.v.depth) : calliOp x = x.wait 5 := if_pos (by simpa using hd)

theorem calliOp_of_crooked {x : Iss} (hd : x.p.depth = x.v.depth) (hr : x.Readable x.active [[.ptr]])
    (h : crooked x.targets ≠ []) : calliOp x = x.trap tAlign (maskOf (crooked x.targets)) := by
  rw [calliOp, if_neg (by simpa using hd), Iss.gated_ready hr]
  simp [h]

/-- R219: a `calli` at the mark stack's end: with no active lane at once, else once it may call. -/
theorem calliOp_of_full {x : Iss} (hd : x.p.depth = x.v.depth) (hr : x.Readable x.active [[.ptr]]) (h : crooked x.targets = [])
    (hm : 8 ≤ x.p.marks.length) (hcall : x.active ≠ [] → x.MayCall x.f.n) : calliOp x = x.trap tRejoin 0 := by
  rw [calliOp, if_neg (by simpa using hd), Iss.gated_ready hr]
  cases hgroups : groupLanes x.targets with
  | nil => simp [h, hgroups, Iss.marked_full hm]
  | cons g gs =>
    have hact : x.active ≠ [] := fun hnil => by simp [Iss.targets, hnil, groupLanes] at hgroups
    obtain ⟨hdepth, hargs, hspare, hshadow⟩ := hcall hact
    simp [h, hgroups, Iss.callGate_ready hdepth hargs hspare hshadow, Iss.marked_full hm]

/-- R214: a `rejoin` whose mark does not fit. -/
theorem rejoinOp_of_misfit {x : Iss} {m : Mark} {ms : List Mark} (hms : x.p.marks = m :: ms)
    (hbad : m.depth ≠ x.p.depth ∨ (m.count ≠ x.f.n ∧ layoutFor x.f.imm m.count = none) ∨ rejoinElsewhere x m.id = true) :
    rejoinOp x = x.trap tRejoin 0 := by
  have hmisfit : (!(m.depth == x.p.depth && (m.count == (x.f.n : Int) || (layoutFor x.f.imm m.count).isSome)) ||
      rejoinElsewhere x m.id) = true := by
    rcases hbad with hdepth | ⟨hcount, hlayout⟩ | helse
    · simp [hdepth]
    · simp [hcount, hlayout]
    · simp [helse]
  simp only [rejoinOp, hms]
  exact if_pos hmisfit

theorem marksTrap : Claims.MarksTrap := by
  refine ⟨fun s f x => brs_traps, fun s i x hi h hdepth hr => ?_, fun s f x h => ⟨fun hnil => ?_, fun m ms hms hbad => ?_⟩⟩
  · rw [← crooked_targets]
    obtain rfl | rfl : i = .jmpi x.f ∨ i = .calli x.f := by simpa using hi
    · exact ⟨fun hbad => Answers.of_eq h (exec_jmpi x.f s) (jmpiOp_of_crooked hr hbad),
        fun hbad hm _ => Answers.of_eq h (exec_jmpi x.f s) (jmpiOp_of_full hr hbad hm)⟩
    · exact ⟨fun hbad => Answers.of_eq h (exec_calli x.f s) (calliOp_of_crooked (hdepth rfl) hr hbad),
        fun hbad hm hcall => Answers.of_eq h (exec_calli x.f s) (calliOp_of_full (hdepth rfl) hr hbad hm (hcall rfl))⟩
  · exact Answers.of_eq h (exec_rejoin f s) (by simp only [rejoinOp, hnil])
  · exact Answers.of_eq h (exec_rejoin f s) (rejoinOp_of_misfit hms hbad)

/-! ## Call levels (R99, R219 to R221) -/

theorem Iss.callGate_of_depth {x : Iss} (hd : x.p.depth ≠ x.v.depth) (n : Nat) (k : Iss → Work) : x.callGate n k = x.wait 5 :=
  if_pos (by simpa using hd)

/-- R221: no level is left. -/
theorem Iss.callGate_of_full {x : Iss} {n : Nat} (hd : x.p.depth = x.v.depth) (ha : argPending x.cc n x.v x.p.home = false)
    (hfull : x.v.depth = 64) (k : Iss → Work) : x.callGate n k = x.trap tCalldepth 0 := by
  simp [Iss.callGate, hd, ha, hfull]

theorem calliOp_of_deep {x : Iss} (hd : x.p.depth = x.v.depth) (hr : x.Readable x.active [[.ptr]]) (hs : x.Straight)
    (hact : x.active ≠ []) (ha : argPending x.cc x.f.n x.v x.p.home = false) (hfull : x.v.depth = 64) :
    calliOp x = x.trap tCalldepth 0 := by
  rw [calliOp, if_neg (by simpa using hd), Iss.gated_ready hr]
  cases hgroups : groupLanes x.targets with
  | nil => exact absurd hgroups (groupLanes_ne_nil (by simpa [Iss.targets] using hact))
  | cons g gs => simp [crooked_nil hs, hgroups, Iss.callGate_of_full hd ha hfull]

section Ret

variable {x : Iss}

theorem retOp_of_depth (hd : x.p.depth ≠ x.v.depth) : retOp x = x.wait 5 := if_pos (by simpa using hd)

variable (hd : x.p.depth = x.v.depth)
include hd

theorem retOp_of_marked (hm : x.p.marks.any (fun m => m.depth == x.p.depth) = true) : retOp x = x.trap tRejoin 0 := by
  rw [retOp, if_neg (by simpa using hd), if_pos hm]

variable (hm : x.p.marks.any (fun m => m.depth == x.p.depth) = false)
include hm

theorem retOp_of_no_level (hl : x.v.levels = []) : retOp x = x.trap tCalldepth 0 := by
  rw [retOp, if_neg (by simpa using hd), hm, hl]
  rfl

/-- R219: a `ret` in a `calli` with another number of results. -/
theorem retOp_of_other_count {c : CallLevel} {cs : List CallLevel} {m : Nat} (hl : x.v.levels = c :: cs)
    (ha : argPending x.cc x.f.n x.v x.p.home = false) (hc : c.m = some m) (hne : m ≠ x.f.n) : retOp x = x.trap tRejoin 0 := by
  rw [retOp, if_neg (by simpa using hd), hm, hl]
  simp [ha, hc, hne]

end Ret

theorem levelsTrap : Claims.LevelsTrap := by
  refine ⟨fun s i x hi h hd => ?_, fun s i x hi h hd hcalli ha hfull => ?_, fun s f x h hd => ?_⟩
  · obtain rfl | rfl | rfl : i = .call x.f ∨ i = .calli x.f ∨ i = .ret x.f := by simpa using hi
    · exact Answers.of_eq h (exec_call x.f s) (Iss.callGate_of_depth hd ..)
    · exact Answers.of_eq h (exec_calli x.f s) (calliOp_of_depth hd)
    · exact Answers.of_eq h (exec_ret x.f s) (retOp_of_depth hd)
  · obtain rfl | rfl : i = .call x.f ∨ i = .calli x.f := by simpa using hi
    · exact Answers.of_eq h (exec_call x.f s) (Iss.callGate_of_full hd ha hfull _)
    · obtain ⟨hr, hs, hact⟩ := hcalli rfl
      exact Answers.of_eq h (exec_calli x.f s) (calliOp_of_deep hd hr hs hact ha hfull)
  · exact ⟨fun hm => Answers.of_eq h (exec_ret f s) (retOp_of_marked hd hm),
      fun hm hl => Answers.of_eq h (exec_ret f s) (retOp_of_no_level hd hm hl),
      fun c cs m hm hl ha hc hne => Answers.of_eq h (exec_ret f s) (retOp_of_other_count hd hm hl ha hc hne)⟩

end Sys2Proof.Machine

/-- Settles O60: the checks before an issue, the gate of the sources, the mark stack and the call levels, each by what its
operation does where the check fails. -/
theorem sourcesAndStacksTrap : Obligations.SourcesAndStacksTrap := ⟨checksBeforeIssue, sourcesTrap, marksTrap, levelsTrap⟩

end

section
/-! PROOF. Calls and returns, and the queues across them (spec/04 R97, R99, spec/08 R216, R219 to R221): O18 and O19. -/

open Sys2Proof
open Sys2Proof.Machine

namespace Sys2Proof.Machine

/-! ## Calls (R97, R219, R220, R229) -/

theorem callDelay_decide (p : Prop) [Decidable p] : callDelay (decide p) = if p then 70 else 6 := by simp [callDelay]

theorem Iss.MayCall.callGate_eq {x : Iss} {n : Nat} (h : x.MayCall n) (k : Iss → Work) : x.callGate n k = k x :=
  Iss.callGate_ready h.depth h.args h.spare h.shadow k

theorem callOp_of_mayCall {x : Iss} (h : x.MayCall x.f.n) : callOp x = { x with
    v := enterLevel x.v x.callerLevel x.p.home x.f.n, p := { x.p with depth := x.p.depth + 1 } }.goto
      (targetOf x.p.pc x.f) (if 2 ≤ x.v.depth then 70 else 6) {} := by
  rw [callOp, h.callGate_eq, ← callDelay_decide]
  rfl

section Calli

variable {x : Iss} (hd : x.p.depth = x.v.depth) (hr : x.Readable x.active [[.ptr]]) (hs : x.Straight)
include hd hr hs

/-- R219: a `calli` with no active lane. -/
theorem calliOp_of_no_group (hm : x.p.marks.length < 8) (hnone : x.groups = []) : calliOp x = { x.withMark with
    v := (emptyCalli x.withMark.v x.withMark.p x.f.m).1, p := (emptyCalli x.withMark.v x.withMark.p x.f.m).2 }.done := by
  have hgroups : groupLanes x.targets = [] := hnone
  rw [calliOp, if_neg (by simpa using hd), Iss.gated_ready hr]
  simp only [crooked_nil hs, hgroups, List.isEmpty_nil, Bool.not_true, Bool.false_eq_true, if_false]
  rw [Iss.marked_ready hm]
  rfl

/-- R219: a `calli` that may call calls the group of its lowest lane, and keeps the others in the level. -/
theorem calliOp_of_group {a : Word} {m : LaneMask} {gs : List (Word × LaneMask)} (hm : x.p.marks.length < 8)
    (hsome : x.groups = (a, m) :: gs) (hcall : x.MayCall x.f.n) :
    let y := x.withMark.pop
    let rem := gs.foldl (fun m h => m ||| h.2) 0
    calliOp x = { y with
      v := enterLevel y.v (y.groupLevel rem (x.active.map (fun l => (l, opnd (x.vals l) 0)))) (y.p.home &&& ~~~rem) x.f.n
      p := { y.p with depth := y.p.depth + 1, home := y.p.home &&& ~~~rem, emask := m, calliRem := rem } }.goto
        (a.setWidth 57) (if 2 ≤ x.v.depth then 70 else 6) {} := by
  have hgroups : groupLanes x.targets = (a, m) :: gs := hsome
  have hf : x.withMark.pop.f = x.f := x.withMark.pop_f
  have hdepth : x.withMark.pop.v.depth = x.v.depth := by rw [Iss.pop_eq]; rfl
  intro y rem
  rw [← hf, ← hdepth, ← callDelay_decide, calliOp, if_neg (by simpa using hd), Iss.gated_ready hr]
  simp only [crooked_nil hs, hgroups, List.isEmpty_nil, Bool.not_true, Bool.false_eq_true, if_false]
  rw [hcall.callGate_eq, Iss.marked_ready hm]
  rfl

end Calli

theorem callsEnterALevel : Claims.CallsEnterALevel :=
  ⟨fun s f _ h hcall => Answers.of_eq h (exec_call f s) (callOp_of_mayCall hcall),
    fun s f _ h hr hs hm hd => ⟨fun hnone => Answers.of_eq h (exec_calli f s) (calliOp_of_no_group hd hr hs hm hnone),
      fun _ _ _ hsome hcall => Answers.of_eq h (exec_calli f s) (calliOp_of_group hd hr hs hm hsome hcall)⟩⟩

/-! ## Returns (R99, R219, R220) -/

theorem retOp_of_level {x : Iss} {c : CallLevel} {cs : List CallLevel} (hd : x.p.depth = x.v.depth)
    (hm : x.p.marks.any (fun m => m.depth == x.p.depth) = false) (hl : x.v.levels = c :: cs)
    (ha : argPending x.cc x.f.n x.v x.p.home = false) (hc : c.m = none ∨ c.m = some x.f.n) (hpc : c.retPc.toNat % 8 = 0)
    (hnext : nextArgsPending x.cc x.v c = false) : retOp x =
      { x with v := (returnTo x.v x.p c x.f.n).1, p := (returnTo x.v x.p c x.f.n).2 }.goto
        (returnTo x.v x.p c x.f.n).2.pc (if 3 ≤ x.v.depth then 70 else 6) {} := by
  have hcount : (c.m.isSome && c.m != some x.f.n) = false := by rcases hc with h | h <;> simp [h]
  rw [retOp, if_neg (by simpa using hd), hm, hl, ← callDelay_decide]
  simp only [ha, hcount, hpc, hnext, Bool.false_eq_true, if_false, ne_eq, not_true_eq_false]

theorem returnsLeaveALevel : Claims.ReturnsLeaveALevel := fun s f _ _ _ h hd hm hl ha hc hpc hnext =>
  Answers.of_eq h (exec_ret f s) (retOp_of_level hd hm hl ha hc hpc hnext)

/-! ## The queues of a level (R97, R99) -/

/-- R97: the queue a caller level keeps for a lane of its home set. -/
theorem getElem?_savedQueues {v : Wave} {home : LaneMask} {l : Nat} (hl : l < 32) (hhome : inMask home l = true) :
    (savedQueues v home)[l]? = some (v.lane l).q := by
  simp [savedQueues, hl, hhome]

/-- R97: a callee's queue holds the n youngest entries, and EMPTY ones after them. -/
theorem calleeQueue_eq {q : List Entry} {n : Nat} (hn : n ≤ q.length) :
    calleeQueue n q = q.take n ++ List.replicate (16 - n) Entry.empty := by
  rw [calleeQueue, List.length_take_of_le hn]

/-- R97: a lane of the home set once a level is entered. -/
theorem enterLevel_lane {v : Wave} {home : LaneMask} {l : Nat} (c : CallLevel) (n : Nat) (hl : l < v.lanes.length)
    (hhome : inMask home l = true) : (enterLevel v c home n).lane l = { v.lane l with q := calleeQueue n (v.lane l).q } :=
  (Wave.lane_map_enum (u := enterLevel v c home n) rfl hl).trans (if_pos hhome)

/-- R99: a lane of the home set once the caller's queues are restored. -/
theorem restoreQueues_lane {u : Wave} {home : LaneMask} {l : Nat} (c : CallLevel) (n : Nat) (hl : l < u.lanes.length)
    (hhome : inMask home l = true) : (restoreQueues u c home n).lane l =
      { u.lane l with q := pushAll (c.queues.getD l []) ((u.lane l).q.take n).reverse } :=
  (Wave.lane_map_enum (u := restoreQueues u c home n) rfl hl).trans (if_pos hhome)

theorem calleeQueuesOpen : Claims.CalleeQueuesOpen := by
  intro v c home n l hl hlane hhome hq hn hc
  refine ⟨?_, rfl, rfl, hc ▸ getElem?_savedQueues hl hhome⟩
  rw [enterLevel_lane c n hlane hhome]
  exact calleeQueue_eq (hn.trans_eq hq.symm)

theorem returnsRestoreQueues : Claims.ReturnsRestoreQueues := by
  intro v u c home n l hl hlane hhome hq hc _
  have hsaved : c.queues.getD l [] = (v.lane l).q := by
    rw [hc, List.getD_eq_getElem?_getD, getElem?_savedQueues hl hhome, Option.getD_some]
  have hrestored (k : Nat) : ((restoreQueues u c home k).lane l).q = ((u.lane l).q.take k ++ (v.lane l).q).take 16 := by
    rw [restoreQueues_lane c k hlane hhome, hsaved, pushAll_eq hq, List.reverse_reverse]
  refine ⟨hrestored n, ?_⟩
  rw [hrestored, List.take_zero, List.nil_append, List.take_of_length_le hq.le]

/-! ## Queues permuted at a rejoin (R216) -/

/-- R216: an entry a layout selects from a queue, or a zero. -/
def pickedEntry (sel : List Nat) (q : List Entry) (k : Nat) : Entry :=
  if sel.getD k 0 = 0 then { val := 0, tag := .i32, pend := .clear } else q.getD (sel.getD k 0 - 1) Entry.empty

/-- R216: a permuted queue holds the selected entries, those older than the mark, and EMPTY ones to sixteen. -/
theorem permuteQueue_eq (n c : Nat) (sel : List Nat) (q : List Entry) : permuteQueue n c sel q =
    (List.range n).map (pickedEntry sel q) ++ ((q.drop c).take (16 - n) ++
      List.replicate (16 - n - ((q.drop c).take (16 - n)).length) Entry.empty) := by
  rw [permuteQueue, List.append_assoc]
  congr 2
  funext k
  unfold pickedEntry
  cases sel.getD k 0 <;> rfl

/-- A list cut to `n` places and filled up to them reads as the list, with the filler beyond its end. -/
theorem getElem?_take_append_replicate {α : Type} (xs : List α) (a : α) {n i : Nat} (h : i < n) :
    (xs.take n ++ List.replicate (n - (xs.take n).length) a)[i]? = some (xs.getD i a) := by
  by_cases hi : i < xs.length
  · rw [List.getElem?_append_left (by simp [h, hi])]
    simp [h, hi]
  · rw [List.getElem?_append_right (by simp; omega), List.getElem?_replicate_of_lt (by simp; omega),
      List.getD_eq_default _ _ (by omega)]

theorem rejoinsPermute : Claims.RejoinsPermute := by
  intro n c k sel q hn hq hk
  rw [permuteQueue_eq]
  refine ⟨by simp; omega, ?_⟩
  by_cases hpicked : k < n
  · rw [if_pos hpicked, List.getElem?_append_left (by simpa using hpicked)]
    simp [hpicked, pickedEntry]
  · rw [if_neg hpicked, List.getElem?_append_right (by simpa using hpicked), List.length_map, List.length_range,
      getElem?_take_append_replicate _ _ (by omega)]
    simp

end Sys2Proof.Machine

/-- Settles O18: a call and a return past their gates, by what their operations do there. -/
theorem callsAndReturnsComplete : Obligations.CallsAndReturnsComplete := ⟨callsEnterALevel, returnsLeaveALevel⟩

/-- Settles O19: the queue a level opens, the one it gives back, and the one a rejoin permutes. -/
theorem queuesCrossCalls : Obligations.QueuesCrossCalls := ⟨calleeQueuesOpen, returnsRestoreQueues, rejoinsPermute⟩

end

section
/-! PROOF. Replies, deliveries, and the units that execute requests (spec/04 R93, R105, spec/11 R293, spec/09 R250, spec/14 R372
to R374, spec/16 R418): O37. -/

open Sys2Proof
open Sys2Proof.Machine

namespace Sys2Proof.Machine

/-! ## What may arrive for a record entry (R93, R293) -/

/-- R93, R418: an entry for which nothing arrives in a cc: its operation is not performed yet, or is to be sent again. -/
def Rec.underway (cc : Nat) (r : Rec) : Bool := match r.state with
  | .timed c => decide (cc < c)
  | .refused _ => r.results.isEmpty
  | .walk | .xlate _ | .held _ | .fill => true
  | _ => false

/-- R93, R354: an entry for which something may arrive in a cc. -/
structure Rec.Due (cc : Nat) (r : Rec) : Prop where
  live : r.frozen = false
  injected : r.injected = true
  performed : r.underway cc = false

section Arrive

variable {w : Work} {v : Wave} {r : Rec}

/-- Past the checks of an arrival. -/
theorem Rec.Due.passes (h : r.Due w.d.cc) (a b c k : Except Refusal Work) :
    (if r.frozen then a else if r.underway w.d.cc then b else if !r.injected then c else k) = k := by
  simp [h.live, h.performed, h.injected]

theorem Rec.due_of_sent {cc : Nat} (hlive : r.frozen = false) (hinj : r.injected = true) (hstate : r.state = .sent) : r.Due cc :=
  ⟨hlive, hinj, by simp [Rec.underway, hstate]⟩

theorem Rec.due_of_timed {cc c : Nat} (hlive : r.frozen = false) (hinj : r.injected = true) (hstate : r.state = .timed c)
    (hc : c ≤ cc) : r.Due cc := ⟨hlive, hinj, by simp [Rec.underway, hstate, hc]⟩

theorem due_of_repliesCome {cc : Nat} (h : repliesCome cc r) : r.Due cc := by
  obtain ⟨hlive, hinj, -, hstate, -⟩ := h
  refine ⟨hlive, hinj, ?_⟩
  rcases hstate with h | h | ⟨c, h, hc⟩
  · simp [Rec.underway, h]
  · simp [Rec.underway, h]
  · simp [Rec.underway, h, hc]

/-- R93: the replies of an operation that only waits for them. -/
theorem arrive_of_repliesCome (h : repliesCome w.d.cc r) : arrive w v r = .ok (acceptReplies w v r) := by
  refine ((due_of_repliesCome h).passes _ _ _ _).trans ?_
  obtain ⟨-, -, hres, -, hop⟩ := h
  have hreplied : (!r.results.isEmpty) = true := by simpa using hres
  cases hr : r.op with
  | load | store | atom | update | reduce | gget | gset | arrival | launch | send => exact if_pos hreplied
  | _ => simp [hr] at hop

/-- R264, R293: a load or a store whose turn has come. -/
theorem arrive_of_performRec {w' : Work} (h : r.Due w.d.cc) (hres : r.results = [])
    (hop : (∃ n, r.op = .store n) ∨ ∃ t n k, r.op = .load t n k) (hperf : performRec w v r = some w') :
    arrive w v r = .ok w' := by
  refine (h.passes _ _ _ _).trans ?_
  rcases hop with ⟨n, hop⟩ | ⟨t, n, k, hop⟩ <;> simp [hop, hres, hperf]

theorem arrive_of_ptset {c : Ctx} {a : VAddr} {full val : Bool} {m : Nat} {x : Word} (h : r.Due w.d.cc)
    (hop : r.op = .ptset a full val m x) (hc : w.d.ctx v.ctx = some c) (hwalk : ∀ k, walk w c a ≠ .lost k) :
    arrive w v r = .ok (acceptAll (performPtset w c a full val m x).1 v r
      [(BitVec.ofNat 64 (performPtset w c a full val m x).2, .n32)]) := by
  refine (h.passes _ _ _ _).trans ?_
  cases hk : walk w c a with
  | lost k => exact absurd hk (hwalk k)
  | absent | malformed | leaf => simp only [hop, hc, hk]

theorem arrive_of_pgcnt {a : VAddr} {rst : Bool} (h : r.Due w.d.cc) (hop : r.op = .pgcnt a rst) :
    arrive w v r = .ok (performWatch w v r a rst) := by
  refine (h.passes _ _ _ _).trans ?_
  rw [hop]

theorem arrive_of_counter (h : r.Due w.d.cc)
    (hop : (∃ i n y, r.op = .post i n y) ∨ (∃ i n, r.op = .sig i n) ∨ ∃ i n, r.op = .pop i n)
    (hturn : counterTurn w.d v r = true) : arrive w v r = .ok (performCounter w v r) := by
  refine (h.passes _ _ _ _).trans ?_
  rcases hop with ⟨i, n, y, hop⟩ | ⟨i, n, hop⟩ | ⟨i, n, hop⟩ <;> simp only [hop, hturn, if_true]

/-! ## Page counts and counter operations (R387, R319, R324, R418) -/

theorem performWatch_of_no_reset (w : Work) (v : Wave) (r : Rec) (a : VAddr) : performWatch w v r a false =
    acceptAll { w with d := (performPgcnt w.d v.ctx a false).1 } v r
      [(BitVec.ofNat 64 (performPgcnt w.d v.ctx a false).2, .n32)] := rfl

/-- R387, R418: a count that resets, of which its unit holds nothing, with room for its filter entries. -/
theorem performWatch_of_reset {a : VAddr} {d : Dev}
    (hheld : heldResult w.d v r .watchTable ((lanesOf r.lanes).headD 0) = none)
    (hkeep : keepFilters (performPgcnt w.d v.ctx a true).1 ((lanesOf r.lanes).map (fun l =>
      recFilter v r .watchTable l [BitVec.ofNat 64 (performPgcnt w.d v.ctx a true).2])) = some d) :
    performWatch w v r a true =
      acceptAll { w with d } v r [(BitVec.ofNat 64 (performPgcnt w.d v.ctx a true).2, .n32)] := by
  simp only [performWatch, Bool.not_true, Bool.false_eq_true, if_false, hheld, hkeep]

/-- R319, R324, R418: a counter operation, of which its unit holds nothing, with room for its filter entry. -/
theorem performCounter_of_act {d e : Dev} (hheld : heldResult w.d v r (.bufUnit v.task v.place) 0 = none)
    (hkeep : keepFilters w.d [recFilter v r (.bufUnit v.task v.place) 0 []] = some d) (hact : counterAct d v r = some e) :
    performCounter w v r = settleWave ({ w with d := e }.upd (fun d =>
      ({ d with acks := d.acks ++ acksFor d v.launchId (tagOf v r.seq) }).updWave v.uid (fun v => v.dropRec r.seq))) v.uid := by
  simp only [performCounter, hheld, hkeep, hact]

end Arrive

/-! ## Arrivals and deliveries -/

theorem longLatencyArrival_answers {s : State} {u q : Nat} {v : Wave} {r : Rec} {w : Work} (hv : s.dev.wave u = some v)
    (hr : v.rec_ q = some r) (h : arrive s.work v r = .ok w) : Answers s (.longLatencyArrival u q) w := by
  show execLongLatencyArrival u q s = _
  refine State.run_ok ?_
  simp only [State.work_d, hv, Option.bind_some, hr, Option.map_some]
  exact h

theorem inboxDelivery_answers {s : State} {k : Nat} {x : Delivery} (hx : s.dev.deliveries[k]? = some x) :
    Answers s (.inboxDelivery k) (s.work.upd (fun d => { d.updWave x.wave (fun v => v.deliverInbox d.cc x.inbox x.key x.vals) with
      deliveries := d.deliveries.eraseIdx k })) := by
  show execInboxDelivery k s = _
  refine State.run_ok ?_
  simp only [State.work_d, hx]

theorem arrivalsAreTaken : Claims.ArrivalsAreTaken := by
  refine ⟨fun s u q v r hv hr => ⟨?replies, ?access, ?ptset, ?pgcnt, ?pgcntReset, ?counter⟩,
    fun s k x => inboxDelivery_answers⟩
  case replies => exact fun h => longLatencyArrival_answers hv hr (arrive_of_repliesCome h)
  case access =>
    intro w hres hsent hlive hinj hop hperf
    exact longLatencyArrival_answers hv hr (arrive_of_performRec (Rec.due_of_sent hlive hinj hsent) hres hop hperf)
  case ptset =>
    intro c a full val m x hlive hinj hsent hop hc hwalk
    exact longLatencyArrival_answers hv hr (arrive_of_ptset (Rec.due_of_sent hlive hinj hsent) hop hc hwalk)
  case pgcnt =>
    intro c a hlive hinj htimed hcc hop
    refine longLatencyArrival_answers hv hr ((arrive_of_pgcnt (Rec.due_of_timed hlive hinj htimed hcc) hop).trans ?_)
    exact congrArg _ (performWatch_of_no_reset ..)
  case pgcntReset =>
    intro c a d hlive hinj htimed hcc hop hheld x n hkeep
    refine longLatencyArrival_answers hv hr ((arrive_of_pgcnt (Rec.due_of_timed hlive hinj htimed hcc) hop).trans ?_)
    exact congrArg _ (performWatch_of_reset hheld hkeep)
  case counter =>
    intro c d e hlive hinj htimed hcc hop hturn hheld hkeep hact
    refine longLatencyArrival_answers hv hr ((arrive_of_counter (Rec.due_of_timed hlive hinj htimed hcc) hop hturn).trans ?_)
    exact congrArg _ (performCounter_of_act hheld hkeep hact)

/-! ## Abacus banks (R250, R354, R358, R418) -/

theorem bankTaken_eq (s : State) (k : Nat) :
    bankTaken s k = s.work.upd (fun d => { d with bankReqs := d.bankReqs.eraseIdx k }) := rfl

section Bank

variable {s : State} {k : Nat} {q : BankReq} (hq : s.dev.bankReqs[k]? = some q) (hfirst : bankBehind s.dev q = false)
  (hinj : uninjected s.dev q.wave q.seq = false) (hgood : bankBad (bankTaken s k).d q = [])
include hq hfirst hinj hgood

/-- R250: a bank executes its request, keeps its filter entries, and replies once its turn in the log has come. -/
theorem bankOperation_answers_of_kept {d : Dev} {w : Work}
    (hkeep : keepFilters (bankLanes (bankTaken s k) q).2.2.d (bankLanes (bankTaken s k) q).2.1 = some d)
    (hgate : (if bankI2 q.op then
      orderGate { (bankLanes (bankTaken s k) q).2.2 with d } true (q.die * 64 + q.bank) q.launchId q.tag
      else some { (bankLanes (bankTaken s k) q).2.2 with d }) = some w) :
    Answers s (.bankOperation k) (w.upd (fun d => reply d q.wave q.seq (bankLanes (bankTaken s k) q).1)) := by
  show execBankOperation k s = _
  refine State.run_ok ?_
  simp only [State.work_d, hq, hfirst, hinj, Bool.false_eq_true, if_false, ← bankTaken_eq, hgood, hkeep, hgate]

/-- R418: a bank whose store has no room refuses the request. -/
theorem bankOperation_answers_of_refused
    (hfull : keepFilters (bankLanes (bankTaken s k) q).2.2.d (bankLanes (bankTaken s k) q).2.1 = none) :
    Answers s (.bankOperation k) ((bankTaken s k).upd (fun d => refuse d q.wave q.seq)) := by
  show execBankOperation k s = _
  refine State.run_ok ?_
  simp only [State.work_d, hq, hfirst, hinj, Bool.false_eq_true, if_false, ← bankTaken_eq, hgood, hfull]

end Bank

/-! ## Group units (R372 to R374, R418) -/

theorem groupTaken_eq (s : State) (k : Nat) : groupTaken s k = { s.dev with groupReqs := s.dev.groupReqs.eraseIdx k } := rfl

theorem groupFilter_eq (q : GroupReq) : groupFilter q =
    { unit := q.unit, ctx := q.ctx, launchId := q.launchId, task := q.task, tag := q.tag, step := 0, lane := 0, result := [],
      spilled := false } := rfl

/-- R372: no earlier request of the wave names the group. -/
theorem groupReqs_any_eq_false {qs : List GroupReq} {q : GroupReq}
    (h : qs.all (fun r => r.wave != q.wave || r.entry != q.entry) = true) :
    qs.any (fun r => r.wave == q.wave && r.entry == q.entry) = false := by
  rw [List.any_eq_false]
  simpa [← not_and_or] using h

section Group

variable {s : State} {k : Nat} {q : GroupReq} (hq : s.dev.groupReqs[k]? = some q) (hat : q.at_ ≤ s.dev.cc)
  (hinj : uninjected s.dev q.wave q.seq = false)
  (hfirst : (s.dev.groupReqs.take k).all (fun r => r.wave != q.wave || r.entry != q.entry) = true)
include hq hat hinj hfirst

/-- R374: a group unit answers a read, and keeps no filter entry. -/
theorem groupUnitRequest_answers_of_read (hread : groupI2 q.op = false) : Answers s (.groupUnitRequest k) { s.work with
    d := reply (groupExec (groupTaken s k) q).2 q.wave q.seq
      ((groupLanes_ (groupTaken s k) q).map (fun l => (l, (groupExec (groupTaken s k) q).1))) } := by
  show execGroupUnitRequest k s = _
  refine State.run_ok ?_
  simp only [State.work_d, hq, Nat.not_lt.2 hat, hinj, groupReqs_any_eq_false hfirst, hread, Bool.false_eq_true,
    if_false, Bool.not_false, if_true]
  rfl

/-- R372, R374, R418: a group unit keeps its filter entry, and executes and replies once its turn in the log has come. -/
theorem groupUnitRequest_answers_of_kept {d : Dev} {w : Work} (hwrite : groupI2 q.op = true)
    (hnew : marked (groupTaken s k) q.ctx = false) (hkeep : keepFilters (groupTaken s k) [groupFilter q] = some d)
    (hgate : orderGate { s.work with d := d } false (q.entry % 8) q.launchId q.tag = some w) :
    Answers s (.groupUnitRequest k) { w with
      d := reply (groupExec w.d q).2 q.wave q.seq ((groupLanes_ (groupTaken s k) q).map (fun l => (l, []))) } := by
  show execGroupUnitRequest k s = _
  refine State.run_ok ?_
  simp only [State.work_d, hq, Nat.not_lt.2 hat, hinj, groupReqs_any_eq_false hfirst, hwrite, Bool.false_eq_true,
    if_false, Bool.not_true, ← groupTaken_eq, hnew, Bool.false_and, ← groupFilter_eq, hkeep, hgate]
  rfl

end Group

/-! ## The log, acknowledgments and resends (R435, R418) -/

/-- R435: a recorder that is off lets every operation through, and logs none. -/
theorem orderGate_of_off {w : Work} (h : w.d.mg.recMode = .off) (bank : Bool) (unit launchId tag : Nat) :
    orderGate w bank unit launchId tag = some w := by
  simp [orderGate, logItem, h]

theorem filterAcknowledgment_answers {s : State} {k : Nat} {a : Ack} (ha : s.dev.acks[k]? = some a) :
    Answers s (.filterAcknowledgment k) (s.work.upd (fun d => { d with
      acks := d.acks.eraseIdx k
      filters := d.filters.filter (fun f =>
        !(f.unit == a.unit && f.launchId == a.launchId && f.tag == a.tag && f.step == a.step)) })) := by
  show execFilterAcknowledgment k s = _
  refine State.run_ok ?_
  simp only [State.work_d, ha]

theorem refusedI2RequestResend_answers {s : State} {k c : Nat} {v : Wave} {r : Rec}
    (hr : (refusedRecs s.dev)[k]? = some (v, r, c)) (hc : c + 64 ≤ s.dev.cc) :
    Answers s (.refusedI2RequestResend k) (s.work.upd (fun d => resend d v r)) := by
  show execRefusedI2RequestResend k s = _
  refine State.run_ok ?_
  simp only [State.work_d, hr, Nat.not_lt.2 hc, if_false]

theorem unitsExecuteRequests : Claims.UnitsExecuteRequests := by
  refine ⟨fun s k q hq hfirst hinj hgood => ⟨fun d w => bankOperation_answers_of_kept hq hfirst hinj hgood,
      bankOperation_answers_of_refused hq hfirst hinj hgood⟩,
    fun s k q hq hat hinj hfirst => ⟨groupUnitRequest_answers_of_read hq hat hinj hfirst,
      fun d w => groupUnitRequest_answers_of_kept hq hat hinj hfirst⟩,
    fun w bank unit launchId tag h => orderGate_of_off h bank unit launchId tag,
    fun s k a => filterAcknowledgment_answers, fun s k c v r => refusedI2RequestResend_answers⟩

end Sys2Proof.Machine

/-- Settles O37: what arrives for an entry or an inbox, and what banks, group units, filters and resends answer. -/
theorem requestsArePerformed : Obligations.RequestsArePerformed := ⟨arrivalsAreTaken, unitsExecuteRequests⟩

end

section
/-! PROOF. Integer values and words (spec/03 R72, R77, spec/05 R109, R113, R119): how numbers wrap, and which bits the bit-field
operations act on; O2 and O4. -/

open Sys2Proof
open Sys2Proof.Machine

namespace Sys2Proof.Machine

/-! ## Numbers and words (R72, R77, R109) -/

theorem intVal_signed {t : Ty} (hs : tySigned t = true) (x : Word) :
    intVal t x = if tyWidth t = 32 then (x.setWidth 32).toInt else x.toInt := by
  simp [intVal, hs]

theorem intVal_unsigned {t : Ty} (hs : tySigned t = false) (x : Word) : intVal t x = natVal t x := by
  simp only [intVal, natVal, hs, Bool.false_eq_true, if_false]
  split <;> rfl

/-- R109: a number is read from a word whose low bits are those of the number. -/
theorem ofInt_intVal_32 {t : Ty} (h : tyWidth t = 32) (x : Word) : BitVec.ofInt 32 (intVal t x) = x.setWidth 32 := by
  rw [intVal, if_pos h]
  split
  · exact BitVec.ofInt_toInt
  · exact (BitVec.ofInt_natCast ..).trans (BitVec.ofNat_toNat ..)

theorem ofInt_intVal_64 {t : Ty} (h : tyWidth t ≠ 32) (x : Word) : BitVec.ofInt 64 (intVal t x) = x := by
  rw [intVal, if_neg h]
  split
  · exact BitVec.ofInt_toInt
  · exact (BitVec.ofInt_natCast ..).trans (BitVec.ofNat_toNat ..)

/-- R77: an operation on numbers that acts alike on their low bits, wrapped, is the operation on words. -/
theorem intWrap_eq_atWidth {op : Int → Int → Int} {op32 : BitVec 32 → BitVec 32 → BitVec 32} {op64 : Word → Word → Word}
    (h32 : ∀ u v, BitVec.ofInt 32 (op u v) = op32 (BitVec.ofInt 32 u) (BitVec.ofInt 32 v))
    (h64 : ∀ u v, BitVec.ofInt 64 (op u v) = op64 (BitVec.ofInt 64 u) (BitVec.ofInt 64 v)) (t : Ty) (a b : Word) :
    intWrap t (op (intVal t a) (intVal t b)) = atWidth t op32 op64 a b := by
  by_cases h : tyWidth t = 32
  · rw [intWrap, if_pos h, atWidth, if_pos h, h32, ofInt_intVal_32 h, ofInt_intVal_32 h]
  · rw [intWrap, if_neg h, atWidth, if_neg h, h64, ofInt_intVal_64 h, ofInt_intVal_64 h]

theorem ofInt_sub (n : Nat) (u v : Int) : BitVec.ofInt n (u - v) = BitVec.ofInt n u - BitVec.ofInt n v := by
  rw [Int.sub_eq_add_neg, BitVec.ofInt_add, BitVec.ofInt_neg, BitVec.sub_eq_add_neg]

/-- R72: a word cut to its type's width is its number, wrapped. -/
theorem intWrap_intVal (t : Ty) (x : Word) : intWrap t (intVal t x) = fit t x := by
  by_cases h : tyWidth t = 32
  · rw [intWrap, if_pos h, fit, if_pos h, ofInt_intVal_32 h]
  · rw [intWrap, if_neg h, fit, if_neg h, ofInt_intVal_64 h]

/-- R77: numbers may be wrapped before they are added. -/
theorem intWrap_add_intWrap (t : Ty) (u v : Int) :
    intWrap t (intVal t (intWrap t u) + intVal t (intWrap t v)) = intWrap t (u + v) := by
  rw [intWrap_eq_atWidth BitVec.ofInt_add BitVec.ofInt_add]
  by_cases h : tyWidth t = 32
  · simp [atWidth, intWrap, h, BitVec.ofInt_add]
  · simp [atWidth, intWrap, h, BitVec.ofInt_add]

theorem intTy_width {t : Ty} (h : intTy t = true) : tyWidth t = 32 ∨ tyWidth t = 64 := by
  cases t <;> simp_all [intTy, tyWidth]

/-- R77: a number within the range of its type is read back once it is wrapped. -/
theorem intVal_intWrap {t : Ty} (ht : intTy t = true) {v : Int} (hlo : intMin t ≤ v) (hhi : v ≤ intMax t) :
    intVal t (intWrap t v) = v := by
  cases hs : tySigned t with
  | true =>
    obtain hw | hw := intTy_width ht
    all_goals
      simp only [intMin, intMax, hs, hw, if_true] at hlo hhi
      simp only [intVal, intWrap, hs, hw, if_true, Nat.reduceEqDiff, if_false, BitVec.setWidth_setWidth_of_le, Nat.reduceLeDiff,
        BitVec.setWidth_eq]
      exact BitVec.toInt_ofInt_eq_self (by decide) (by omega) (by omega)
  | false =>
    obtain hw | hw := intTy_width ht
    all_goals
      simp only [intMin, intMax, hs, hw, Bool.false_eq_true, if_false] at hlo hhi
      simp only [intVal, intWrap, hs, hw, Bool.false_eq_true, if_true, Nat.reduceEqDiff, if_false, BitVec.setWidth_setWidth_of_le,
        Nat.reduceLeDiff, BitVec.setWidth_eq, BitVec.toNat_ofInt]
      simp only [Int.ofNat_eq_natCast]
      omega

theorem intMin_le_intMax {t : Ty} (ht : intTy t = true) : intMin t ≤ intMax t := by
  obtain hw | hw := intTy_width ht <;> cases hs : tySigned t <;> simp [intMin, intMax, hw, hs]

/-! ## Bits of fields (R119) -/

/-- R119: bit i of a word of w bits set at its mirrored place. -/
def revStep (w : Nat) (a : Word) (n i : Nat) : Nat := if a.getLsbD i then n + 2 ^ (w - 1 - i) else n

theorem revBits_eq (w : Nat) (a : Word) : revBits w a = (List.range w).foldl (revStep w a) 0 := rfl

theorem testBit_revStep {w m : Nat} (hm : m < w) (a : Word) {n : Nat} (hn : 2 ^ (w - m) ∣ n) (k : Nat) :
    2 ^ (w - (m + 1)) ∣ revStep w a n m ∧
      (revStep w a n m).testBit k = (n.testBit k || (decide (k = w - 1 - m) && a.getLsbD m)) := by
  have hlow : (2 : Nat) ^ (w - 1 - m) < 2 ^ (w - m) := Nat.pow_lt_pow_right (by decide) (by omega)
  have hdvd : 2 ^ (w - (m + 1)) ∣ n := (Nat.pow_dvd_pow 2 (by omega)).trans hn
  unfold revStep
  split
  next hset =>
    refine ⟨(Nat.dvd_add_right hdvd).2 (Nat.pow_dvd_pow 2 (by omega)), ?_⟩
    obtain ⟨q, rfl⟩ := hn
    rw [Nat.two_pow_add_eq_or_of_lt hlow, Nat.testBit_or, Nat.testBit_two_pow, hset]
    simp [eq_comm]
  next hclear => simp [hdvd, hclear]

/-- R119: once the m lowest bits are mirrored, they stand highest. -/
theorem testBit_revSteps {w m : Nat} (hm : m ≤ w) (a : Word) (k : Nat) :
    2 ^ (w - m) ∣ (List.range m).foldl (revStep w a) 0 ∧
      ((List.range m).foldl (revStep w a) 0).testBit k = (decide (w - m ≤ k ∧ k < w) && a.getLsbD (w - 1 - k)) := by
  induction m with
  | zero => exact ⟨Nat.dvd_zero _, by simp⟩
  | succ m ih =>
    obtain ⟨hdvd, hbit⟩ := ih (by omega)
    rw [List.range_succ, List.foldl_append]
    obtain ⟨hdvd', hbit'⟩ := testBit_revStep hm a hdvd k
    refine ⟨hdvd', hbit'.trans ?_⟩
    rw [hbit]
    by_cases hk : k = w - 1 - m
    · subst hk
      have hnew : w - (m + 1) ≤ w - 1 - m ∧ w - 1 - m < w := by omega
      simp [hnew, show ¬ w - m ≤ w - 1 - m by omega, show w - 1 - (w - 1 - m) = m by omega]
    · have hrange : (w - m ≤ k ∧ k < w) = (w - (m + 1) ≤ k ∧ k < w) := propext (by omega)
      simp only [hk, hrange, decide_false, Bool.false_and, Bool.or_false]

/-- R119: `brev` mirrors the low w bits. -/
theorem getLsbD_revBits {w k : Nat} (hw : w ≤ 64) (hk : k < w) (a : Word) :
    (BitVec.ofNat 64 (revBits w a)).getLsbD k = a.getLsbD (w - 1 - k) := by
  rw [BitVec.getLsbD_ofNat, revBits_eq, (testBit_revSteps (le_refl w) a k).2]
  simp [hk, show k < 64 by omega]

/-- R119: `bfi` takes a field from b and the rest from a. -/
theorem getLsbD_insertField {pos len k : Nat} (hk : k < 64) (a b : Word) : (insertField pos len a b).getLsbD k =
    if pos ≤ k ∧ k < pos + len then b.getLsbD (k - pos) else a.getLsbD k := by
  simp only [insertField, BitVec.getLsbD_or, BitVec.getLsbD_and, BitVec.getLsbD_not, BitVec.getLsbD_ofNat, Nat.testBit_mul_two_pow,
    Nat.testBit_two_pow_sub_one, Nat.testBit_mod_two_pow, hk, decide_true, Bool.true_and]
  by_cases hfield : pos ≤ k ∧ k < pos + len
  · simp [hfield, show k - pos < len by omega, BitVec.testBit_toNat]
  · have hout : (decide (pos ≤ k) && decide (k - pos < len)) = false := by simp; omega
    rw [if_neg hfield, ← Bool.and_assoc, hout, Bool.not_false, Bool.and_true, Bool.false_and, Bool.or_false]

/-- R119: an unsigned `bfx` is the field, right-aligned. -/
theorem getLsbD_fieldOf_unsigned {t : Ty} (ht : tySigned t = false) {pos len k : Nat} (hk : k < 64) (a : Word) :
    (fieldOf t pos len a).getLsbD k = (decide (k < len) && a.getLsbD (pos + k)) := by
  simp only [fieldOf, ht, Bool.false_and, Bool.false_eq_true, if_false, BitVec.getLsbD_ofNat, hk, decide_true, Bool.true_and,
    Nat.testBit_mod_two_pow, Nat.testBit_div_two_pow, BitVec.testBit_toNat, Nat.add_comm]

end Sys2Proof.Machine

/-- Settles O2: the operations act on the low bits of numbers, and what SAT holds within the range is read back. -/
theorem integerResultsWrapOrSaturate : Obligations.IntegerResultsWrapOrSaturate := by
  intro t a b ht
  refine ⟨intWrap_eq_atWidth BitVec.ofInt_add BitVec.ofInt_add t a b, intWrap_eq_atWidth (ofInt_sub 32) (ofInt_sub 64) t a b,
    intWrap_eq_atWidth BitVec.ofInt_mul BitVec.ofInt_mul t a b, fun m v hsat hclamp => ?_⟩
  have hle := intMin_le_intMax ht
  have hfinish : intFinish t (some m) v = intWrap t (min (max v (intMin t)) (intMax t)) := by
    simp [intFinish, hsat, hclamp, intClamp, between]
  rw [hfinish, intVal_intWrap ht (le_min (le_max_right ..) hle) (min_le_right ..)]
  split
  · omega
  · split <;> omega

/-- Settles O4: each operation bit by bit. -/
theorem bitFieldsAreFields : Obligations.BitFieldsAreFields := fun _ _ _ _ a b hw _ hk =>
  ⟨fun hkw => getLsbD_revBits hw hkw a, getLsbD_insertField hk a b, getLsbD_fieldOf_unsigned rfl hk a⟩

end

section
/-! PROOF. The integer, shift, logic and bit-field forms, and `nop` (spec/05 R109 to R121): what each operation delivers, and what
its rule gives; O1 and O3. -/

open Sys2Proof
open Sys2Proof.Machine

namespace Sys2Proof.Machine

/-! ## Issues (R82, R83) -/

/-- R82: what an assigned encoding passes of its checks on its type, its destination and its own fields. -/
theorem formOk_checks {g : FormSpec} {i : Instr} {f : Form} (h : formOk g i f = true) :
    (if g.tys.isEmpty then f.ty == .empty else g.tys.contains f.ty) = true ∧ destOk g f = true ∧ extraOk g i f = true := by
  simp only [formOk, Bool.and_eq_true] at h
  obtain ⟨⟨⟨⟨⟨⟨⟨⟨⟨⟨hty, -⟩, -⟩, -⟩, -⟩, -⟩, hdest⟩, -⟩, -⟩, -⟩, hextra⟩ := h
  exact ⟨hty, hdest, hextra⟩

/-- R82: the type of an issue is among those of its form. -/
theorem Issues.ty_mem {s : State} {i : Instr} {x : Iss} (h : Issues s i x) {g : FormSpec} (hg : formSpec i = some g)
    (htys : g.tys ≠ []) : x.f.ty ∈ g.tys := by
  obtain rfl : g = x.g := Option.some.inj (hg.symm.trans h.spec)
  obtain ⟨hty, -, -⟩ := formOk_checks h.encoded
  rwa [if_neg (by simpa using htys), List.contains_iff_mem] at hty

/-! ## Results (R72, R110) -/

theorem fit_fit (t : Ty) (x : Word) : fit t (fit t x) = fit t x := by
  unfold fit
  split <;> simp

theorem fit_n32 (x : Word) : fit .n32 x = (x.setWidth 32).setWidth 64 := rfl

theorem fit_n32_fit (t : Ty) (x : Word) : fit .n32 (fit t x) = fit .n32 x := by
  rw [fit_n32, fit_n32, fit]
  split <;> simp

/-- R110: a result is cut to its tag's width as it is delivered. -/
theorem Iss.entry_congr {x : Iss} {t : Ty} {a b : Word} (h : fit t a = fit t b) (lat : Nat) :
    x.entry lat (a, t) = x.entry lat (b, t) := by
  simp only [Iss.entry, h]

/-- R68: only the entries that the results make in the active lanes matter. -/
theorem Iss.delivered_congr {x : Iss} {lat : Nat} {tags : List Ty} {res res' : Nat → List (Word × Ty)}
    (h : ∀ l, (res l).map (x.entry lat) = (res' l).map (x.entry lat)) : x.delivered lat tags res = x.delivered lat tags res' :=
  Iss.deliver_congr fun l _ => h l

/-- R68, R110: a form that computes one result in each lane delivers it, cut to its tag's width. -/
theorem Iss.laneOp_delivers {x : Iss} {accs : List (List Ty)} {lat : Nat} {t : Ty} {val res : Nat → Word}
    {compute : Iss → Nat → List (Word × Ty) → List (Word × Ty)} (h : x.Readable x.active accs)
    (hcompute : ∀ l, compute x l (x.vals l) = [(val l, t)]) (hres : ∀ l, fit t (val l) = fit t (res l)) :
    x.laneOp accs lat [t] compute = (x.delivered lat [t] (fun l => [(res l, t)])).done := by
  rw [Iss.laneOp_ready h, Iss.delivered_congr fun l => ?_]
  rw [hcompute, List.map_singleton, List.map_singleton, Iss.entry_congr (hres l)]

/-! ## Integer arithmetic (R113, R114) -/

theorem exactForms_exec (f : Form) : ∀ e ∈ exactForms f.ty f, formOf e.1 = some f ∧
    ∃ lat : Ty → Nat, (∀ s, exec e.1 s = s.issue e.1 (intOp lat e.2.1)) ∧ lat f.ty = e.2.2 := by
  simp only [exactForms, List.forall_mem_cons]
  refine ⟨?_, ?_, ?_, ?_, ?_, ?_, ?_, ?_, by simp⟩ <;> exact ⟨rfl, _, fun _ => rfl, rfl⟩

theorem integerFormsDeliver : Claims.IntegerFormsDeliver := by
  intro s i f x op lat hmem h hr
  obtain ⟨hform, latT, hexec, rfl⟩ := exactForms_exec f _ hmem
  obtain rfl := h.form_eq hform
  refine Answers.of_eq h (hexec s) ?_
  rw [intOp, Iss.laneOp_ready hr]

/-- R114: all ones, at the width of a type. -/
theorem intWrap_neg_one (t : Ty) : intWrap t (-1) = fit t (BitVec.allOnes 64) := by
  unfold intWrap fit
  split <;> decide

/-- R114: what `idiv` and `irem` deliver once their operands can be read. -/
theorem divOp_ready {x : Iss} (h : x.Readable x.active (List.replicate 2 (intTags x.f.ty))) (rem : Bool) :
    divOp rem x = ((x.intFlag x.dividesByZero).delivered (latD x.f.ty) [x.f.ty] (fun l => [(x.quotient rem l, x.f.ty)])).done := by
  rw [divOp, Iss.gated_ready h, Iss.delivered, Iss.pop_intFlag]
  refine congrArg Iss.done (Iss.deliver_congr fun l _ => ?_)
  simp only [intWrap_neg_one]
  rfl

theorem divisionNeverTraps : Claims.DivisionNeverTraps := by
  intro s f x rem h hr
  refine Answers.of_eq h (k := divOp rem) ?_ (divOp_ready hr rem)
  cases rem <;> rfl

/-! ## Carries and addresses (R115, R116) -/

theorem natVal_lt {t : Ty} (ht : tyWidth t = 32 ∨ tyWidth t = 64) (x : Word) : natVal t x < 2 ^ tyWidth t := by
  obtain hw | hw := ht
  · rw [natVal, hw]
    exact (x.setWidth 32).isLt
  · rw [natVal, hw]
    exact x.isLt

/-- R115: the carry of a sum of two w-bit numbers and a bit. -/
theorem carry_eq {w a b c : Nat} (ha : a < 2 ^ w) (hb : b < 2 ^ w) (hc : c < 2) :
    BitVec.ofNat 64 ((a + b + c) / 2 ^ w) = if 2 ^ w ≤ a + b + c then 1 else 0 := by
  split
  next hcarry =>
    have hone : (a + b + c) / 2 ^ w = 1 := Nat.div_eq_of_lt_le (by omega) (by omega)
    rw [hone]
    rfl
  next hsmall =>
    rw [Nat.div_eq_of_lt (by omega)]
    rfl

theorem tysInt_width : ∀ t ∈ tysInt, tyWidth t = 32 ∨ tyWidth t = 64 := by decide

/-- R116: an address and a scaled offset, in 57 bits. -/
theorem ofInt_scaled (a : Word) (b : Int) (n : Nat) : BitVec.ofInt 57 (Int.ofNat a.toNat + b * 2 ^ n) =
    a.setWidth 57 + BitVec.ofInt 57 b <<< n := by
  have hpow : BitVec.ofInt 57 (2 ^ n) = BitVec.twoPow 57 n := by
    rw [show (2 : Int) ^ n = ((2 ^ n : Nat) : Int) by simp, BitVec.ofInt_natCast]
    exact BitVec.eq_of_toNat_eq (by simp)
  rw [BitVec.ofInt_add, BitVec.ofInt_mul, hpow, BitVec.mul_twoPow_eq_shiftLeft, ← BitVec.ofNat_toNat]
  rfl

theorem carryAndAddressForms : Claims.CarryAndAddressForms := by
  refine ⟨fun s f x h hr => ?_, fun s f x h hr => ?_⟩
  · have hw := tysInt_width _ (h.ty_mem rfl (by decide))
    refine Answers.of_eq h (k := addcOp) rfl ?_
    simp only [addcOp, Iss.laneOp_ready hr, carry_eq (natVal_lt hw _) (natVal_lt hw _) (Nat.mod_lt _ (by decide : 2 > 0))]
  · refine Answers.of_eq h (k := leaOp) rfl ?_
    rw [leaOp, Iss.laneOp_ready hr]
    refine congrArg Iss.done (Iss.delivered_congr fun l => congrArg (List.map _) ?_)
    exact congrArg (fun a : VAddr => [(a.setWidth 64, Ty.ptr)]) (ofInt_scaled ..)

/-! ## Shifts (R117) -/

theorem shlBits_toNat {w : Nat} (a : BitVec w) (n : Nat) : shlBits w a.toNat n = (a <<< n).toNat := by
  rw [BitVec.toNat_shiftLeft, Nat.shiftLeft_eq, shlBits]
  split
  next => rfl
  next hn => rw [Nat.mod_eq_zero_of_dvd ((Nat.pow_dvd_pow 2 (by omega)).trans (Nat.dvd_mul_left ..))]

theorem shrBits_toNat {w : Nat} (a : BitVec w) (n : Nat) : shrBits w a.toNat n = (a >>> n).toNat := by
  rw [BitVec.toNat_ushiftRight, Nat.shiftRight_eq_div_pow, shrBits]
  split
  next => rfl
  next hn => rw [Nat.div_eq_of_lt (a.isLt.trans_le (Nat.pow_le_pow_right (by decide) (by omega)))]

/-- A number that w − 1 bits hold, shifted right past them all, is 0 however far. -/
theorem div_two_pow_min {w c : Nat} (hc : c < 2 ^ (w - 1)) (n : Nat) : c / 2 ^ min n (w - 1) = c / 2 ^ n := by
  by_cases hn : n ≤ w - 1
  · rw [min_eq_left hn]
  · rw [min_eq_right (by omega), Nat.div_eq_of_lt hc,
      Nat.div_eq_of_lt (hc.trans (Nat.pow_lt_pow_right (by decide) (by omega)))]

theorem sarBits_toNat {w : Nat} (hw : 0 < w) (a : BitVec w) (n : Nat) : sarBits w a.toNat n = (a.sshiftRight n).toNat := by
  have hhalf : 2 ^ w = 2 ^ (w - 1) + 2 ^ (w - 1) := (Nat.two_pow_pred_add_two_pow_pred hw).symm
  have ha := a.isLt
  rw [BitVec.toNat_sshiftRight, BitVec.msb_eq_decide, sarBits]
  by_cases hmsb : a.toNat < 2 ^ (w - 1)
  · simp only [hmsb, if_true, show ¬ 2 ^ (w - 1) ≤ a.toNat by omega, decide_false, Bool.false_eq_true, if_false,
      Nat.shiftRight_eq_div_pow, div_two_pow_min hmsb]
  · have hc : 2 ^ w - 1 - a.toNat < 2 ^ (w - 1) := by omega
    simp only [hmsb, if_false, show 2 ^ (w - 1) ≤ a.toNat by omega, decide_true, if_true, Nat.shiftRight_eq_div_pow]
    rw [← div_two_pow_min hc]
    have hk : min n (w - 1) ≤ w - 1 := min_le_right ..
    generalize min n (w - 1) = k at hk ⊢
    generalize hdef : 2 ^ w - 1 - a.toNat = c at hc ⊢
    have hsplit : 2 ^ k * 2 ^ (w - k) = 2 ^ w := by rw [← Nat.pow_add]; congr 1; omega
    have hdiv : a.toNat / 2 ^ k = 2 ^ (w - k) - (c / 2 ^ k + 1) := by
      rw [← Nat.mul_sub_div c (2 ^ k) (2 ^ (w - k)) (by omega), hsplit]
      congr 1
      omega
    have hlt : c / 2 ^ k < 2 ^ (w - k) := Nat.div_lt_of_lt_mul (by omega)
    have hle : 2 ^ (w - k) ≤ 2 ^ w := Nat.pow_le_pow_right (by decide) (by omega)
    omega

theorem rotlBits_toNat {w : Nat} (hw : 0 < w) (a : BitVec w) (n : Nat) :
    rotlBits w a.toNat n = (a.rotateLeft (n % w)).toNat := by
  have hk : n % w < w := Nat.mod_lt _ hw
  rw [BitVec.toNat_rotateLeft, Nat.mod_mod, rotlBits, Nat.shiftLeft_eq, Nat.shiftRight_eq_div_pow]
  generalize n % w = k at hk ⊢
  have hsplit : 2 ^ w = 2 ^ k * 2 ^ (w - k) := by rw [← Nat.pow_add]; congr 1; omega
  have hlow : a.toNat / 2 ^ (w - k) < 2 ^ k := Nat.div_lt_of_lt_mul (by rw [Nat.mul_comm, ← hsplit]; exact a.isLt)
  have hhigh : a.toNat * 2 ^ k % 2 ^ w = 2 ^ k * (a.toNat % 2 ^ (w - k)) := by
    rw [hsplit, Nat.mul_comm a.toNat, Nat.mul_mod_mul_left]
  rw [hhigh, Nat.two_pow_add_eq_or_of_lt hlow]

/-- R117: the types a shift accepts, and the shift of words that its operation makes. -/
theorem shiftForms_exec (f : Form) : ∀ e ∈ shiftForms f, (∃ g, formSpec e.1 = some g ∧ g.tys = tysIntRaw) ∧
    ∃ sh, (∀ s, exec e.1 s = s.issue e.1 (shiftOp sh)) ∧
      ∀ (w : Nat) (a : BitVec w) (n : Nat), 0 < w → sh w a.toNat n = (e.2 w a n).toNat := by
  simp only [shiftForms, List.forall_mem_cons]
  refine ⟨⟨⟨_, rfl, rfl⟩, _, fun _ => rfl, fun w a n hw => ?shl⟩, ⟨⟨_, rfl, rfl⟩, _, fun _ => rfl, fun w a n hw => ?shr⟩,
    ⟨⟨_, rfl, rfl⟩, _, fun _ => rfl, fun w a n hw => ?sar⟩, ⟨⟨_, rfl, rfl⟩, _, fun _ => rfl, fun w a n hw => ?rotl⟩, by simp⟩
  case shl => exact shlBits_toNat a n
  case shr => exact shrBits_toNat a n
  case sar => exact sarBits_toNat hw a n
  case rotl => exact rotlBits_toNat hw a n

theorem tysIntRaw_width : ∀ t ∈ tysIntRaw, tyWidth t = 32 ∨ tyWidth t = 64 := by decide

/-- R117: a shift of numbers, as the shift of words of its width. -/
theorem shift_word {t : Ty} (ht : tyWidth t = 32 ∨ tyWidth t = 64) {sh : Nat → Nat → Nat → Nat}
    {op : (w : Nat) → BitVec w → Nat → BitVec w}
    (hsh : ∀ (w : Nat) (a : BitVec w) (n : Nat), 0 < w → sh w a.toNat n = (op w a n).toNat) (a : Word) (n : Nat) :
    BitVec.ofNat 64 (sh (tyWidth t) (natVal t a) n) =
      if tyWidth t = 32 then (op 32 (a.setWidth 32) n).setWidth 64 else op 64 a n := by
  obtain hw | hw := ht
  · rw [natVal, if_pos hw, if_pos hw, hw, hsh 32 _ n (by decide), BitVec.ofNat_toNat]
  · have hne : tyWidth t ≠ 32 := by omega
    rw [natVal, if_neg hne, if_neg hne, hw, hsh 64 _ n (by decide), BitVec.ofNat_toNat, BitVec.setWidth_eq]

theorem shiftsDeliver : Claims.ShiftsDeliver := by
  intro s i f x op hmem h hr
  obtain ⟨⟨g, hg, htys⟩, sh, hexec, hsh⟩ := shiftForms_exec f _ hmem
  have hw := tysIntRaw_width _ (htys ▸ h.ty_mem hg (htys ▸ by decide))
  refine Answers.of_eq h (hexec s) ?_
  simp only [shiftOp, Iss.laneOp_ready hr, shift_word hw hsh]

/-! ## Logic and bit fields (R118 to R121) -/

theorem bitForms_exec (f : Form) : ∀ e ∈ bitForms f.ty f, formOf e.1 = some f ∧
    ∃ tag op, (∀ s, exec e.1 s = s.issue e.1 (bitOp tag op)) ∧ tag f.ty = e.2.2 ∧
      ∀ a b c, fit e.2.2 (fit f.ty (op (tyWidth f.ty) a b c)) = fit e.2.2 (e.2.1 a b) := by
  simp only [bitForms, List.forall_mem_cons]
  refine ⟨?and, ?or, ?xor, ?andn, ?not, ?popc, ?clz, ?ctz, ?brev, ?bfx, ?bfi, by simp⟩
  case and | or | xor | andn | brev | bfx => exact ⟨rfl, _, _, fun _ => rfl, rfl, fun _ _ _ => fit_fit ..⟩
  case popc | clz | ctz => exact ⟨rfl, _, _, fun _ => rfl, rfl, fun _ _ _ => fit_n32_fit ..⟩
  case not | bfi => exact ⟨rfl, _, _, fun _ => rfl, rfl, fun _ _ _ => rfl⟩

theorem logicAndFieldFormsDeliver : Claims.LogicAndFieldFormsDeliver := by
  refine ⟨fun s i f x op tag hmem h hr => ?_, fun s f x h hr => ?_⟩
  · obtain ⟨hform, tagT, opW, hexec, rfl, hop⟩ := bitForms_exec f _ hmem
    obtain rfl := h.form_eq hform
    refine Answers.of_eq h (hexec s) ?_
    rw [bitOp, Iss.laneOp_delivers hr (fun _ => rfl) fun _ => hop ..]
  · refine Answers.of_eq h (k := permOp) rfl ?_
    rw [permOp, Iss.laneOp_ready hr]

end Sys2Proof.Machine

/-- Settles O1: `nop` does nothing but retire. -/
theorem nopOnlyAdvances : Obligations.NopOnlyAdvances := fun _ _ _ h => Answers.of_issue h (k := nopOp) rfl

/-- Settles O3: each form by its shared operation, with the words of its rule in place of the operation's numbers. -/
theorem integerFormsComplete : Obligations.IntegerFormsComplete :=
  ⟨integerFormsDeliver, divisionNeverTraps, carryAndAddressForms, shiftsDeliver, logicAndFieldFormsDeliver⟩

end

section
/-! PROOF. Comparisons, predicate forms and votes (spec/05 R122, R124, R125, R139): the conditions on numbers are those on words,
and each form writes its predicate; O5. -/

open Sys2Proof
open Sys2Proof.Machine

namespace Sys2Proof.Machine

/-! ## Conditions (R122) -/

theorem intVal_fit (t : Ty) (x : Word) : intVal t (fit t x) = intVal t x := by
  by_cases h : tyWidth t = 32
  · simp only [intVal, fit, if_pos h, BitVec.setWidth_setWidth_of_le _ (by decide : 32 ≤ 64), BitVec.setWidth_eq]
  · rw [fit, if_neg h]

theorem intVal_inj {t : Ty} {a b : Word} : intVal t a = intVal t b ↔ fit t a = fit t b :=
  ⟨fun h => by rw [← intWrap_intVal, h, intWrap_intVal], fun h => by rw [← intVal_fit, h, intVal_fit]⟩

/-- R122: a word below another, at the width and with the sign of a type. -/
def wordLt (t : Ty) (a b : Word) : Bool :=
  if tyWidth t = 32 then
    (if tySigned t then (a.setWidth 32).slt (b.setWidth 32) else (a.setWidth 32).ult (b.setWidth 32))
  else if tySigned t then a.slt b else a.ult b

theorem intVal_lt (t : Ty) (a b : Word) : decide (intVal t a < intVal t b) = wordLt t a b := by
  unfold intVal wordLt
  by_cases hw : tyWidth t = 32 <;> by_cases hs : tySigned t = true <;>
    simp only [hw, hs, Bool.false_eq_true, if_true, if_false, BitVec.slt, BitVec.ult, Int.ofNat_eq_natCast, Int.ofNat_lt]

/-- R122: each condition on the numbers of two words is the one on the words. -/
theorem condHolds_intVal (t : Ty) (c : Cond) (a b : Word) : condHolds c (intVal t a) (intVal t b) = condBits t c a b := by
  have hle (x y : Word) : decide (intVal t x ≤ intVal t y) = !wordLt t y x := by
    rw [← intVal_lt, ← decide_not, decide_eq_decide, not_lt]
  cases c with
  | eq => simp only [condHolds, condBits, beq_eq_decide, intVal_inj]
  | ne => simp only [condHolds, condBits, bne, beq_eq_decide, intVal_inj]
  | lt => exact intVal_lt t a b
  | gt => exact intVal_lt t b a
  | le => exact hle a b
  | ge => exact hle b a

/-! ## Modified sources (R77) -/

/-- R77: the number source k of a form gives. -/
def sourceVal (f : Form) (k : Nat) (x : Word) : Int :=
  match f.modw with
  | none => intVal f.ty x
  | some m => match k with
    | 0 => intSource f.ty m.aa m.na x
    | 1 => intSource f.ty m.ab m.nb x
    | _ => intSource f.ty m.ac m.nc x

theorem intVal_zero (t : Ty) : intVal t 0 = 0 := by
  unfold intVal
  split <;> split <;> rfl

theorem intWrap_zero (t : Ty) : intWrap t 0 = 0 := by
  unfold intWrap
  split <;> rfl

theorem intSource_zero (t : Ty) (ab ng : Bool) : intSource t ab ng 0 = 0 := by
  simp only [intSource, intVal_zero, intWrap_zero, Int.natAbs_zero, Int.ofNat_eq_natCast, Nat.cast_zero, neg_zero, ite_self]

theorem sourceVal_zero (f : Form) (k : Nat) : sourceVal f k 0 = 0 := by
  unfold sourceVal
  split
  · exact intVal_zero _
  · split <;> exact intSource_zero ..

/-- R77: an operand of an integer form is the number its source gives; a missing one gives 0. -/
theorem arg_intSources (f : Form) (xs : List (Word × Ty)) (k : Nat) :
    arg (intSources f xs) k = sourceVal f k (opnd xs k) := by
  have hsources : intSources f xs = (enum xs).map (fun ix => sourceVal f ix.1 ix.2.1) := rfl
  rw [arg, hsources, opnd, List.getD_eq_getElem?_getD, List.getElem?_map, getElem?_enum, List.getD_eq_getElem?_getD]
  cases xs[k]? with
  | some x => rfl
  | none => exact (sourceVal_zero f k).symm

/-! ## Forms that write a predicate -/

theorem icmpOp_ready {x : Iss} (h : x.Readable x.active (List.replicate 2 (intTags x.f.ty))) (c : Cond) :
    icmpOp c x = (x.pop.setPred x.active x.f.pd latA (fun l =>
      condHolds c (sourceVal x.f 0 (opnd (x.vals l) 0)) (sourceVal x.f 1 (opnd (x.vals l) 1)))).done := by
  simp only [icmpOp, Iss.predOp_ready h, arg_intSources]

theorem comparisonsWritePredicates : Claims.ComparisonsWritePredicates := by
  refine ⟨fun s c f x h hm hr => ?_, fun s c f x m h hm hr => ?_, fun s f x h hr => ?_⟩
  · refine Answers.of_eq h (k := icmpOp c) rfl ?_
    simp only [icmpOp_ready hr, sourceVal, hm, condHolds_intVal]
  · refine Answers.of_eq h (k := icmpOp c) rfl ?_
    simp only [icmpOp_ready hr, sourceVal, hm]
  · refine Answers.of_eq h (k := ptestOp) rfl ?_
    rw [ptestOp, Iss.predOp_ready hr]

theorem votes_eq (x : Iss) : votes x = x.active.filter x.predA := rfl

theorem votes_all (x : Iss) : ((votes x).length == x.active.length) = x.active.all x.predA := by
  rw [votes_eq, Bool.eq_iff_iff, beq_iff_eq, List.length_filter_eq_length_iff, List.all_eq_true]

theorem votes_any (x : Iss) : (!(votes x).isEmpty) = x.active.any x.predA := by
  rw [votes_eq, Bool.eq_iff_iff]
  simp

/-- R83, R110: a form that waits for its predicates, and then writes one. -/
theorem Iss.predGate_predOp_ready {x : Iss} {ks : List Nat} (hp : x.PredsReady ks) (hr : x.Readable x.active [])
    (compute : Iss → Nat → List (Word × Ty) → Bool) : x.predGate ks (fun y => y.predOp [] latA compute) =
      (x.pop.setPred x.active x.f.pd latA (fun l => compute x l (x.vals l))).done := by
  rw [Iss.predGate_ready hp, Iss.predOp_ready hr]

/-- Form `f`, which the instruction carries, writes a predicate once the predicates and the guard it reads are there. -/
def WritesPred (x : Iss) (f : Form) (e : Instr × List Nat × (Nat → Bool)) : Prop :=
  formOf e.1 = some f ∧ ∃ k : Iss → Work, (∀ s, exec e.1 s = s.issue e.1 k) ∧
    (x.f = f → x.PredsReady e.2.1 → x.Readable x.active [] → k x = (x.pop.setPred x.active x.f.pd latA e.2.2).done)

theorem predicateForms_write (x : Iss) (f : Form) : ∀ e ∈ predicateForms x f, WritesPred x f e := by
  simp only [predicateForms, List.forall_mem_cons]
  refine ⟨?pand, ?por, ?pxor, ?pnot, ?pmov, ?voteAll, ?voteAny, by simp⟩
  case pand | por | pxor | pnot | pmov =>
    refine ⟨rfl, _, fun _ => rfl, ?_⟩
    rintro rfl hp hr
    exact Iss.predGate_predOp_ready hp hr _
  case voteAll =>
    refine ⟨rfl, _, fun _ => rfl, ?_⟩
    rintro rfl hp hr
    rw [voteOp, Iss.predGate_predOp_ready hp hr]
    simp only [votes_all]
  case voteAny =>
    refine ⟨rfl, _, fun _ => rfl, ?_⟩
    rintro rfl hp hr
    rw [voteOp, Iss.predGate_predOp_ready hp hr]
    simp only [votes_any]

theorem predicateFormsWrite : Claims.PredicateFormsWrite := by
  intro s i f x ks val hmem h hp hr
  obtain ⟨hform, k, hexec, hk⟩ := predicateForms_write x f _ hmem
  exact Answers.of_eq h (hexec s) (hk (h.form_eq hform) hp hr)

end Sys2Proof.Machine

/-- Settles O5: the comparisons by their conditions on words, the predicate forms and votes by their table. -/
theorem predicateFormsComplete : Obligations.PredicateFormsComplete := ⟨comparisonsWritePredicates, predicateFormsWrite⟩

end

section
/-! PROOF. Moves and lane forms (spec/05 R123, R128, R135, R137 to R143), and the sums that integer reductions and scans make;
O10 and O11. -/

open Sys2Proof
open Sys2Proof.Machine

namespace Sys2Proof.Machine

/-! ## Moves (R123, R128, R135) -/

/-- Form `f`, which the instruction carries, moves a value in each lane once its predicate and its sources can be read. -/
def Moves (x : Iss) (f : Form) (e : Instr × List (List Ty) × (Nat → Word × Ty)) : Prop :=
  formOf e.1 = some f ∧ ∃ k : Iss → Work, (∀ s, exec e.1 s = s.issue e.1 k) ∧
    (x.f = f → (e.1 = .sel f → x.PredsReady [bits x.f.x13 0 3]) → x.Readable x.active e.2.1 →
      k x = (x.delivered latA [x.f.ty] (fun l => [e.2.2 l])).done)

theorem selOp_ready {x : Iss} (hp : x.PredsReady [bits x.f.x13 0 3])
    (hr : x.Readable x.active (if x.f.ty = .raw then [] else [[x.f.ty], [x.f.ty]])) :
    selOp x = (x.delivered latA [x.f.ty] (fun l =>
      let s := selSources x.f (x.vals l)
      let own (k : Nat) := if x.f.ty = .raw then opndTag (x.vals l) k else x.f.ty
      [if x.predA l then (s.1, own 0) else (s.2, own 1)])).done := by
  have hpred (l : Nat) : namedPred (x.v.lane l) (bits x.f.x13 0 3) (x.f.x13.getLsbD 3) = x.predA l := rfl
  rw [selOp, Iss.predGate_ready hp, Iss.laneOp_ready hr]
  congr 2
  funext l
  simp only [hpred]
  cases x.predA l <;> rfl

theorem movedForms_move (x : Iss) (f : Form) : ∀ e ∈ movedForms x f, Moves x f e := by
  simp only [movedForms, List.forall_mem_cons]
  refine ⟨?sel, ?mov, ?retag, by simp⟩
  case sel =>
    refine ⟨rfl, selOp, fun _ => rfl, ?_⟩
    rintro rfl hp hr
    exact selOp_ready (hp rfl) hr
  case mov =>
    refine ⟨rfl, movOp, fun _ => rfl, ?_⟩
    rintro rfl - hr
    rw [movOp, Iss.laneOp_ready hr]
  case retag =>
    refine ⟨rfl, retagOp, fun _ => rfl, ?_⟩
    rintro rfl - hr
    rw [retagOp, Iss.laneOp_ready hr]

theorem movesDeliver : Claims.MovesDeliver := by
  intro s i f x accs res hmem h hp hr
  obtain ⟨hform, k, hexec, hk⟩ := movedForms_move x f _ hmem
  exact Answers.of_eq h (hexec s) (hk (h.form_eq hform) hp hr)

/-! ## Values moved between lanes (R137, R138) -/

/-- R137: the lane a shuffle names, where it names one at all. -/
theorem shuffleForms_exec (f : Form) : ∀ e ∈ shuffleForms f, ∃ from_ : Nat → Nat → Option Nat,
    (∀ s, exec e.1 s = s.issue e.1 (shflOp from_)) ∧
      ∀ l b, from_ l b = if 0 ≤ e.2 l b then some (e.2 l b).toNat else none := by
  simp only [shuffleForms, List.forall_mem_cons]
  refine ⟨⟨_, fun _ => rfl, fun l b => ?idx⟩, ⟨_, fun _ => rfl, fun l b => ?up⟩, ⟨_, fun _ => rfl, fun l b => ?down⟩,
    ⟨_, fun _ => rfl, fun l b => ?xor⟩, by simp⟩
  case idx => exact (if_pos (Int.natCast_nonneg _)).symm
  case up =>
    by_cases hb : b ≤ l
    · rw [if_pos hb, if_pos (by omega)]
      congr 1
      omega
    · rw [if_neg hb, if_neg (by omega)]
  case down =>
    rw [if_pos (by omega)]
    congr 1
  case xor => exact (if_pos (Int.natCast_nonneg _)).symm

theorem takenFrom_eq (x : Iss) (k : Nat) : x.takenFrom k = moved x.f.ty (x.vals k) := rfl

/-- R137: what a shuffle delivers once its operands can be read. -/
theorem shflOp_ready {x : Iss} {from_ : Nat → Nat → Option Nat} {src : Nat → Nat → Int}
    (hfrom : ∀ l b, from_ l b = if 0 ≤ src l b then some (src l b).toNat else none) (h : x.Readable x.active (moveAccepts x)) :
    shflOp from_ x = (x.delivered latShfl [x.f.ty] (fun l =>
      let k := src l (bits (opnd (x.vals l) 1) 0 32)
      [x.takenFrom (if 0 ≤ k ∧ x.active.contains k.toNat then k.toNat else l)])).done := by
  rw [shflOp, Iss.laneOp_ready (accs := [moveTags x.f.ty, laneTags]) h]
  congr 2
  funext l
  dsimp only
  rw [hfrom, show laneIndex (x.vals l) = bits (opnd (x.vals l) 1) 0 32 from rfl]
  generalize src l (bits (opnd (x.vals l) 1) 0 32) = k
  rw [takenFrom_eq]
  by_cases hk : 0 ≤ k
  · by_cases hact : x.active.contains k.toNat = true
    · simp only [if_pos hk, if_pos hact, if_pos (And.intro hk hact)]
    · simp only [if_pos hk, if_neg hact, if_neg (mt And.right hact)]
  · simp only [if_neg hk, if_neg (mt And.left hk)]

/-- R138: five bits name a lane. -/
theorem laneIndex_mod (xs : List (Word × Ty)) : laneIndex xs % 32 = bits (opnd xs 1) 0 5 := by
  simp [laneIndex, bits, Nat.mod_mod_of_dvd _ (by decide : 32 ∣ 4294967296)]

/-- R138: what a broadcast delivers once its operands can be read. -/
theorem bcastOp_ready {x : Iss} (h : x.Readable x.active (moveAccepts x)) :
    bcastOp x = (x.delivered latShfl [x.f.ty] (fun _ =>
      let low := x.active.headD 0
      let k := bits (opnd (x.vals low) 1) 0 5
      [x.takenFrom (if x.active.contains k then k else low)])).done := by
  rw [bcastOp, Iss.laneOp_ready (accs := [moveTags x.f.ty, laneTags]) h]
  simp only [laneIndex_mod, takenFrom_eq]

theorem laneMovesDeliver : Claims.LaneMovesDeliver := by
  refine ⟨fun s i f x src hmem h hr => ?_, fun s f x h hr => Answers.of_eq h (k := bcastOp) rfl (bcastOp_ready hr)⟩
  obtain ⟨from_, hexec, hfrom⟩ := shuffleForms_exec f _ hmem
  exact Answers.of_eq h (hexec s) (shflOp_ready hfrom hr)

/-! ## Sets of lanes (R139, R140) -/

theorem getLsbD_maskOf (ls : List Nat) {j : Nat} (hj : j < 32) : (maskOf ls).getLsbD j = ls.contains j := by
  unfold maskOf
  induction ls using List.reverseRecOn with
  | nil => simp
  | append_singleton ls l ih =>
    rw [List.foldl_append, List.foldl_cons, List.foldl_nil, BitVec.getLsbD_or, ih, BitVec.getLsbD_ofNat, Nat.testBit_two_pow]
    simp [hj, eq_comm]

/-- R139, R140: the set of the active lanes in which something holds. -/
theorem getLsbD_maskOf_filter (ls : List Nat) (p : Nat → Bool) {j : Nat} (hj : j < 32) :
    (maskOf (ls.filter p)).getLsbD j = (ls.contains j && p j) := by
  rw [getLsbD_maskOf _ hj, Bool.eq_iff_iff]
  simp

theorem laneSetsDeliver : Claims.LaneSetsDeliver := by
  refine ⟨fun s f x h hp hr => ⟨maskOf (votes x), fun j hj => getLsbD_maskOf_filter _ _ hj, ?_⟩,
    fun s f x h hr => ⟨fun l => maskOf (x.active.filter (fun j => x.vals j == x.vals l)), fun l j hj => ?_, ?_⟩⟩
  · refine Answers.of_eq h (k := ballotOp) rfl ?_
    rw [ballotOp, Iss.predGate_ready hp, Iss.laneOp_ready hr]
  · rw [getLsbD_maskOf_filter _ _ hj, beq_eq_decide]
  · refine Answers.of_eq h (k := matchOp) rfl ?_
    rw [matchOp, Iss.laneOp_ready (accs := [moveTags x.f.ty]) hr]

/-! ## Reductions and scans (R141 to R143) -/

/-- R154, R155: a form whose meaning is a float operation with what `g` needs and gives completes as `g` says. -/
theorem FloatForm.completes_of_floatOp {g : FloatForm} {s : State} {i : Instr} {x : Iss} {k : Iss → Work}
    {compute : Iss → Nat → List (Word × Ty) → List (Word × Ty) × Fl} (h : Issues s i x) (hexec : exec i s = s.issue i k)
    (hop : k x = x.floatOp g.accs g.lat g.occ g.tags compute) (hout : ∀ l, g.out l = compute x l (x.vals l)) :
    g.completes s i x := by
  intro hr hflags
  refine Answers.of_eq h hexec ?_
  simp only [FloatForm.flags, hout] at hflags ⊢
  rw [hop, Iss.floatOp_ready hr hflags]

theorem reductionsDeliver : Claims.ReductionsDeliver :=
  ⟨fun _ o _ _ h => FloatForm.completes_of_floatOp h (k := wredOp o) rfl rfl fun _ => rfl,
    fun _ o ex _ _ h => FloatForm.completes_of_floatOp h (k := wscanOp o ex) rfl rfl fun _ => rfl⟩

end Sys2Proof.Machine

/-- Settles O10: each form by its shared operation, once its predicates and operands can be read. -/
theorem movesAndLaneFormsComplete : Obligations.MovesAndLaneFormsComplete :=
  ⟨movesDeliver, laneMovesDeliver, laneSetsDeliver, reductionsDeliver⟩

end

section
/-! PROOF. Integer reductions and scans as sums (spec/05 R141 to R143): each value on its way through the tree or the scan is the
wrapped sum of some active lanes; O11. -/

open Sys2Proof
open Sys2Proof.Machine

namespace Sys2Proof.Machine

/-! ## Partial sums -/

/-- R142: the wrapped sum of some lanes on its way through a reduction; none of no lane. -/
def Iss.partialSum (x : Iss) (ls : List Nat) : RedVal :=
  if ls = [] then none else some (intWrap x.f.ty (x.sumOver ls), flNone)

theorem Iss.partialSum_nil (x : Iss) : x.partialSum [] = none := rfl

theorem Iss.partialSum_of_ne_nil {x : Iss} {ls : List Nat} (h : ls ≠ []) :
    x.partialSum ls = some (intWrap x.f.ty (x.sumOver ls), flNone) := if_neg h

theorem Iss.sumOver_append (x : Iss) (ls ms : List Nat) : x.sumOver (ls ++ ms) = x.sumOver ls + x.sumOver ms := by
  simp [Iss.sumOver]

/-! ## Lists of lanes -/

/-- Lists joined in pairs, as a level of the tree pairs its values. -/
def joinPairs : List (List Nat) → List (List Nat)
  | [] => []
  | [a] => [a]
  | a :: b :: r => (a ++ b) :: joinPairs r

theorem flatten_joinPairs (lss : List (List Nat)) : (joinPairs lss).flatten = lss.flatten := by
  induction lss using joinPairs.induct with
  | case1 => rfl
  | case2 a => rfl
  | case3 a b r ih => simp [joinPairs, ih]

theorem length_joinPairs (lss : List (List Nat)) : (joinPairs lss).length = (lss.length + 1) / 2 := by
  induction lss using joinPairs.induct with
  | case1 => rfl
  | case2 a => simp [joinPairs]
  | case3 a b r ih =>
    simp only [joinPairs, List.length_cons, ih]
    omega

theorem flatten_map_filter_singleton (p : Nat → Bool) (ls : List Nat) :
    (ls.map (fun l => [l].filter p)).flatten = ls.filter p := by
  induction ls with
  | nil => rfl
  | cons l ls ih => rw [List.map_cons, List.flatten_cons, ih, ← List.filter_append, List.singleton_append]

/-- The active lanes from `lo` up, below `hi`. -/
def Iss.activeIn (x : Iss) (lo hi : Nat) : List Nat := (List.range' lo (hi - lo)).filter x.active.contains

theorem Iss.activeIn_append (x : Iss) {lo mid hi : Nat} (h : lo ≤ mid) (h' : mid ≤ hi) :
    x.activeIn lo mid ++ x.activeIn mid hi = x.activeIn lo hi := by
  have hjoin := List.range'_append_1 (s := lo) (m := mid - lo) (n := hi - mid)
  rw [Nat.add_sub_cancel' h, show mid - lo + (hi - mid) = hi - lo by omega] at hjoin
  rw [Iss.activeIn, Iss.activeIn, Iss.activeIn, ← List.filter_append, hjoin]

theorem Iss.lt_of_mem_activeIn {x : Iss} {lo hi k : Nat} (h : k ∈ x.activeIn lo hi) : lo ≤ k ∧ k < hi := by
  obtain ⟨hlo, hlt⟩ := List.mem_range'_1.1 (List.mem_of_mem_filter h)
  omega

theorem Iss.active_eq (x : Iss) : x.active = (List.range 32).filter x.active.contains := by
  have hfilter : x.active = (List.range 32).filter
      (fun l => inMask x.p.home l && guardHolds x.v x.f l && inMask x.p.emask l) := List.filter_filter ..
  refine hfilter.trans (List.filter_congr fun l hl => ?_)
  rw [hfilter, Bool.eq_iff_iff, List.contains_iff_mem, List.mem_filter]
  simp [List.mem_range.1 hl]

/-- The active lanes below a number of lanes. -/
theorem Iss.activeIn_zero (x : Iss) {n : Nat} (h : n ≤ 32) : x.activeIn 0 n = x.active.filter (fun k => decide (k < n)) := by
  have hsplit := Iss.activeIn_append x (Nat.zero_le n) h
  have hall : x.activeIn 0 32 = x.active := by
    rw [Iss.activeIn, ← List.range_eq_range']
    exact x.active_eq.symm
  have hlow : (x.activeIn 0 n).filter (fun k => decide (k < n)) = x.activeIn 0 n :=
    List.filter_eq_self.2 fun k hk => decide_eq_true (Iss.lt_of_mem_activeIn hk).2
  have hhigh : (x.activeIn n 32).filter (fun k => decide (k < n)) = [] :=
    List.filter_eq_nil_iff.2 fun k hk => by simpa using (Iss.lt_of_mem_activeIn hk).1
  rw [← hall, ← hsplit, List.filter_append, hlow, hhigh, List.append_nil]

section Sums

variable {x : Iss} (ht : tyFloat x.f.ty = false)
include ht

/-! ## Values on their way (R136, R142) -/

/-- R141, R142: the combination of two partial sums is that of their lanes together. -/
theorem comb_partialSum (ls ms : List Nat) :
    comb .add x.f.ty (x.partialSum ls) (x.partialSum ms) = x.partialSum (ls ++ ms) := by
  by_cases hl : ls = []
  · rw [hl, Iss.partialSum_nil, List.nil_append]
    rfl
  by_cases hm : ms = []
  · rw [hm, Iss.partialSum_nil, List.append_nil]
    cases x.partialSum ls <;> rfl
  rw [Iss.partialSum_of_ne_nil hl, Iss.partialSum_of_ne_nil hm, Iss.partialSum_of_ne_nil (by simp [hl])]
  simp only [comb, ht, Bool.false_eq_true, if_false, combInt, intWrap_add_intWrap, Iss.sumOver_append]
  rfl

/-- R136: what a lane puts in. -/
theorem redLeaves_eq : redLeaves x = (List.range 32).map (fun l => x.partialSum ([l].filter x.active.contains)) := by
  refine List.map_congr_left fun l _ => ?_
  by_cases hl : x.active.contains l = true
  · have hone : [l].filter x.active.contains = [l] := by simp only [List.filter_singleton, hl, cond_true]
    rw [if_pos hl, hone, Iss.partialSum_of_ne_nil (by simp)]
    simp [redLeaf, ht, Iss.sumOver, intWrap_intVal]
  · have hnone : [l].filter x.active.contains = [] := by simp only [List.filter_singleton, hl, cond_false]
    rw [if_neg hl, hnone, Iss.partialSum_nil]

/-! ## The tree (R142) -/

theorem pairUp_partialSum (lss : List (List Nat)) :
    pairUp .add x.f.ty (lss.map x.partialSum) = (joinPairs lss).map x.partialSum := by
  induction lss using joinPairs.induct with
  | case1 => rfl
  | case2 a => rfl
  | case3 a b r ih => simp only [List.map_cons, pairUp, joinPairs, comb_partialSum ht, ih]

/-- R142: five levels leave of 32 values one, of all their lanes. -/
theorem treeOf_partialSum {lss : List (List Nat)} (h : lss.length = 32) :
    treeOf .add x.f.ty (lss.map x.partialSum) = x.partialSum lss.flatten := by
  obtain ⟨ls, hroot⟩ : ∃ ls, joinPairs (joinPairs (joinPairs (joinPairs (joinPairs lss)))) = [ls] :=
    List.length_eq_one_iff.1 (by simp only [length_joinPairs, h])
  have hall : lss.flatten = ls := by
    have hflat := congrArg List.flatten hroot
    simpa only [flatten_joinPairs, List.flatten_singleton] using hflat
  simp only [treeOf, pairUp_partialSum ht, hroot, hall, List.map_singleton, List.headD_cons]

/-! ## The scan (R143) -/

/-- R143: a step of the scan doubles the run of lanes that each value sums. -/
theorem scanStep_partialSum (d : Nat) :
    scanStep .add x.f.ty d ((List.range 32).map (fun i => x.partialSum (x.activeIn (i + 1 - d) (i + 1)))) =
      (List.range 32).map (fun i => x.partialSum (x.activeIn (i + 1 - 2 * d) (i + 1))) := by
  refine List.ext_getElem? fun i => ?_
  rw [scanStep, List.getElem?_map, getElem?_enum, List.getElem?_map, List.getElem?_map, Option.map_map, Option.map_map]
  by_cases hi : i < 32
  · rw [List.getElem?_range hi, Option.map_some, Option.map_some]
    refine congrArg some ?_
    simp only [Function.comp_apply]
    split
    next hd =>
      rw [List.getD_eq_getElem?_getD, List.getElem?_map, List.getElem?_range (by omega), Option.map_some, Option.getD_some,
        comb_partialSum ht, show i - d + 1 = i + 1 - d by omega, show i + 1 - d - d = i + 1 - 2 * d by omega,
        Iss.activeIn_append x (by omega) (by omega)]
    next hd => rw [show i + 1 - d = i + 1 - 2 * d by omega]
  · rw [List.getElem?_eq_none (by simpa using hi)]
    rfl

/-- R143: after the last step each value sums the lanes up to its own. -/
theorem scanOf_redLeaves :
    scanOf .add x.f.ty (redLeaves x) = (List.range 32).map (fun i => x.partialSum (x.activeIn (i + 1 - 32) (i + 1))) := by
  have hleaves : redLeaves x = (List.range 32).map (fun i => x.partialSum (x.activeIn (i + 1 - 1) (i + 1))) := by
    simp [redLeaves_eq ht, Iss.activeIn]
  rw [hleaves, scanOf]
  simp only [List.foldl_cons, List.foldl_nil]
  rw [scanStep_partialSum ht 1, scanStep_partialSum ht 2, scanStep_partialSum ht 4, scanStep_partialSum ht 8,
    scanStep_partialSum ht 16]

end Sums

/-! ## Results (R141 to R143) -/

/-- R141: what a lane is given for a partial sum, the identity 0 for that of no lane. -/
theorem redResult_of_partialSum {x : Iss} {pick : List RedVal → Nat → RedVal} {l : Nat} {ls : List Nat}
    (ht : tyFloat x.f.ty = false) (h : pick (redLeaves x) l = x.partialSum ls) (xs : List (Word × Ty)) :
    (redResult .add pick x l xs).1 = [(intWrap x.f.ty (x.sumOver ls), x.f.ty)] := by
  by_cases hls : ls = []
  · rw [hls, Iss.partialSum_nil] at h
    simp only [redResult, h, hls, Iss.sumOver, List.map_nil, List.sum_nil, intWrap_zero, redIdentity]
  · rw [Iss.partialSum_of_ne_nil hls] at h
    simp only [redResult, h, canonical, ht, Bool.false_eq_true, if_false]

theorem treeOf_redLeaves {x : Iss} (ht : tyFloat x.f.ty = false) : treeOf .add x.f.ty (redLeaves x) = x.partialSum x.active := by
  have hleaves : redLeaves x = ((List.range 32).map (fun l => [l].filter x.active.contains)).map x.partialSum := by
    rw [redLeaves_eq ht, List.map_map]
    rfl
  rw [hleaves, treeOf_partialSum ht (by simp), flatten_map_filter_singleton, ← Iss.active_eq]

/-- R143: the value of lane i in the scan. -/
theorem getD_scanOf {x : Iss} (ht : tyFloat x.f.ty = false) {i : Nat} (hi : i < 32) :
    (scanOf .add x.f.ty (redLeaves x)).getD i none = x.partialSum (x.active.filter (fun k => decide (k < i + 1))) := by
  rw [scanOf_redLeaves ht, ← Iss.activeIn_zero x hi, List.getD_eq_getElem?_getD, List.getElem?_map, List.getElem?_range hi,
    Option.map_some, Option.getD_some, show i + 1 - 32 = 0 by omega]

end Sys2Proof.Machine

/-- Settles O11: the tree and the scan add up partial sums, and what a lane is given is the partial sum its rule names. -/
theorem integerReductionsAreSums : Obligations.IntegerReductionsAreSums := by
  intro x l hty hact hl
  have ht : tyFloat x.f.ty = false := by rcases hty with h | h | h | h <;> rw [h] <;> rfl
  refine ⟨redResult_of_partialSum ht (treeOf_redLeaves ht) _, redResult_of_partialSum ht ?_ _, redResult_of_partialSum ht ?_ _⟩
  · rw [getD_scanOf ht hl]
    simp only [Nat.lt_succ_iff]
  · split
    next h0 => simp [h0, Iss.partialSum_nil]
    next h0 => rw [getD_scanOf ht (by omega), Nat.sub_add_cancel (by omega)]

end

section
/-! PROOF. The queue forms and the forms that read the queue and the split (spec/05 R126, R129 to R134, spec/08 R207, R225, R226);
O8 and O9. -/

open Sys2Proof
open Sys2Proof.Machine

namespace Sys2Proof.Machine

/-! ## Entries removed, exchanged and moved (R129 to R131) -/

theorem drop_answers {s : State} {f : Form} {x : Iss} (h : Issues s (.drop f) x) : Answers s (.drop f)
    ((x.withHome (fun l => l.without (ageOf x.f.sa) x.f.n)).counted (-(x.f.n : Int))).done :=
  Answers.of_issue h (k := dropOp) rfl

theorem swap_answers {s : State} {f : Form} {x : Iss} (h : Issues s (.swap f) x) (hg : x.GuardReady) : Answers s (.swap f)
    (x.withLanes (fun l => setEntry (setEntry l x.f.sa (entryAt l x.f.sb)) x.f.sb (entryAt l x.f.sa))).done := by
  refine Answers.of_eq h (k := swapOp) rfl ?_
  rw [swapOp, Iss.guardGate_ready hg]
  rfl

theorem rot_answers {s : State} {f : Form} {x : Iss} (h : Issues s (.rot f) x) (hg : x.GuardReady) : Answers s (.rot f)
    (x.withLanes (fun l => { l with
      q := l.q.getD (x.f.n - 1) Entry.empty :: (l.q.take (x.f.n - 1) ++ l.q.drop x.f.n) })).done := by
  refine Answers.of_eq h (k := rotOp) rfl ?_
  rw [rotOp, Iss.guardGate_ready hg]
  rfl

/-! ## Entries pushed (R92, R132) -/

theorem push_eq (q : List Entry) (e : Entry) : push q e = (e :: q).take 16 := rfl

/-- R92: of entries pushed, at least one, the youngest sixteen stay, however long the queue was. -/
theorem pushAll_replicate (q : List Entry) (e : Entry) {n : Nat} (hn : 1 ≤ n) :
    pushAll q (List.replicate n e) = (List.replicate n e ++ q).take 16 := by
  induction n, hn using Nat.le_induction with
  | base => rfl
  | succ n hn ih =>
    have hlast : pushAll q (List.replicate (n + 1) e) = push (pushAll q (List.replicate n e)) e := by
      rw [List.replicate_succ', pushAll, List.foldl_append]
      rfl
    rw [hlast, ih, push_eq, List.replicate_succ, List.cons_append, List.take_succ_cons, List.take_succ_cons, List.take_take]
    rfl

/-- The issue with n entries of tag EMPTY pushed in every lane of its home set. -/
def Iss.padded (x : Iss) : Iss := x.deliver x.active (List.replicate x.f.n .empty) (fun _ => List.replicate x.f.n Entry.empty)

theorem Iss.length_lanes_padded (x : Iss) : x.padded.v.lanes.length = x.v.lanes.length := by
  simp [Iss.padded, Iss.deliver, enum]

theorem Iss.inMask_home_of_active {x : Iss} {l : Nat} (h : x.active.contains l = true) : inMask x.p.home l = true := by
  have hl := (List.mem_filter.1 (List.contains_iff_mem.1 h)).2
  exact (Bool.and_eq_true_iff.1 hl).1

/-- R132: a lane once `pad` has pushed. -/
theorem Iss.padded_lane {x : Iss} (hds : x.f.ds = .push) (hn : 1 ≤ x.f.n) {l : Nat} (hl : l < x.v.lanes.length) :
    x.padded.v.lane l = if inMask x.p.home l
      then { x.v.lane l with q := (List.replicate x.f.n Entry.empty ++ (x.v.lane l).q).take 16 } else x.v.lane l := by
  have hlane := Wave.lane_map_enum (u := x.padded.v) (rfl : _ = (enum x.v.lanes).map _) hl
  rw [hlane, ← pushAll_replicate _ _ hn]
  by_cases hact : x.active.contains l = true
  · rw [if_pos hact, if_pos (Iss.inMask_home_of_active hact)]
    simp [deliverLane, hds, pushes, frames]
  · rw [if_neg hact]
    simp [zeroLane, hds, pushes, List.map_replicate]
    rfl

theorem pad_answers {s : State} {f : Form} {x : Iss} (h : Issues s (.pad f) x) (hg : x.GuardReady) : ∃ y : Iss,
    Answers s (.pad f) y.done ∧ y = { x with v := y.v, p := addCount x.p x.f.n } ∧ y.v = { x.v with lanes := y.v.lanes } ∧
    y.v.lanes.length = x.v.lanes.length ∧ ∀ l, l < x.v.lanes.length → y.v.lane l = (if inMask x.p.home l
      then { (x.v.lane l) with q := (List.replicate x.f.n Entry.empty ++ (x.v.lane l).q).take 16 } else x.v.lane l) := by
  obtain ⟨-, hdest, hextra⟩ := formOk_checks h.encoded
  obtain hspec := Option.some.inj h.spec
  have hds : x.f.ds = .push := by
    simp only [← hspec, destOk, Bool.and_eq_true, beq_iff_eq] at hdest
    exact hdest.1
  have hn : 1 ≤ x.f.n := by
    simp only [extraOk, Bool.and_eq_true, decide_eq_true_eq] at hextra
    exact hextra.1
  have hcount : x.padded.p = addCount x.p x.f.n := by simp [Iss.padded, Iss.deliver, hds, pushes]
  refine ⟨x.padded, ?_, ?_, rfl, x.length_lanes_padded, fun l hl => Iss.padded_lane hds hn hl⟩
  · refine Answers.of_eq h (k := padOp) rfl ?_
    rw [padOp, Iss.guardGate_ready hg]
    rfl
  · rw [← hcount]
    rfl

/-! ## Push counts (R126, R207) -/

theorem Iss.delivered_p (x : Iss) (lat : Nat) (tags : List Ty) (res : Nat → List (Word × Ty)) :
    (x.delivered lat tags res).p = if x.f.ds = .push ∨ x.f.ds = .pushFrame then addCount x.p tags.length else x.p := by
  have hp : (x.delivered lat tags res).p = if pushes x.pop.f.ds then addCount x.pop.p tags.length else x.pop.p := rfl
  rw [hp, Iss.pop_f, Iss.pop_p]
  cases x.f.ds <;> rfl

/-- R207: a count within its bounds changes, and stops at them. -/
theorem topCount_addCount {p : Split} {m : Mark} {ms : List Mark} (hms : p.marks = m :: ms) (hd : m.depth = p.depth)
    (hlo : -128 < m.count) (hhi : m.count < 127) (n : Int) :
    topCount (addCount p n) = max (-128) (min 127 (m.count + n)) := by
  have hfree : ¬ (m.count = 127 ∨ m.count = -128) := by omega
  simp [addCount, hms, hd, hfree, topCount]

/-- R217: the keys of a layout word are not negative. -/
theorem layoutFor_of_neg (w : Option Word) {c : Int} (hc : c < 0) : layoutFor w c = none := by
  cases w with
  | none => rfl
  | some w =>
    refine List.find?_eq_none.2 fun l _ => ?_
    simp
    omega

/-! ## Reads of the queue and the split (R133, R134, R225, R226) -/

theorem readOp_ready {x : Iss} (hg : x.GuardReady) (value : Iss → Lane → Nat) : readOp x value =
    (x.deliver x.active [.n32] (fun l => [x.entry latA (BitVec.ofNat 64 (value x (x.v.lane l)), .n32)])).done := by
  rw [readOp, Iss.guardGate_ready hg]

/-- Form `f`, which the instruction carries, delivers what it reads once its guard can be read. -/
def Reads (x : Iss) (e : Instr × (Nat → Word) × Ty) : Prop := ∃ k : Iss → Work, (∀ s, exec e.1 s = s.issue e.1 k) ∧
  (x.GuardReady → k x = (x.deliver x.active [e.2.2] (fun l => [x.entry latA (e.2.1 l, e.2.2)])).done)

theorem readForms_read (x : Iss) (f : Form) : ∀ e ∈ readForms x f, Reads x e := by
  simp only [readForms, List.forall_mem_cons]
  refine ⟨⟨qdepthOp, fun _ => rfl, fun hg => ?qdepth⟩, ⟨qtagOp, fun _ => rfl, readOp_ready (value := _)⟩,
    ⟨maskrdOp, fun _ => rfl, fun hg => ?maskrd⟩, ⟨splitrdOp, fun _ => rfl, fun hg => ?splitrd⟩, by simp⟩
  case qdepth =>
    rw [qdepthOp, readOp_ready hg]
    simp only [List.countP_eq_length_filter]
  case maskrd => rw [maskrdOp, Iss.guardGate_ready hg]
  case splitrd =>
    rw [splitrdOp, Iss.guardGate_ready hg]
    generalize bits x.f.x13 0 2 = k
    match k with
    | 0 => rfl
    | 1 =>
      dsimp only [splitInfo]
      cases x.p.marks <;> rfl
    | k + 2 => rfl

theorem lanesOf_zero : lanesOf 0 = [] := by decide

theorem maskwr_answers {s : State} {f : Form} {x : Iss} {low : Nat} {rest : List Nat} (h : Issues s (.maskwr f) x)
    (hlow : lanesOf x.p.home = low :: rest) (hr : x.Readable [low] [[.mask, .i32, .n32]]) :
    let a : LaneMask := (opnd (x.vals low) 0).setWidth 32
    Answers s (.maskwr f) ({ x with
      v := popInboxes x.v x.srcs, p := { x.p with emask := (a &&& x.p.home) ||| (x.p.emask &&& ~~~x.p.home) } } : Iss).done := by
  refine Answers.of_eq h (k := maskwrOp) rfl ?_
  rw [maskwrOp, hlow]
  exact Iss.gated_ready hr _

end Sys2Proof.Machine

/-- Settles O8: each form by its operation, lane by lane for `pad`. -/
theorem queueFormsReshape : Obligations.QueueFormsReshape :=
  ⟨fun _ _ _ => drop_answers, fun _ _ _ => swap_answers, fun _ _ _ => rot_answers, fun _ _ _ => pad_answers,
    Iss.delivered_p, fun _ _ _ n hms hd hlo hhi => topCount_addCount hms hd hlo hhi n, fun w _ => layoutFor_of_neg w⟩

/-- Settles O9: the reads by their table, and `maskwr` by the lowest lane of the home set. -/
theorem stateReadsDeliver : Obligations.StateReadsDeliver := by
  refine ⟨fun s i f x val tag hmem h hg => ?_, fun _ _ _ _ _ => maskwr_answers, fun x h => ?_⟩
  · obtain ⟨k, hexec, hk⟩ := readForms_read x f _ hmem
    exact Answers.of_eq h (hexec s) (hk hg)
  · rw [Iss.active, activeLanes, h, lanesOf_zero, List.filter_nil]

end

section
/-! PROOF. The float forms, conversions, special functions, comparisons and codebook forms (spec/06 R154 to R169): each is a float
operation whose results and flags its rules give, which completes or raises FPE; O12 and O13. -/

open Sys2Proof
open Sys2Proof.Machine

namespace Sys2Proof.Machine

/-! ## Float operations (R154, R155) -/

/-- R154, R155: the meaning of an instruction is, in issue `x`, the float operation that `g` describes, once its sources can be
read. -/
def FloatForm.Describes (g : FloatForm) (i : Instr) (x : Iss) : Prop :=
  ∃ (k : Iss → Work) (compute : Iss → Nat → List (Word × Ty) → List (Word × Ty) × Fl), (∀ s, exec i s = s.issue i k) ∧
    (x.Readable x.active g.accs → k x = x.floatOp g.accs g.lat g.occ g.tags compute) ∧ ∀ l, g.out l = compute x l (x.vals l)

theorem FloatForm.Describes.completes {g : FloatForm} {s : State} {i : Instr} {x : Iss} (hg : g.Describes i x)
    (h : Issues s i x) : g.completes s i x := by
  obtain ⟨k, compute, hexec, hop, hout⟩ := hg
  exact fun hr => FloatForm.completes_of_floatOp h (hexec s) (hop hr) hout hr

theorem FloatForm.Describes.traps {g : FloatForm} {s : State} {i : Instr} {x : Iss} (hg : g.Describes i x) (h : Issues s i x)
    (hr : x.Readable x.active g.accs) (hflags : g.flags x &&& x.v.fpTrapEn ≠ 0) :
    Answers s i ((x.flag (g.flags x)).trapAt tFpe x.p.pc
      (maskOf (x.active.filter (fun l => decide ((g.out l).2 &&& x.v.fpTrapEn ≠ 0)))) (g.flags x).toNat 0) := by
  obtain ⟨k, compute, hexec, hop, hout⟩ := hg
  refine Answers.of_eq h (hexec s) ?_
  simp only [FloatForm.flags, hout] at hflags ⊢
  rw [hop hr, Iss.floatOp_traps hr hflags]

/-! ## The forms (R157 to R169) -/

theorem elementForm_describes {i : Instr} {lat : Ty → Nat} {n : Nat} {compute : Iss → FFmt → List Nat → Nat × Fl} {x : Iss}
    {g : FFmt → List Nat → Nat × Fl} (hexec : ∀ s, exec i s = s.issue i (floatForm1 lat n compute)) (hg : compute x = g) :
    (elementForm x lat n g).Describes i x := by
  subst hg
  exact ⟨_, _, hexec, fun _ => by rw [floatForm1, elementForm], fun _ => rfl⟩

theorem exactForm_describes {i : Instr} {lat : Ty → Nat} {n : Nat} {op : RMode → FV → FV → FV → Exact × Fl} (x : Iss)
    (hexec : ∀ s, exec i s = s.issue i (arithForm lat n op)) : (exactForm x lat n op).Describes i x :=
  ⟨_, _, hexec, fun _ => by rw [arithForm, floatForm1, exactForm, elementForm], fun _ => rfl⟩

theorem minmaxForm_describes {i : Instr} {mx num : Bool} (x : Iss)
    (hexec : ∀ s, exec i s = s.issue i (minmaxForm mx num)) :
    (elementForm x latFA 2 (arithmeticForms.minmaxElem x mx num)).Describes i x :=
  ⟨_, _, hexec, fun _ => by rw [minmaxForm, floatForm1, elementForm], fun _ => rfl⟩

/-- R159, R161 to R163: the arithmetic forms. -/
theorem arithmeticForms_describe (x : Iss) (f : Form) : ∀ e ∈ arithmeticForms x f, e.2.Describes e.1 x := by
  simp only [arithmeticForms, List.forall_mem_cons]
  refine ⟨?fadd, ?fsub, ?fmul, ?ffma, ?fdiv, ?fsqrt, ?fminNum, ?fmin, ?fmaxNum, ?fmax, ?frnd, ?ffract, ?fcopysign, ?fldexp,
    ?ffrexp, ?fclass, by simp⟩
  case fadd | fsub | fmul | ffma | fdiv | fsqrt => exact exactForm_describes x fun _ => rfl
  case fminNum | fmin | fmaxNum | fmax => exact minmaxForm_describes x fun _ => rfl
  case frnd | ffract | fcopysign => exact elementForm_describes (fun _ => rfl) rfl
  case fldexp => exact ⟨fldexpOp, _, fun _ => rfl, fun _ => by rw [fldexpOp], fun _ => rfl⟩
  case ffrexp => exact ⟨ffrexpOp, _, fun _ => rfl, fun _ => by rw [ffrexpOp], fun _ => rfl⟩
  case fclass => exact ⟨fclassOp, _, fun _ => rfl, fun _ => by rw [fclassOp], fun _ => rfl⟩

/-! ## Conversions (R73, R157, R165) -/

/-- R73: a form whose first two sources share a half format proceeds where they do, once they can be read. -/
theorem Iss.halves_ready {x : Iss} {accs : List (List Ty)} (hr : x.Readable x.active accs)
    (hsame : x.raw = true ∨ mixedHalves x x.active = []) (k : Work) : x.halves accs k = k := by
  have hmixed : (if x.raw then [] else mixedHalves x x.active) = [] := by
    obtain h | h := hsame
    · rw [h, if_pos rfl]
    · rw [h, ite_self]
  unfold Iss.halves
  rw [hmixed, show x.gate x.active accs = .ready from hr]
  rfl

theorem convForm_describes {i : Instr} {acc tags : List Ty}
    {compute : Iss → List (Word × Ty) → List (Word × Ty) × Fl} (x : Iss)
    (hexec : ∀ s, exec i s = s.issue i (convOp acc compute tags)) : (convForm x acc tags (compute x)).Describes i x :=
  ⟨_, _, hexec, fun _ => by rw [convOp, convForm], fun _ => rfl⟩

/-- R157, R159, R165, R167: `fdot2`, the conversions and `cbkdec`. -/
theorem conversionForms_describe (x : Iss) (f : Form) : ∀ e ∈ conversionForms x f, formOf e.1 = some f ∧
    (x.f = f → sameHalves x e.2 → e.2.Describes e.1 x) := by
  simp only [conversionForms, List.forall_mem_cons]
  refine ⟨⟨rfl, ?fdot2⟩, ⟨rfl, ?cvt⟩, ⟨rfl, ?cvti⟩, ⟨rfl, ?cvtf⟩, ⟨rfl, ?pack2⟩, ⟨rfl, ?unpk2⟩, ⟨rfl, ?f8pack⟩, ⟨rfl, ?f8unpk⟩,
    ⟨rfl, ?cbkdec⟩, by simp⟩
  case fdot2 =>
    exact fun _ hsame => ⟨fdot2Op, _, fun _ => rfl, fun hr => Iss.halves_ready hr (hsame rfl) _, fun _ => rfl⟩
  case f8pack =>
    exact fun _ hsame => ⟨f8packOp, _, fun _ => rfl, fun hr => Iss.halves_ready hr (hsame rfl) _, fun _ => rfl⟩
  case cvt | cvti | cvtf | unpk2 | f8unpk =>
    rintro rfl -
    exact convForm_describes x fun _ => rfl
  case pack2 => exact fun _ _ => ⟨pack2Op, _, fun _ => rfl, fun _ => by rw [pack2Op], fun _ => rfl⟩
  case cbkdec => exact fun _ _ => ⟨cbkdecOp, _, fun _ => rfl, fun _ => by rw [cbkdecOp], fun _ => rfl⟩

/-! ## Special functions, reductions and scans (R141 to R143, R168, R169) -/

theorem functionForm_describes {i : Instr} {fn : SpecialFn} {of_ : FFmt → Nat → SpecialOut} (x : Iss)
    (hexec : ∀ s, exec i s = s.issue i (specialOp fn of_)) : (functionForms.one x fn of_).Describes i x :=
  ⟨_, _, hexec, fun _ => by rw [specialOp, functionForms.one], fun _ => rfl⟩

/-- R168, R169: the special functions. -/
theorem functionForms_describe (x : Iss) (f : Form) : ∀ e ∈ functionForms x f, e.2.Describes e.1 x := by
  simp only [functionForms, List.forall_mem_cons]
  refine ⟨?rcp, ?rsq, ?sqrta, ?exp2, ?log2, ?sinpi, ?cospi, ?tanh, ?sincospi, by simp⟩
  case sincospi => exact ⟨sincospiOp, _, fun _ => rfl, fun _ => by rw [sincospiOp], fun _ => rfl⟩
  all_goals exact functionForm_describes x fun _ => rfl

theorem wredForm_describes (o : RedOp) (f : Form) (x : Iss) : (wredForm o x).Describes (.wred o f) x :=
  ⟨_, _, fun _ => rfl, fun _ => rfl, fun _ => rfl⟩

theorem wscanForm_describes (o : RedOp) (ex : Bool) (f : Form) (x : Iss) :
    (wscanForm o ex x).Describes (.wscan o ex f) x :=
  ⟨_, _, fun _ => rfl, fun _ => rfl, fun _ => rfl⟩

/-! ## Every form completes or traps (R155) -/

theorem floatFormsDeliver : Claims.FloatFormsDeliver := fun _ _ f x _ hmem h =>
  (arithmeticForms_describe x f _ hmem).completes h

theorem specialFunctionsDeliver : Claims.SpecialFunctionsDeliver := fun _ _ f x _ hmem h =>
  (functionForms_describe x f _ hmem).completes h

theorem conversionsDeliver : Claims.ConversionsDeliver := by
  intro s i f x g hmem h hsame
  obtain ⟨hform, hg⟩ := conversionForms_describe x f _ hmem
  exact (hg (h.form_eq hform) hsame).completes h

theorem floatResultsTrap : Claims.FloatResultsTrap := by
  intro s i f x g hform h hsame hr hflags
  suffices hg : g.Describes i x from hg.traps h hr hflags
  obtain ⟨o, rfl, rfl⟩ | ⟨o, ex, rfl, rfl⟩ | hmem | hmem | hmem := hform
  · exact wredForm_describes o f x
  · exact wscanForm_describes o ex f x
  · exact arithmeticForms_describe x f _ hmem
  · obtain ⟨hf, hg⟩ := conversionForms_describe x f _ hmem
    exact hg (h.form_eq hf) hsame
  · exact functionForms_describe x f _ hmem

/-! ## Comparisons (R155, R164) -/

/-- R155: a float comparison whose operands can be read, and which raises an enabled flag, traps. -/
theorem Iss.floatPred_traps {x : Iss} {accs : List (List Ty)} {lat : Nat} {occ : Occupancy}
    {compute : Iss → Nat → List (Word × Ty) → Bool × Fl} (h : x.Readable x.active accs)
    (hf : orFlags (x.active.map (fun l => (compute x l (x.vals l)).2)) &&& x.v.fpTrapEn ≠ 0) :
    x.floatPred accs lat occ compute =
      (x.flag (orFlags (x.active.map (fun l => (compute x l (x.vals l)).2)))).trapAt tFpe x.p.pc
        (maskOf (x.active.filter (fun l => decide ((compute x l (x.vals l)).2 &&& x.v.fpTrapEn ≠ 0))))
        (orFlags (x.active.map (fun l => (compute x l (x.vals l)).2))).toNat 0 := by
  have hraised : ((x.active.map (fun l => (l, compute x l (x.vals l)))).map (fun o => (o.1, o.2.2))).map Prod.snd =
      x.active.map (fun l => (compute x l (x.vals l)).2) := by
    simp [Function.comp_def]
  rw [Iss.floatPred, Iss.gated_ready h]
  dsimp only
  rw [Iss.raiseFlags_traps (by rwa [hraised]), hraised, List.map_map, List.filter_map, List.map_map]
  simp [Function.comp_def]

theorem floatComparesTrap : Claims.FloatComparesTrap := by
  intro s c f x h hr hflags
  refine Answers.of_eq h (k := fcmpOp c) rfl ?_
  rw [fcmpOp]
  exact Iss.floatPred_traps hr hflags

/-! ## Codebooks (R104, R149, R166) -/

theorem bits_eq {w : Nat} (x : BitVec w) (lo len : Nat) : bits x lo len = x.toNat / 2 ^ lo % 2 ^ len := by
  rw [bits, BitVec.extractLsb'_toNat, Nat.shiftRight_eq_div_pow]

/-- A field of a number lies in its low bits. -/
theorem mod_two_pow_field {lo len w : Nat} (h : lo + len ≤ w) (n : Nat) :
    n % 2 ^ w / 2 ^ lo % 2 ^ len = n / 2 ^ lo % 2 ^ len := by
  obtain ⟨k, rfl⟩ := Nat.exists_eq_add_of_le (show lo ≤ w by omega)
  rw [Nat.pow_add, Nat.mod_mul_right_div_self, Nat.mod_mod_of_dvd _ (Nat.pow_dvd_pow 2 (by omega))]

/-- R166: what lane j supplies to a codebook: its low 32 bits, two entries. -/
def Iss.supplied (x : Iss) (j : Nat) : Nat := if x.active.contains j then (opnd (x.vals j) 0).toNat % 2 ^ 32 else 0

theorem Iss.supplied_lt (x : Iss) : ∀ d ∈ (List.range 8).map x.supplied, d < 2 ^ 32 := by
  simp only [List.mem_map, forall_exists_index, and_imp, Iss.supplied]
  rintro _ j - rfl
  split
  · exact Nat.mod_lt _ (Nat.two_pow_pos 32)
  · decide

/-- R166: a codebook is a number whose digits the lanes supply. -/
theorem bookOf_toNat (x : Iss) : (bookOf x).toNat = Nat.ofDigits (2 ^ 32) ((List.range 8).map x.supplied) := by
  have hsum : Nat.ofDigits (2 ^ 32) ((List.range 8).map x.supplied) =
      ((List.range 8).map (fun j => x.supplied j * 2 ^ (32 * j))).sum := by
    simp only [Nat.ofDigits_eq_sum_mapIdx, ← Nat.pow_mul]
    rfl
  rw [← Nat.mod_eq_of_lt (Nat.ofDigits_lt_base_pow_length (by decide) x.supplied_lt), hsum]
  simp [bookOf, Iss.supplied, bits_eq, ite_mul]

theorem bookOf_digit (x : Iss) {j : Nat} (hj : j < 8) : (bookOf x).toNat / 2 ^ (32 * j) % 2 ^ 32 = x.supplied j := by
  rw [bookOf_toNat, Nat.pow_mul, Nat.ofDigits_div_pow_eq_ofDigits_drop _ (by decide) _ x.supplied_lt, Nat.ofDigits_mod_eq_head!]
  have hlt := x.supplied_lt (x.supplied j) (List.mem_map_of_mem (List.mem_range.2 hj))
  have hdrop : (((List.range 8).map x.supplied).drop j).head! = x.supplied j := by
    rw [List.head!_eq_head?_getD, List.head?_drop]
    simp [hj]
  rw [hdrop, Nat.mod_eq_of_lt hlt]

/-- R149, R166: entry k of a codebook is the low or the high half of what lane k ÷ 2 supplies. -/
theorem bookEntry_bookOf (x : Iss) {k : Nat} (hk : k < 16) : bookEntry (bookOf x) k =
    if x.active.contains (k / 2) then bits (opnd (x.vals (k / 2)) 0) (16 * (k % 2)) 16 else 0 := by
  have hpos : 16 * k = 32 * (k / 2) + 16 * (k % 2) := by omega
  have hhalf : 16 * (k % 2) + 16 ≤ 32 := by omega
  rw [bookEntry, bits_eq, hpos, Nat.pow_add, ← Nat.div_div_eq_div_mul, ← mod_two_pow_field hhalf, bookOf_digit x (by omega),
    Iss.supplied, bits_eq]
  split
  · exact mod_two_pow_field hhalf _
  · rw [Nat.zero_div, Nat.zero_mod]

theorem Iss.pop_cc (x : Iss) : x.pop.cc = x.cc := by rw [Iss.pop_eq]; rfl

theorem Iss.pop_books (x : Iss) : x.pop.v.books = x.v.books := by rw [Iss.pop_eq]

theorem Iss.pop_oldBooks (x : Iss) : x.pop.v.oldBooks = x.v.oldBooks := by rw [Iss.pop_eq]

/-- R166: the issue once `cbkld` has replaced its codebook, `bs` being the codebooks as this cc sees them. -/
def Iss.withBook (x : Iss) (bs : List (BitVec 256)) : Iss :=
  { x.pop with
    v := { x.pop.v with books := x.pop.v.books.set (bits x.f.x13 0 2) (bookOf x), oldBooks := some (x.cc, bs) } }

/-- R104, R166: the instructions of this cc see the codebooks as before, those of later cc the new one. -/
theorem Iss.book_withBook {x : Iss} {bs : List (BitVec 256)} (hbs : ∀ k, x.v.book x.cc k = bs.getD k 0) (c k : Nat) :
    (x.withBook bs).v.book c k = if c = x.cc then x.v.book c k else (x.withBook bs).v.books.getD k 0 := by
  by_cases hc : c = x.cc
  · rw [hc, if_pos rfl, hbs]
    exact if_pos rfl
  · rw [if_neg hc]
    exact if_neg (Ne.symm hc)

/-- R104, R166: `cbkld` keeps, for the instructions of its cc, the codebooks as they see them. -/
theorem cbkldOp_ready {x : Iss} (hr : x.Readable x.active [[.bf16x2]]) :
    ∃ bs, cbkldOp x = (x.withBook bs).done ∧ ∀ k, x.v.book x.cc k = bs.getD k 0 := by
  rw [show cbkldOp x = _ from Iss.gated_ready hr _]
  simp only [Iss.withBook, Iss.pop_books, Iss.pop_oldBooks, Iss.pop_cc, Iss.pop_f, Wave.book]
  cases x.v.oldBooks with
  | none => exact ⟨x.v.books, rfl, fun _ => rfl⟩
  | some o =>
    obtain ⟨c, bs⟩ := o
    by_cases hc : c = x.cc
    · exact ⟨bs, by simp only [hc, if_true], fun _ => if_pos hc⟩
    · exact ⟨x.v.books, by simp only [hc, if_false], fun _ => if_neg hc⟩

theorem floatComparesAndCodebooks : Claims.FloatComparesAndCodebooks := by
  refine ⟨fun s c f x h hr hflags => ?fcmp, fun s f x h hr => ?cbkld⟩
  case fcmp =>
    refine Answers.of_eq h (k := fcmpOp c) rfl ?_
    rw [fcmpOp]
    exact Iss.floatPred_ready hr hflags
  case cbkld =>
    obtain ⟨bs, hop, hbs⟩ := cbkldOp_ready hr
    exact ⟨bookOf x, fun _ => bookEntry_bookOf x, x.withBook bs, rfl, Iss.book_withBook hbs,
      Answers.of_eq h (k := cbkldOp) rfl hop⟩

end Sys2Proof.Machine

/-- Settles O12: each form is a float operation, and a comparison one that writes a predicate; either traps before it writes. -/
theorem enabledFlagsTrap : Obligations.EnabledFlagsTrap := ⟨floatResultsTrap, floatComparesTrap⟩

/-- Settles O13: each form is a float operation that delivers its results; `fcmp` and `cbkld` by their own. -/
theorem floatFormsComplete : Obligations.FloatFormsComplete :=
  ⟨floatFormsDeliver, conversionsDeliver, specialFunctionsDeliver, floatComparesAndCodebooks⟩

end

section
/-! PROOF. Float numbers (spec/06 R145 to R154, R164): what a pattern holds, when rounding leaves a number as it is, which
operations are invalid, and how numbers compare; O14 and O15. -/

open Sys2Proof
open Sys2Proof.Machine

namespace Sys2Proof.Machine

/-! ## Rounding a number that fits (R151 to R153) -/

/-- R151: a number that is a multiple of the unit is delivered in it as it is, under every mode. -/
theorem roundAt_multiple {q e : Int} (h : q ≤ e) (mode : RMode) (s : Bool) (m : Nat) :
    roundAt mode s m e q false = (m * 2 ^ (e - q).toNat, false) := by
  unfold roundAt
  rw [if_pos h]
  cases mode <;> rfl

/-- R153: a number of at most mw + 1 bits keeps its value with unbounded exponent, its significand brought to mw + 1 bits. -/
theorem roundFree_multiple {f : FFmt} {m : Nat} (h0 : m ≠ 0) (h : m < 2 ^ (f.mw + 1)) (mode : RMode) (s : Bool) (e : Int) :
    roundFree f mode s m e false = (m * 2 ^ (f.mw - Nat.log2 m), Nat.log2 m + e) := by
  have htop : Nat.log2 m < f.mw + 1 := (Nat.log2_lt h0).2 h
  have hbits : m < 2 ^ (Nat.log2 m + 1) := Nat.lt_log2_self
  have hk : m * 2 ^ (f.mw - Nat.log2 m) < 2 ^ (f.mw + 1) := by
    rw [show f.mw + 1 = Nat.log2 m + 1 + (f.mw - Nat.log2 m) by omega, Nat.pow_add]
    exact Nat.mul_lt_mul_of_pos_right hbits (Nat.two_pow_pos _)
  unfold roundFree
  dsimp only
  rw [roundAt_multiple (by omega)]
  dsimp only
  rw [show (e - ((Nat.log2 m : Int) + e - f.mw)).toNat = f.mw - Nat.log2 m by omega, if_neg hk.ne]

/-- The unit of the last place of m × 2^e. -/
def FFmt.unit (f : FFmt) (m : Nat) (e : Int) : Int := max ((Nat.log2 m : Int) + e) f.emin - f.mw

/-- R151 to R153: a number m × 2^e of at most mw + 1 bits, whose last bit the format reaches and which is no larger than its
largest finite, is delivered as it is. -/
theorem roundTo_multiple {f : FFmt} {m : Nat} {e : Int} (h0 : m ≠ 0) (h : m < 2 ^ (f.mw + 1)) (hlow : f.emin - f.mw ≤ e)
    (htop : Nat.log2 m + e ≤ f.emax) (hmax : Nat.log2 m + e = f.emax → m * 2 ^ (f.mw - Nat.log2 m) ≤ f.mmax)
    (mode : RMode) (sat s : Bool) :
    roundTo f mode sat s m e false =
      (signBit f s + (f.unit m e + f.mw + f.bias - 1).toNat * 2 ^ f.mw + m * 2 ^ (e - f.unit m e).toNat, flNone) := by
  have hbits : Nat.log2 m < f.mw + 1 := (Nat.log2_lt h0).2 h
  have hunit : f.unit m e ≤ e := by
    unfold FFmt.unit
    omega
  have hover : overflows f mode s m e false = false := by
    simp only [overflows, roundFree_multiple h0 h, Bool.and_eq_false_imp, Bool.or_eq_false_iff, decide_eq_false_iff_not, not_lt]
    exact fun _ => ⟨htop, fun heq => hmax (of_decide_eq_true heq).symm⟩
  unfold roundTo
  rw [if_neg h0, hover, if_neg (by decide)]
  dsimp only
  rw [show max ((Nat.log2 m : Int) + e) f.emin - f.mw = f.unit m e from rfl, roundAt_multiple hunit]
  simp only [Bool.false_and, Bool.false_eq_true, if_false]
  rfl

/-! ## Patterns (R145, R146) -/

/-- R145: the exponent and the fraction of a pattern. -/
def FFmt.exponent (f : FFmt) (a : Nat) : Nat := a / 2 ^ f.mw % 2 ^ f.ew
def FFmt.fraction (f : FFmt) (a : Nat) : Nat := a % 2 ^ f.mw

theorem FFmt.exponent_lt (f : FFmt) (a : Nat) : f.exponent a < 2 ^ f.ew := Nat.mod_lt _ (Nat.two_pow_pos _)

theorem FFmt.fraction_lt (f : FFmt) (a : Nat) : f.fraction a < 2 ^ f.mw := Nat.mod_lt _ (Nat.two_pow_pos _)

theorem FFmt.width_eq (f : FFmt) : f.width = f.mw + f.ew + 1 := by
  unfold FFmt.width
  omega

/-- R145: a pattern is made of its sign, its exponent and its fraction. -/
theorem pattern_eq {f : FFmt} {a : Nat} (h : a < 2 ^ f.width) :
    signBit f (signOf f a) + f.exponent a * 2 ^ f.mw + f.fraction a = a := by
  have hsign : a / 2 ^ (f.mw + f.ew) < 2 := Nat.div_lt_of_lt_mul (by rwa [← Nat.pow_succ, Nat.succ_eq_add_one, ← f.width_eq])
  have hbit : signBit f (signOf f a) = 2 ^ f.ew * (a / 2 ^ (f.mw + f.ew)) * 2 ^ f.mw := by
    rw [signBit, signOf, f.width_eq, Nat.add_sub_cancel]
    generalize a / 2 ^ (f.mw + f.ew) = top at hsign
    obtain rfl | rfl : top = 0 ∨ top = 1 := by omega
    · simp
    · simp [Nat.pow_add, Nat.mul_comm]
  have hmag : 2 ^ f.ew * (a / 2 ^ (f.mw + f.ew)) + f.exponent a = a / 2 ^ f.mw := by
    rw [Nat.pow_add, ← Nat.div_div_eq_div_mul]
    exact Nat.div_add_mod ..
  rw [hbit, ← Nat.add_mul, hmag]
  exact Nat.div_add_mod' ..

/-- R145: an exponent and a fraction that are neither a NaN's nor an infinity's give no more than the largest finite. -/
theorem finite_le_largest {f : FFmt} {k n : Nat} (hk : k < 2 ^ f.ew) (hn : n < 2 ^ f.mw)
    (hnan : ¬ (k = 2 ^ f.ew - 1 ∧ f = .e4m3 ∧ n = 7)) (hinf : ¬ (k = 2 ^ f.ew - 1 ∧ f ≠ .e4m3)) :
    (k : Int) - f.bias ≤ f.emax ∧ ((k : Int) - f.bias = f.emax → 2 ^ f.mw + n ≤ f.mmax) := by
  by_cases hf : f = .e4m3
  · subst hf
    simp only [FFmt.ew, FFmt.mw, FFmt.bias, FFmt.emax, FFmt.mmax, true_and] at hk hn hnan ⊢
    omega
  · have hexp : k ≠ 2 ^ f.ew - 1 := fun h => hinf ⟨h, hf⟩
    have hmax : f.mmax = 2 ^ (f.mw + 1) - 1 := by
      unfold FFmt.mmax
      split <;> trivial
    have hemax : f.emax = f.bias := by
      unfold FFmt.emax
      split <;> trivial
    have hrange : ((2 ^ f.ew : Nat) : Int) = 2 * f.bias + 2 := by cases f <;> decide
    rw [hmax, hemax, Nat.pow_succ]
    omega

/-- R145, R146: what a pattern that holds a number is: a subnormal, or a normal number no larger than the largest finite. -/
theorem fval_eq_fin {f : FFmt} {a m : Nat} {s : Bool} {e : Int} (h : fval f a = .fin s m e) : s = signOf f a ∧
    (f.exponent a = 0 ∧ m = f.fraction a ∧ e = f.emin - f.mw ∨
      f.exponent a ≠ 0 ∧ m = 2 ^ f.mw + f.fraction a ∧ e = f.exponent a - f.bias - f.mw ∧
        (f.exponent a : Int) - f.bias ≤ f.emax ∧ ((f.exponent a : Int) - f.bias = f.emax → m ≤ f.mmax)) := by
  unfold fval at h
  simp only [show a / 2 ^ f.mw % 2 ^ f.ew = f.exponent a from rfl, show a % 2 ^ f.mw = f.fraction a from rfl] at h
  split at h
  next => cases h
  next hnan =>
    split at h
    next => split at h <;> cases h
    next hinf =>
      split at h
      next h0 =>
        cases h
        exact ⟨rfl, .inl ⟨h0, rfl, rfl⟩⟩
      next h0 =>
        cases h
        refine ⟨rfl, .inr ⟨h0, rfl, rfl, ?_⟩⟩
        exact finite_le_largest (f.exponent_lt a) (f.fraction_lt a) hnan hinf

/-! ## Numbers a format holds (R145, R151, R153) -/

theorem FFmt.bias_add_emin (f : FFmt) : f.emin + f.bias - 1 = 0 := by
  unfold FFmt.emin
  omega

theorem FFmt.emin_le_emax (f : FFmt) : f.emin ≤ f.emax := by cases f <;> decide

/-- R145: a normal significand has its leading bit in place mw. -/
theorem log2_significand {w n : Nat} (h : n < 2 ^ w) : Nat.log2 (2 ^ w + n) = w :=
  (Nat.log2_eq_iff (by have := Nat.two_pow_pos w; omega)).2 ⟨by omega, by rw [Nat.pow_succ]; omega⟩

/-- R145, R151: a subnormal is delivered as its sign and its fraction. -/
theorem roundTo_subnormal {f : FFmt} {n : Nat} (h : n < 2 ^ f.mw) (mode : RMode) (sat s : Bool) :
    roundTo f mode sat s n (f.emin - f.mw) false = (signBit f s + n, flNone) := by
  by_cases h0 : n = 0
  · rw [roundTo, if_pos h0, h0, Nat.add_zero]
  · have hlog : Nat.log2 n < f.mw := (Nat.log2_lt h0).2 h
    have hrange := f.emin_le_emax
    have hbias := f.bias_add_emin
    have hunit : f.unit n (f.emin - f.mw) = f.emin - f.mw := by
      unfold FFmt.unit
      omega
    have hbits : n < 2 ^ (f.mw + 1) := h.trans (Nat.pow_lt_pow_succ (by decide))
    rw [roundTo_multiple h0 hbits le_rfl (by omega) (by omega), hunit,
      show (f.emin - f.mw + f.mw + f.bias - 1).toNat = 0 by omega, Int.sub_self]
    simp

/-- R145, R151: a normal number no larger than the largest finite is delivered as its sign, its exponent and its fraction. -/
theorem roundTo_normal {f : FFmt} {k n : Nat} (h : n < 2 ^ f.mw) (hk : k ≠ 0) (htop : (k : Int) - f.bias ≤ f.emax)
    (hmax : (k : Int) - f.bias = f.emax → 2 ^ f.mw + n ≤ f.mmax) (mode : RMode) (sat s : Bool) :
    roundTo f mode sat s (2 ^ f.mw + n) (k - f.bias - f.mw) false = (signBit f s + k * 2 ^ f.mw + n, flNone) := by
  have hlog := log2_significand h
  have hbias := f.bias_add_emin
  have hbits : 2 ^ f.mw + n < 2 ^ (f.mw + 1) := by rw [Nat.pow_succ]; omega
  have hunit : f.unit (2 ^ f.mw + n) (k - f.bias - f.mw) = k - f.bias - f.mw := by
    unfold FFmt.unit
    omega
  rw [roundTo_multiple (by omega) hbits (by omega) (by omega) (fun heq => ?_), hunit, Int.sub_self]
  · obtain ⟨j, rfl⟩ := Nat.exists_eq_succ_of_ne_zero hk
    rw [show (((j + 1 : Nat) : Int) - f.bias - f.mw + f.mw + f.bias - 1).toNat = j by omega, Int.toNat_zero, Nat.pow_zero,
      Nat.mul_one, Nat.succ_mul]
    exact congrArg (·, flNone) (by omega)
  · rw [hlog, Nat.sub_self, Nat.pow_zero, Nat.mul_one]
    exact hmax (by omega)

theorem formatNumbersAreDeliveredExactly : Claims.FormatNumbersAreDeliveredExactly := by
  intro f mode sat s m e a ha hval
  have hpat := pattern_eq ha
  obtain ⟨rfl, ⟨hexp, rfl, rfl⟩ | ⟨hexp, rfl, rfl, htop, hmax⟩⟩ := fval_eq_fin hval
  · rw [hexp, Nat.zero_mul, Nat.add_zero] at hpat
    rw [roundTo_subnormal (f.fraction_lt a), hpat]
  · rw [roundTo_normal (f.fraction_lt a) hexp htop hmax, hpat]

/-! ## Invalid operations (R147, R152, R154) -/

theorem FV.eq_nan {a : FV} (h : a.isNan = true) : ∃ signalling, a = .nan signalling := by
  cases a with
  | nan q => exact ⟨q, rfl⟩
  | inf s | fin s m e => cases h

/-- R147, R154: a NaN source makes a sum a NaN, whatever the other source is. -/
theorem sumExact_nan {a b : FV} (h : a.isNan = true ∨ b.isNan = true) (md : RMode) :
    (sumExact md [a.exact, b.exact]).1 = .nan := by
  obtain h | h := h
  · obtain ⟨q, rfl⟩ := FV.eq_nan h
    obtain _ | (_ | _) | _ := b <;> rfl
  · obtain ⟨q, rfl⟩ := FV.eq_nan h
    obtain _ | (_ | _) | _ := a <;> rfl

theorem fmulExact_nan {a b : FV} (h : a.isNan = true ∨ b.isNan = true) : (fmulExact a b).1 = .nan := by
  obtain h | h := h
  · obtain ⟨q, rfl⟩ := FV.eq_nan h
    cases b <;> rfl
  · obtain ⟨q, rfl⟩ := FV.eq_nan h
    cases a <;> rfl

theorem fdivExact_nan {a b : FV} (h : a.isNan = true ∨ b.isNan = true) : (fdivExact a b).1 = .nan := by
  obtain h | h := h
  · obtain ⟨q, rfl⟩ := FV.eq_nan h
    cases b <;> rfl
  · obtain ⟨q, rfl⟩ := FV.eq_nan h
    cases a <;> rfl

/-- R146: the canonical NaN of a format is read back as a quiet NaN. -/
theorem fval_nan (f : FFmt) : fval f f.nan = .nan false := by cases f <;> decide

theorem sumExact_opposite_infinities (md : RMode) (s : Bool) : sumExact md [.inf s, .inf (!s)] = (.nan, flNV) := by
  cases s <;> rfl

theorem fsqrtExact_negative {m : Nat} (h : 0 < m) (e : Int) : fsqrtExact (.fin true m e) = (.nan, flNV) := by
  rw [fsqrtExact, if_neg h.ne', if_pos rfl]

theorem fdivExact_by_zero {n : Nat} (h : 0 < n) (s t : Bool) (e k : Int) :
    fdivExact (.fin s n e) (.fin t 0 k) = (.inf (s != t), flDZ) := by
  rw [fdivExact, if_pos rfl, if_neg h.ne']

theorem invalidOperationsGiveNaN : Claims.InvalidOperationsGiveNaN := fun f md _ _ s t _ _ e k =>
  ⟨fun h => ⟨sumExact_nan h md, fmulExact_nan h, fdivExact_nan h⟩, sumExact_opposite_infinities md s, rfl, rfl, rfl, rfl,
    fun h => fsqrtExact_negative h e, fun h => fdivExact_by_zero h s t e k, rfl, by rw [fval_nan]; rfl, by rw [fval_nan]; rfl⟩

end Sys2Proof.Machine

/-- Settles O14: two sources are unordered, or their keys stand in one of three orders. -/
theorem floatConditionsExcludeEachOther : Obligations.FloatConditionsExcludeEachOther := by
  intro f a b
  simp only [fcmpElem, bne]
  generalize ((fval f a).isNan || (fval f b).isNan) = unordered
  generalize valueKey f a = k
  generalize valueKey f b = l
  cases unordered with
  | true => simp
  | false =>
    obtain h | rfl | h := lt_trichotomy k l
    · simp [h, h.ne, h.le, h.not_gt, h.not_ge]
    · simp
    · simp [h, h.ne', h.le, h.not_gt, h.not_ge]

/-- Settles O15: a pattern's number goes back to the pattern, subnormal or normal; the invalid operations case by case. -/
theorem floatResultsAtTheEdges : Obligations.FloatResultsAtTheEdges :=
  ⟨formatNumbersAreDeliveredExactly, invalidOperationsGiveNaN⟩

end

section
/-! PROOF. Accumulator elements (spec/07 R171 to R175, R197, R203): the carry-save sum is the exact sum modulo 2^66; O22. -/

open Sys2Proof
open Sys2Proof.Machine

namespace Sys2Proof.Machine

/-! ## Carry-save sums (R172) -/

theorem bit_xor_add_two_mul_majority : ∀ i < 2, ∀ j < 2, ∀ k < 2,
    (i ^^^ j ^^^ k) + 2 * ((i &&& j) ||| (i &&& k) ||| (j &&& k)) = i + j + k := by decide

/-- A full adder on every bit: the sum bits and twice the carries make the sum. -/
theorem xor_add_two_mul_majority (a b c : Nat) :
    (a ^^^ b ^^^ c) + 2 * ((a &&& b) ||| (a &&& c) ||| (b &&& c)) = a + b + c := by
  by_cases h : a + b + c = 0
  · obtain ⟨rfl, rfl, rfl⟩ : a = 0 ∧ b = 0 ∧ c = 0 := by omega
    rfl
  · have hxor (m n : Nat) : (m ^^^ n) % 2 = m % 2 ^^^ n % 2 := Nat.xor_mod_two_pow (n := 1)
    have hand (m n : Nat) : (m &&& n) % 2 = m % 2 &&& n % 2 := Nat.and_mod_two_pow (n := 1)
    have hor (m n : Nat) : (m ||| n) % 2 = m % 2 ||| n % 2 := Nat.or_mod_two_pow (n := 1)
    have hlow := bit_xor_add_two_mul_majority (a % 2) (by omega) (b % 2) (by omega) (c % 2) (by omega)
    have hhigh := xor_add_two_mul_majority (a / 2) (b / 2) (c / 2)
    simp only [← Nat.xor_div_two, ← Nat.and_div_two, ← Nat.or_div_two] at hhigh
    simp only [← hxor, ← hand, ← hor] at hlow
    omega
  termination_by a + b + c

/-- R171: the held value, as the 66 bits it is kept in. -/
theorem Elem.ofInt_held (e : Elem) : BitVec.ofInt 66 e.held = BitVec.ofNat 66 (e.g.toNat * 2 ^ 64 + e.s.toNat + e.c.toNat) :=
  BitVec.ofInt_toInt

/-- A held value is read from its 66 bits. -/
theorem Elem.held_eq_of_ofInt {e f : Elem} (h : BitVec.ofInt 66 e.held = BitVec.ofInt 66 f.held) : e.held = f.held := by
  rw [e.ofInt_held, f.ofInt_held] at h
  exact congrArg BitVec.toInt h

theorem Elem.add_zero (e : Elem) : e.add 0 = e := if_pos rfl

/-- The sum of the three words of a carry-save step is carried over into the guard bits, modulo 2^66. -/
theorem guard_sum_carries {g s c q sum carries : Nat} (hsum : sum + 2 * carries = s + c + q % 2 ^ 64) :
    ((g + q / 2 ^ 64 + carries / 2 ^ 63) % 4 * 2 ^ 64 + sum + 2 * carries % 2 ^ 64) % 2 ^ 66 =
      (g * 2 ^ 64 + s + c + q) % 2 ^ 66 := by
  omega

theorem toNat_guard (g : BitVec 2) (q : BitVec 66) (carries : Word) :
    (g + q.extractLsb' 64 2 + if carries.msb then 1 else 0).toNat =
      (g.toNat + q.toNat / 2 ^ 64 + carries.toNat / 2 ^ 63) % 4 := by
  have hmsb : (if carries.msb then 1 else 0 : BitVec 2).toNat = carries.toNat / 2 ^ 63 := by
    have hlt := carries.isLt
    have htop := BitVec.msb_eq_decide carries
    cases hm : carries.msb with
    | true => simp [hm] at htop ⊢; omega
    | false => simp [hm] at htop ⊢; omega
  rw [BitVec.toNat_add, BitVec.toNat_add, hmsb, BitVec.extractLsb'_toNat, Nat.shiftRight_eq_div_pow]
  omega

/-- R172: the element after a step holds the exact sum. -/
theorem Elem.ofInt_held_add (e : Elem) (p : Int) : BitVec.ofInt 66 (e.add p).held = BitVec.ofInt 66 (e.held + p) := by
  by_cases hp : p = 0
  · rw [hp, e.add_zero, Int.add_zero]
  · have hsum := xor_add_two_mul_majority e.s.toNat e.c.toNat ((BitVec.ofInt 66 p).setWidth 64).toNat
    rw [← BitVec.toNat_xor, ← BitVec.toNat_xor, ← BitVec.toNat_and, ← BitVec.toNat_and, ← BitVec.toNat_and,
      ← BitVec.toNat_or, ← BitVec.toNat_or, BitVec.toNat_setWidth] at hsum
    have hshift (m : Word) : (m <<< 1).toNat = 2 * m.toNat % 2 ^ 64 := by
      rw [BitVec.toNat_shiftLeft, Nat.shiftLeft_eq, Nat.pow_one, Nat.mul_comm]
    rw [BitVec.ofInt_add, Elem.ofInt_held, Elem.ofInt_held]
    apply BitVec.eq_of_toNat_eq
    simp only [Elem.add, if_neg hp]
    rw [BitVec.toNat_ofNat, toNat_guard, hshift, BitVec.toNat_add, BitVec.toNat_ofNat, Nat.mod_add_mod]
    exact guard_sum_carries hsum

theorem Elem.held_add_comm (e : Elem) (p q : Int) : ((e.add p).add q).held = ((e.add q).add p).held :=
  Elem.held_eq_of_ofInt (by
    simp only [Elem.ofInt_held_add, BitVec.ofInt_add]
    exact add_right_comm ..)

/-! ## The overflow flag (R172) -/

theorem Elem.add_ovf (e : Elem) {p : Int} (hp : p ≠ 0) :
    (e.add p).ovf = (e.ovf || outside64 p || outside64 (e.add p).held) := by
  rw [Elem.add, if_neg hp]
  rfl

theorem Elem.add_ovf_of_ovf {e : Elem} (h : e.ovf = true) (p : Int) : (e.add p).ovf = true := by
  by_cases hp : p = 0
  · rw [hp, e.add_zero, h]
  · rw [e.add_ovf hp, h, Bool.true_or, Bool.true_or]

theorem elementsAddExactly : Claims.ElementsAddExactly := fun e p q =>
  ⟨e.ofInt_held_add p, e.add_zero, fun h => e.add_ovf_of_ovf h p, e.add_ovf, e.held_add_comm p q⟩

/-! ## Canonical elements (R175, R197) -/

theorem outside64_eq_false {v : Int} : outside64 v = false ↔ -2 ^ 63 ≤ v ∧ v < 2 ^ 63 := by
  simp [outside64]

/-- R175: the canonical integer of an element fits in 64 bits, where the flag is set or the held value fits. -/
theorem Elem.outside64_resolved {e : Elem} (h : e.ovf = false → outside64 e.held = false) : outside64 e.resolved = false := by
  unfold Elem.resolved
  split
  · split <;> decide
  · exact h (Bool.eq_false_iff.2 ‹_›)

/-- The guard bits and the sum word of a canonical form are the 66 bits of its integer. -/
theorem ofNat_canonical {v : Int} (h : outside64 v = false) :
    BitVec.ofNat 66 ((if v < 0 then 3 else 0 : BitVec 2).toNat * 2 ^ 64 + (BitVec.ofInt 64 v).toNat + (0 : Word).toNat) =
      BitVec.ofInt 66 v := by
  obtain ⟨hlow, hhigh⟩ := outside64_eq_false.1 h
  have hguard : (if v < 0 then 3 else 0 : BitVec 2).toNat = if v < 0 then 3 else 0 := by split <;> rfl
  apply BitVec.eq_of_toNat_eq
  rw [BitVec.toNat_ofNat, BitVec.toNat_ofInt, BitVec.toNat_ofInt, hguard]
  change (_ + 0) % _ = _
  split <;> omega

/-- R197: the canonical form holds its integer. -/
theorem Elem.held_ofInt {v : Int} (h : outside64 v = false) (ovf : Bool) : (Elem.ofInt v ovf).held = v := by
  obtain ⟨hlow, hhigh⟩ := outside64_eq_false.1 h
  rw [Elem.held, Elem.ofInt, ofNat_canonical h]
  exact BitVec.toInt_ofInt_eq_self (by decide) (by omega) (by omega)

theorem Elem.resolved_of_ovf {e : Elem} (h : e.ovf = true) : e.resolved = if 0 ≤ e.held then 2 ^ 63 - 1 else -2 ^ 63 := by
  rw [Elem.resolved, if_pos h]

theorem Elem.resolved_of_not_ovf {e : Elem} (h : e.ovf = false) : e.resolved = e.held := by
  rw [Elem.resolved, if_neg (by rw [h]; decide)]

/-- R175, R197: the canonical form has the same canonical integer. -/
theorem Elem.resolved_ofInt {e : Elem} (h : e.ovf = false → outside64 e.held = false) :
    (Elem.ofInt e.resolved e.ovf).resolved = e.resolved := by
  have hheld := Elem.held_ofInt (Elem.outside64_resolved h) e.ovf
  cases ho : e.ovf with
  | false => rw [Elem.resolved_of_not_ovf rfl, ← ho, hheld]
  | true =>
    rw [Elem.resolved_of_ovf rfl, ← ho, hheld, Elem.resolved_of_ovf ho]
    by_cases hs : 0 ≤ e.held <;> simp [hs]

/-! ## Tiles added (R203) -/

theorem aaddTerm_self (a : Int) (e : Elem) : aaddTerm a a e = e.held := by
  simp [aaddTerm]

/-- R203: the flag of the element added is joined to the sum's; nothing that is held depends on a flag. -/
theorem aaddElem_held (a b : Int) (d e : Elem) : (aaddElem a b d e).held = (d.add (aaddTerm a b e)).held := rfl

theorem aaddElem_ovf_of_ovf {e : Elem} (h : e.ovf = true) (a b : Int) (d : Elem) : (aaddElem a b d e).ovf = true := by
  simp [aaddElem, h]

theorem tileSumsAreExact : Claims.TileSumsAreExact := fun a d e =>
  ⟨by rw [aaddElem_held, aaddTerm_self, Elem.ofInt_held_add], fun h => aaddElem_ovf_of_ovf h a a d,
    fun h => ⟨Elem.held_ofInt (Elem.outside64_resolved h) d.ovf, Elem.resolved_ofInt h, Elem.resolved_of_not_ovf⟩⟩

end Sys2Proof.Machine

/-- Settles O22: a carry-save step adds exactly, and the canonical form holds the canonical integer. -/
theorem accumulationIsExact : Obligations.AccumulationIsExact := ⟨elementsAddExactly, tileSumsAreExact⟩

end

section
/-! PROOF. The synchronous forms on tiles (spec/07 R182, R193, R196 to R201, R203, R204): what each does past its gates; O21. -/

open Sys2Proof
open Sys2Proof.Machine

namespace Sys2Proof.Machine

/-! ## Gates passed (R176, R180) -/

theorem Iss.Scalar.scalarOp_eq {x : Iss} {accs : List (List Ty)} {l : Nat} (h : x.Scalar accs l)
    (k : Iss → List (Word × Ty) → Work) : x.scalarOp accs k = k x (x.vals l) :=
  Iss.scalarOp_ready h.guard h.lane h.readable k

/-! ## Anchors (R196, R197) -/

theorem anchorForm_ready {x : Iss} {l : Nat} {e : Int} (hs : x.Scalar [[.i32, .n32]] l)
    (he : anchorOf ((x.vals l).getD 0 (0, .i32)) = some e) (ht : x.TilesReady [x.f.xd]) (lat : Nat) (f : Tile → Int → Tile) :
    anchorForm lat f x = ((x.pop.withTile x.f.xd lat (fun t => f t e)).spoil x.f.xd).done := by
  rw [anchorForm, hs.scalarOp_eq]
  simp only [he]
  rw [Iss.tileGate_ready ht, x.pop_eq]
  rfl

theorem resOp_ready {x : Iss} (hg : x.GuardReady) (ha : x.active ≠ []) (ht : x.TilesReady [x.f.xd]) :
    resOp x = ((x.withTile x.f.xd 24 resTile).spoil x.f.xd).done := by
  rw [resOp, Iss.tileOp_ready hg ha, Iss.tileGate_ready ht]
  rfl

theorem tileZeroAnchorResolve : Claims.TileZeroAnchorResolve := by
  refine ⟨fun s i f x l n e g hmem h hs he ht => ?_, fun s f x h hg ha ht => Answers.of_eq h rfl (resOp_ready hg ha ht)⟩
  simp only [tileForms, List.mem_cons, List.not_mem_nil, or_false, Prod.mk.injEq] at hmem
  obtain ⟨rfl, rfl, rfl⟩ | ⟨rfl, rfl, rfl⟩ := hmem
  · exact Answers.of_eq h rfl (anchorForm_ready hs he ht 4 azTile)
  · exact Answers.of_eq h rfl (anchorForm_ready hs he ht 26 anchTile)

/-! ## Rows (R193, R198, R201) -/

/-- R182: undefined results carry the tags of the form's own. -/
theorem Iss.tileReads_tags {x : Iss} {t kind : Nat} {tags : List Ty} {value : Nat → List (Word × Ty)}
    (h : ∀ l, (value l).map Prod.snd = tags) (l : Nat) : (x.tileReads t kind tags value l).map Prod.snd = tags := by
  unfold Iss.tileReads
  split
  · rw [List.map_map]
    exact List.map_snd_zip (by simp)
  · exact h l

theorem Iss.tileReads_of_covered {x : Iss} {t : Nat} (h : uncovered x.v t = false) (kind : Nat) (tags : List Ty)
    (value : Nat → List (Word × Ty)) : x.tileReads t kind tags value = value := if_neg (by rw [h]; decide)

theorem rowForm_ready {x : Iss} (hg : x.GuardReady) (ha : x.active ≠ []) (ht : x.TilesReady [x.f.xd]) (lat kind : Nat)
    (tags : List Ty) (value : Tile → Nat → List (Word × Ty)) : rowForm lat kind tags value x =
      ((x.busy x.f.xd lat).deliver x.active tags (fun l =>
        (x.tileReads x.f.xd kind tags (value (x.v.tile x.f.xd)) l).map (x.entry lat))).done := by
  rw [rowForm, Iss.tileOp_ready hg ha, Iss.tileGate_ready ht]

theorem rowForm_idle {x : Iss} (hg : x.GuardReady) (ha : x.active = []) (lat kind : Nat) (tags : List Ty)
    (value : Tile → Nat → List (Word × Ty)) : rowForm lat kind tags value x = (x.deliver [] tags (fun _ => [])).done :=
  Iss.tileOp_idle hg ha _

/-- R182, R198, R201: a form that delivers a row delivers its values, or free ones of its tags. -/
theorem rowForm_delivers {s : State} {i : Instr} {x : Iss} {k : Iss → Work} {lat kind : Nat} {tags : List Ty}
    {value : Tile → Nat → List (Word × Ty)} (hexec : exec i s = s.issue i k) (hk : k x = rowForm lat kind tags value x)
    (h : Issues s i x) (hg : x.GuardReady) (ha : x.active ≠ []) (ht : x.TilesReady [x.f.xd])
    (htags : ∀ l, (value (x.v.tile x.f.xd) l).map Prod.snd = tags) :
    x.DeliversRow s i lat tags (value (x.v.tile x.f.xd)) :=
  ⟨x.tileReads x.f.xd kind tags (value (x.v.tile x.f.xd)), fun hc => Iss.tileReads_of_covered hc .., Iss.tileReads_tags htags,
    Answers.of_eq h hexec (hk.trans (rowForm_ready hg ha ht ..))⟩

theorem mrowOp_ready {x : Iss} (hg : x.GuardReady) (ha : x.active ≠ []) (ht : x.TilesReady [x.f.xd]) : mrowOp x =
    ((x.busy x.f.xd 4).deliver x.active [.n32]
      (fun _ => [x.entry 4 (BitVec.ofNat 64 (x.v.tile x.f.xd).progress, .n32)])).done := by
  rw [mrowOp, Iss.tileOp_ready hg ha, Iss.tileGate_ready ht]

theorem rowsAreDelivered : Claims.RowsAreDelivered := by
  refine ⟨fun s f x h hg ha ht => ?resv, fun s f x h hg ha ht => ?avld, fun s f x h hg ha ht => ?mrow,
    fun s i f x tags hmem h hg ha => ?idle⟩
  case resv => exact rowForm_delivers (k := resvOp) rfl rfl h hg ha ht fun _ => rfl
  case avld => exact rowForm_delivers (k := avldOp) rfl rfl h hg ha ht fun _ => rfl
  case mrow => exact Answers.of_eq h rfl (mrowOp_ready hg ha ht)
  case idle =>
    simp only [List.mem_cons, List.not_mem_nil, or_false, Prod.mk.injEq] at hmem
    obtain ⟨rfl, rfl⟩ | ⟨rfl, rfl⟩ | ⟨rfl, rfl⟩ := hmem
    · exact Answers.of_eq h (k := resvOp) rfl (rowForm_idle hg ha ..)
    · exact Answers.of_eq h (k := avldOp) rfl (rowForm_idle hg ha ..)
    · exact Answers.of_eq h (k := mrowOp) rfl (Iss.tileOp_idle hg ha _)

/-! ## Comparisons (R199, R200) -/

/-- R199: the predicate that `acmp` writes in a lane: its condition, or a free one where an operation is uncovered. -/
def acmpWrites (x : Iss) (b : Word) (l : Nat) : Bool :=
  if uncovered x.v x.f.xd then Config.freePred (x.v.tile x.f.xd).stamp
    (2 * ((((b.toNat * 8 + x.f.xs) * 2 + (if x.f.ty = .fx64 then 1 else 0)) * 32 + x.f.row) * 32 + l))
  else acmpHolds x b l

theorem acmpOp_ready {x : Iss} {k : Nat} (hs : x.Scalar [[x.f.ty]] k) (ht : x.TilesReady [x.f.xd]) : acmpOp x =
    ((x.pop.busy x.f.xd 24).setPred x.active x.f.pd 24 (acmpWrites x (opnd (x.vals k) 0))).done := by
  rw [acmpOp, hs.scalarOp_eq, Iss.tileGate_ready ht]
  rfl

/-- R200: the predicate that `asgn` writes in a lane, below (0) or above (1): its condition, or a free one. -/
def asgnWrites (x : Iss) (i : Nat) (holds : Int → Bool) (l : Nat) : Bool :=
  if uncovered x.v x.f.xd then Config.freePred (x.v.tile x.f.xd).stamp (2 * ((x.f.row * 2 + i) * 32 + l) + 1)
  else holds (signOfTop x l)

theorem asgnOp_ready {x : Iss} (hg : x.GuardReady) (ha : x.active ≠ []) (ht : x.TilesReady [x.f.xd]) : asgnOp x =
    (((x.busy x.f.xd 2).setPred x.active x.f.pd 2 (asgnWrites x 0 (fun n => decide (n ≤ -2)))).setPred x.active (x.f.pd + 1) 2
      (asgnWrites x 1 (fun n => decide (1 ≤ n)))).done := by
  rw [asgnOp, Iss.tileOp_ready hg ha, Iss.tileGate_ready ht]
  rfl

theorem acmpWrites_of_covered {x : Iss} (h : uncovered x.v x.f.xd = false) (b : Word) (l : Nat) :
    acmpWrites x b l = acmpHolds x b l := if_neg (by rw [h]; decide)

theorem asgnWrites_of_covered {x : Iss} (h : uncovered x.v x.f.xd = false) (i : Nat) (holds : Int → Bool) (l : Nat) :
    asgnWrites x i holds l = holds (signOfTop x l) := if_neg (by rw [h]; decide)

theorem tileComparisonsComplete : Claims.TileComparisonsComplete :=
  ⟨fun _ _ x k h hs ht => ⟨acmpWrites x (opnd (x.vals k) 0), fun hc => acmpWrites_of_covered hc _,
      Answers.of_eq h rfl (acmpOp_ready hs ht)⟩,
    fun _ _ x h hg ha ht => ⟨asgnWrites x 0 _, asgnWrites x 1 _,
      fun hc l => ⟨asgnWrites_of_covered hc 0 _ l, asgnWrites_of_covered hc 1 _ l⟩,
      Answers.of_eq h rfl (asgnOp_ready hg ha ht)⟩⟩

/-! ## Tiles added, and exponents (R203, R204) -/

theorem aaddOp_ready {x : Iss} (hg : x.GuardReady) (ha : x.active ≠ []) (ht : x.TilesReady [x.f.xd, x.f.xs]) :
    let n := if (x.v.tile x.f.xd).anchor = (x.v.tile x.f.xs).anchor then 8 else 32
    aaddOp x = (((x.withTile x.f.xd n (fun d => aaddTile d (asRead x.v x.f.xs))).busy x.f.xs n).spoil x.f.xd).done := by
  rw [aaddOp, Iss.tileOp_ready hg ha, Iss.tileGate_ready ht]
  rfl

/-- R204: the exponents of the elements of the active lanes. -/
def Iss.exponents (x : Iss) : List Int := x.active.flatMap (fun l => (allElems x.f.ty).filterMap (fun k =>
  expOf (fmtOfTy x.f.ty) (elemAt x.f.ty (opnd (x.vals l) 0) k)))

theorem Iss.mem_exponents {x : Iss} {e : Int} : e ∈ x.exponents ↔ ∃ l ∈ x.active, ∃ k ∈ allElems x.f.ty,
    expOf (fmtOfTy x.f.ty) (elemAt x.f.ty (opnd (x.vals l) 0) k) = some e := by
  simp [Iss.exponents]

theorem mxexpOp_ready {x : Iss} (hr : x.Readable x.active [[x.f.ty]]) : mxexpOp x =
    (x.delivered 10 [.i32] (fun _ => [(intWrap .i32 (x.exponents.foldl max (-32768)), .i32)])).done := by
  rw [mxexpOp, Iss.laneOp_ready hr]
  rfl

/-- The largest of some numbers and a least one is no less than each, and is one of them. -/
theorem foldl_max_greatest (ns : List Int) (a : Int) :
    (∀ n ∈ ns, n ≤ ns.foldl max a) ∧ (ns.foldl max a = a ∨ ns.foldl max a ∈ ns) := by
  rw [List.foldl_max]
  cases hmax : ns.max? with
  | none => simp [List.max?_eq_none_iff.1 hmax]
  | some m =>
    obtain ⟨hmem, hle⟩ := List.max?_eq_some_iff.1 hmax
    rw [Option.getD_some]
    refine ⟨fun n hn => (hle n hn).trans (le_max_right a m), ?_⟩
    obtain h | h := le_total a m
    · exact .inr (by rwa [max_eq_right h])
    · exact .inl (max_eq_left h)

theorem tileSumsAndExponents : Claims.TileSumsAndExponents := by
  refine ⟨fun s f x h hg ha ht => Answers.of_eq h rfl (aaddOp_ready hg ha ht), fun s f x h hr => ?_⟩
  obtain ⟨hle, hmem⟩ := foldl_max_greatest x.exponents (-32768)
  exact ⟨_, fun l hl k hk n hn => hle n (Iss.mem_exponents.2 ⟨l, hl, k, hk, hn⟩), hmem.imp_right Iss.mem_exponents.1,
    Answers.of_eq h rfl (mxexpOp_ready hr)⟩

end Sys2Proof.Machine

/-- Settles O21: each form past its guard, its scalar and its tiles, by what its operation does there. -/
theorem tileFormsComplete : Obligations.TileFormsComplete :=
  ⟨tileZeroAnchorResolve, rowsAreDelivered, tileComparisonsComplete, tileSumsAndExponents⟩

end

section
/-! PROOF. The asynchronous matrix forms at issue (spec/07 R176, R181 to R195, R202): how `mma`, `mmas`, `astr` and `ald` enter
their slots, and when `mfence`, `mwait` and `gang` pass; O23 and O24. -/

open Sys2Proof
open Sys2Proof.Machine

namespace Sys2Proof.Machine

/-! ## With no active lane (R103, R176) -/

/-- R103: an issue that executes in no lane, and pushes nothing, delivers nothing. -/
theorem Iss.deliver_idle {x : Iss} (h : pushes x.f.ds = false) (tags : List Ty) (res : Nat → List Entry) :
    x.deliver [] tags res = x := by
  have hlane (il : Nat × Lane) : (if ([] : List Nat).contains il.1 then deliverLane x.f il.2 (res il.1)
      else if inMask x.p.home il.1 then zeroLane x.f il.2 tags else il.2) = il.2 := by
    simp [zeroLane, h]
  have hlanes : (enum x.v.lanes).map Prod.snd = x.v.lanes := List.map_snd_zip (by simp)
  rw [Iss.deliver, h, funext hlane, hlanes]
  rfl

/-- R68, R82: a form that delivers nothing but predicates pushes nothing. -/
theorem Issues.pushes_eq_false {s : State} {i : Instr} {x : Iss} (h : Issues s i x)
    (hout : x.g.out = .none ∨ x.g.out = .compare) : pushes x.f.ds = false := by
  have hdest : destOk x.g x.f = true := by
    have henc := h.encoded
    simp only [formOk, Bool.and_eq_true] at henc
    obtain ⟨⟨⟨⟨⟨-, hdest⟩, -⟩, -⟩, -⟩, -⟩ := henc
    exact hdest
  rcases hout with hout | hout <;> simp [destOk, hout] at hdest <;> simp [hdest.1, pushes]

/-- R176: with no active lane a form without a scalar that pushes nothing only goes on. -/
theorem Iss.tileOp_done {x : Iss} (hg : x.GuardReady) (ha : x.active = []) (h : pushes x.f.ds = false) (k : Iss → Work) :
    x.tileOp [] k = x.done := by
  rw [Iss.tileOp_idle hg ha, Iss.deliver_idle h]

/-! ## Matrix operations (R181, R189, R190, R192) -/

/-- R192: the issue with leave asked of the governor of its quad for its newest operation. -/
def Iss.asksLeave (x y : Iss) : Iss :=
  { y with w := y.w.upd (fun d => d.updQuad (d.posOf x.v)
      (fun q => { q with leaveQueue := q.leaveQueue ++ [(false, x.v.uid, d.uid)] })) }

/-- R181, R192: the newest operation asks leave for itself, in the quad of the wave as it issued. -/
theorem Iss.askSlotLeave_newSlot (x : Iss) (o : OpSlot) :
    let y := x.pop.newSlot o
    ({ y with w := y.w.upd (fun d => askSlotLeave d y.v d.uid) } : Iss) = x.asksLeave y := by
  rw [x.pop_eq]
  rfl

theorem matrixOp_ready {x : Iss} {kind : SlotKind} {l : Nat} {o m : Word} (ho : o = x.f.imm.getD 0)
    (hbitmap : m = if kind = .mmas then opnd (x.vals l) 2 else 0) (hs : x.Scalar (matrixTags kind o) l)
    (ht : x.TilesReady [x.f.xd]) (hm : x.MayMultiply (opnd (x.vals l) 0) (opnd (x.vals l) 1) o) :
    let b := opnd (x.vals l) 1
    let z := x.asksLeave (x.pop.newSlot (x.matrixSlot kind (opnd (x.vals l) 0) b m o))
    matrixOp kind x = (if opGng o then z.enterLatch (x.w.d.taskCore x.v).gang b o else z).done := by
  intro b z
  subst hbitmap
  obtain ⟨⟨ha, hb, hastr, hbstr⟩, hgang, hpresent, hlatch, hslot, hhold⟩ := hm
  have hplaced : (opGng o && (decide (popBits (BitVec.ofNat 64 (x.w.d.taskCore x.v).gang) < 2) ||
      !(x.w.d.taskCore x.v).gang.testBit x.v.mIndex)) = false := by
    simpa [Nat.succ_le_iff] using hgang
  have hthere : (opGng o && memberGone x.w.d x.v (x.w.d.taskCore x.v).gang) = false := by simpa using hpresent
  have hroom : (!slotFree x.v || (opGng o && latchFull x.w.d x.v (x.w.d.taskCore x.v).gang)) = false := by
    simpa [hslot] using hlatch
  unfold matrixTags at hs
  dsimp only [matrixOp]
  rw [← ho, hs.scalarOp_eq, Iss.tileGate_ready ht, if_neg (by simp [ha, hb, hastr, hbstr])]
  simp only [hplaced, hthere, hhold, hroom, Bool.false_eq_true, if_false]
  rw [show z = _ from (Iss.askSlotLeave_newSlot x _).symm]
  rfl

/-- R181: a slot's newest operation has the number the device last gave. -/
theorem Iss.newSlot_mem (x : Iss) (o : OpSlot) :
    ∃ p ∈ (x.newSlot o).v.slots, p.order = (x.newSlot o).w.d.uid ∧ p.granted = o.granted :=
  ⟨_, List.mem_append_right _ (List.mem_singleton_self _), rfl, rfl⟩

/-! ## Tile transfers (R202, R430) -/

/-- R202: the operation that `astr` or `ald` enters. -/
def Iss.transferSlot (x : Iss) (kind : SlotKind) (a : Word) : OpSlot :=
  { OpSlot.make kind x.f.xd a 0 0 0 with canonical := x.f.mode % 2 == 1, scratch := decide (2 ≤ x.f.mode) }

/-- R202, R430: a transfer enters its slot, raises WATCH there, or waits for the page of a watched image. -/
def Iss.enterTransfer (x : Iss) (o : OpSlot) : Work :=
  match o.watched x.w x.v with
  | .wait va => x.waitPage va
  | .hit e => (x.pop.newSlot o).softTrap tWatch (x.v.ctx % 65536) e
  | .none => (x.pop.newSlot o).done

section Transfer

variable {x : Iss} {l : Nat} (hs : x.Scalar [addrTags (decide (2 ≤ x.f.mode))] l) (ht : x.TilesReady [x.f.xd])
  (ha : bits (opnd (x.vals l) 0) 0 8 = 0) (hslot : slotFree x.v = true) (hhold : x.v.hold x.p.num true = none)
  {kind : SlotKind}
include hs ht ha hslot hhold

theorem tileMove_ready : tileMove kind x = x.enterTransfer (x.transferSlot kind (opnd (x.vals l) 0)) := by
  dsimp only [tileMove]
  rw [hs.scalarOp_eq, Iss.tileGate_ready ht, if_neg (by simp [ha])]
  simp only [hhold, hslot, Bool.not_true, Bool.false_eq_true, if_false]
  rfl

theorem tileMove_of_unwatched (hw : (x.transferSlot kind (opnd (x.vals l) 0)).watched x.w x.v = .none) :
    tileMove kind x = (x.pop.newSlot (x.transferSlot kind (opnd (x.vals l) 0))).done := by
  rw [tileMove_ready hs ht ha hslot hhold, Iss.enterTransfer, hw]

theorem tileMove_of_hit {e : Nat} (hw : (x.transferSlot kind (opnd (x.vals l) 0)).watched x.w x.v = .hit e) :
    tileMove kind x =
      (x.pop.newSlot (x.transferSlot kind (opnd (x.vals l) 0))).softTrap tWatch (x.v.ctx % 65536) e := by
  rw [tileMove_ready hs ht ha hslot hhold, Iss.enterTransfer, hw]

end Transfer

/-! ## Waits and gangs (R183, R184, R194) -/

theorem mfenceOp_ready {x : Iss} (hg : x.GuardReady) (ha : x.active ≠ []) (hrecs : x.v.recs.any Rec.isStore = false)
    (hslots : x.v.slots.any (fun o => o.kind == .astr) = false) :
    mfenceOp x = ({ x with v := { x.v with pipes := x.v.present x.w.d } } : Iss).done := by
  rw [mfenceOp, Iss.tileOp_ready hg ha, hrecs, hslots]
  rfl

/-- R183: whether `mwait` covers the operations of tile `t`. -/
def Iss.covers (x : Iss) (t : Nat) : Bool := x.f.mode % 2 == 1 || t == x.f.xd

/-- R183: the issue with the operations that `mwait` covers complete. -/
def Iss.covered (x : Iss) : Iss :=
  { x with v := { x.v with
      tiles := (enum x.v.tiles).map (fun it => if x.covers it.1 then { it.2 with open_ := false } else it.2) } }

theorem mwaitOp_ready {x : Iss} (hg : x.GuardReady) (ha : x.active ≠ []) (ht : x.f.mode % 2 = 1 ∨ x.TilesReady [x.f.xd])
    (hslots : x.v.slots.any (fun o => x.covers o.tile) = false) : mwaitOp x = x.covered.done := by
  have hgate : ∀ t ∈ (if (x.f.mode % 2 == 1) = true then [] else [x.f.xd]),
      t < x.v.tiles.length ∧ (x.v.tile t).busyUntil ≤ x.cc := by
    obtain h | h := ht
    · simp [h]
    · split
      · simp
      · exact h
  unfold Iss.covers at hslots
  dsimp only [mwaitOp]
  rw [Iss.tileOp_ready hg ha, Iss.tileGate_ready hgate, hslots]
  rfl

theorem Iss.covered_tile (x : Iss) {t : Nat} (h : t < x.v.tiles.length) :
    x.covered.v.tile t = if x.covers t then { x.v.tile t with open_ := false } else x.v.tile t := by
  simp [Iss.covered, Wave.tile, getElem?_enum, h]

theorem Iss.covered_length (x : Iss) : x.covered.v.tiles.length = x.v.tiles.length := by
  simp [Iss.covered, enum]

theorem gangOp_ready {x : Iss} {l : Nat} (hs : x.Scalar [[.n32, .i32]] l)
    (hvalid : gangValid x (bits (opnd (x.vals l) 0) 0 32)) : gangOp x = ({ x.pop with
      w := x.w.upd (fun d => d.updTaskCore x.v (fun c => { c with gang := bits (opnd (x.vals l) 0) 0 32 })) } : Iss).done := by
  obtain ⟨hmin, hmax, hwaves, hwidth, hself⟩ := hvalid
  rw [gangOp, hs.scalarOp_eq]
  refine (if_neg ?_).trans ?_
  · rintro (hfew | hmany | hoff | hwide | hother)
    · exact hmin.not_gt hfew
    · exact hmax.not_gt hmany
    · exact hwaves.not_ge hoff
    · exact hwidth.not_ge hwide
    · rw [hself] at hother
      exact absurd hother (by decide)
  · rw [x.pop_eq]
    rfl

/-! ## The tile forms with no active lane (R176) -/

/-- The meaning of an instruction is a form with a scalar, which only goes on where no lane is active. -/
def ScalarForm (i : Instr) : Prop :=
  ∃ k : Iss → Work, (∀ s, exec i s = s.issue i k) ∧ ∀ x : Iss, ∃ accs k', k x = x.scalarOp accs k'

/-- The meaning of an instruction is a form on tiles without a scalar, which delivers nothing but predicates. -/
def TileForm (i : Instr) : Prop :=
  (∃ k : Iss → Work, (∀ s, exec i s = s.issue i k) ∧ ∀ x : Iss, ∃ k', k x = x.tileOp [] k') ∧
  ∀ g, formSpec i = some g → g.out = .none ∨ g.out = .compare

theorem matrixOp_scalar (kind : SlotKind) (x : Iss) : ∃ accs k', matrixOp kind x = x.scalarOp accs k' := by
  unfold matrixOp
  exact ⟨_, _, rfl⟩

theorem tileMove_scalar (kind : SlotKind) (x : Iss) : ∃ accs k', tileMove kind x = x.scalarOp accs k' := by
  unfold tileMove
  exact ⟨_, _, rfl⟩

theorem TileForm.of_eq {i : Instr} {k : Iss → Work} (hexec : ∀ s, exec i s = s.issue i k)
    (hk : ∀ x : Iss, ∃ k', k x = x.tileOp [] k') {g : FormSpec} (hi : formSpec i = some g)
    (hout : g.out = .none ∨ g.out = .compare) : TileForm i :=
  ⟨⟨k, hexec, hk⟩, fun _ h => Option.some.inj (hi.symm.trans h) ▸ hout⟩

theorem matrixForms_scalarForm_or_tileForm (f : Form) : ∀ i ∈ [Instr.mma f, .mmas f, .astr f, .ald f, .gang f, .az f, .anch f,
    .mfence f, .mwait f, .res f, .aadd f, .acmp f, .asgn f], ScalarForm i ∨ TileForm i := by
  simp only [List.forall_mem_cons]
  refine ⟨?mma, ?mmas, ?astr, ?ald, ?gang, ?az, ?anch, ?mfence, ?mwait, ?res, ?aadd, ?acmp, ?asgn, by simp⟩
  case mma | mmas => exact .inl ⟨_, fun _ => rfl, matrixOp_scalar _⟩
  case astr | ald => exact .inl ⟨_, fun _ => rfl, tileMove_scalar _⟩
  case gang => exact .inl ⟨gangOp, fun _ => rfl, fun _ => ⟨_, _, rfl⟩⟩
  case az | anch => exact .inl ⟨_, fun _ => rfl, fun _ => ⟨_, _, rfl⟩⟩
  case acmp => exact .inl ⟨acmpOp, fun _ => rfl, fun _ => ⟨_, _, rfl⟩⟩
  case mfence => exact .inr (.of_eq (k := mfenceOp) (fun _ => rfl) (fun _ => ⟨_, rfl⟩) rfl (.inl rfl))
  case mwait => exact .inr (.of_eq (k := mwaitOp) (fun _ => rfl) (fun _ => ⟨_, rfl⟩) rfl (.inl rfl))
  case res => exact .inr (.of_eq (k := resOp) (fun _ => rfl) (fun _ => ⟨_, rfl⟩) rfl (.inl rfl))
  case aadd => exact .inr (.of_eq (k := aaddOp) (fun _ => rfl) (fun _ => ⟨_, rfl⟩) rfl (.inl rfl))
  case asgn => exact .inr (.of_eq (k := asgnOp) (fun _ => rfl) (fun _ => ⟨_, rfl⟩) rfl (.inr rfl))

section Idle

variable {s : State} {i : Instr} {x : Iss} (h : Issues s i x) (hg : x.GuardReady) (ha : x.active = [])
include h hg ha

theorem ScalarForm.answers_idle (hi : ScalarForm i) : Answers s i x.done := by
  obtain ⟨k, hexec, hk⟩ := hi
  obtain ⟨accs, k', hk'⟩ := hk x
  exact Answers.of_eq h (hexec s) (hk'.trans (Iss.scalarOp_idle hg ha k'))

theorem TileForm.answers_idle (hi : TileForm i) : Answers s i x.done := by
  obtain ⟨⟨k, hexec, hk⟩, hout⟩ := hi
  obtain ⟨k', hk'⟩ := hk x
  exact Answers.of_eq h (hexec s) (hk'.trans (Iss.tileOp_done hg ha (h.pushes_eq_false (hout _ h.spec)) k'))

end Idle

end Sys2Proof.Machine

/-- Settles O23: the operation of either form, entered past the gates. -/
theorem matrixOperationsEnter : Obligations.MatrixOperationsEnter := by
  intro s f x l sp h kind o a b m hs ht hm y z
  obtain ⟨p, hp, horder, hgranted⟩ := x.pop.newSlot_mem (x.matrixSlot kind a b m o)
  refine ⟨⟨p, hp, horder, hgranted⟩, ?_⟩
  have hexec : exec (if sp then .mmas f else .mma f) s = s.issue (if sp then .mmas f else .mma f) (matrixOp kind) := by
    cases sp <;> rfl
  have hbitmap : m = if kind = .mmas then opnd (x.vals l) 2 else 0 := by cases sp <;> rfl
  exact Answers.of_eq h hexec (matrixOp_ready rfl hbitmap hs ht hm)

/-- Settles O24: each form past its gates, and all of them with no active lane. -/
theorem matrixControlCompletes : Obligations.MatrixControlCompletes := by
  refine ⟨?transfers, fun s f x h hg ha hrecs hslots => ?mfence, ?mwait, ?gang, fun s i f x hmem h hg ha => ?idle⟩
  case transfers =>
    intro s f x l ld h a hs ht ha hslot hhold o
    have hexec : exec (if ld then .ald f else .astr f) s =
        s.issue (if ld then .ald f else .astr f) (tileMove (if ld then .ald else .astr)) := by cases ld <;> rfl
    exact ⟨fun hw => Answers.of_eq h hexec (tileMove_of_unwatched hs ht ha hslot hhold hw),
      fun e hw => Answers.of_eq h hexec (tileMove_of_hit hs ht ha hslot hhold hw)⟩
  case mfence => exact Answers.of_eq h rfl (mfenceOp_ready hg ha hrecs hslots)
  case mwait =>
    intro s f x h hg ha covers ht hslots
    refine ⟨x.covered, rfl, x.covered_length, fun t hlt => ?_, Answers.of_eq h rfl (mwaitOp_ready hg ha ht hslots)⟩
    rw [x.covered_tile hlt]
    simp [Iss.covers]
  case gang =>
    intro s f x l h hs g hvalid
    exact Answers.of_eq h rfl (gangOp_ready hs hvalid)
  case idle =>
    obtain hi | hi := matrixForms_scalarForm_or_tileForm f i hmem
    · exact hi.answers_idle h hg ha
    · exact hi.answers_idle h hg ha

end

section
/-! PROOF. The steps of the matrix unit (spec/07 R181, R185, R188, R191 to R195, R202): leave, K steps and completions, the join
of a gang, and tile transfers; O41. -/

open Sys2Proof
open Sys2Proof.Machine

namespace Sys2Proof.Machine

/-! ## Operations found in their slots -/

/-- The operation in a slot of a wave. -/
theorem slot_eq {d : Dev} {u k : Nat} {v : Wave} {o : OpSlot} (hv : d.wave u = some v) (ho : v.slots[k]? = some o) :
    (d.wave u).bind (fun v => (v.slots[k]?).map (fun o => (v, o))) = some (v, o) := by
  simp [hv, ho]

/-- A free choice changes no operation, and none of what says whether one runs. -/
theorem slotRuns_freeBit (s : State) (v : Wave) (o : OpSlot) : slotRuns s.work.freeBit.2.d v o = slotRuns s.dev v o := rfl

/-! ## Leave (R192, R441) -/

theorem leaveGrant_answers {s : State} {k u n : Nat} {chain : Bool} {t : List (Bool × Nat × Nat)}
    (hheld : s.dev.gov.held = false) (hhot : s.dev.gov.hot = false) (hqueue : (s.dev.quad k).leaveQueue = (chain, u, n) :: t) :
    Answers s (.leaveGrant k) (s.work.upd (fun d =>
      let d := d.updQuad k (fun q => { q with leaveQueue := t })
      if chain then grantChain d k u n else grantSlot d u n)) := by
  show execLeaveGrant k s = _
  refine State.run_ok ?_
  simp [hheld, hhot, hqueue]

/-! ## K steps and completions (R188 to R191, R193) -/

theorem not_transfer {o : OpSlot} (h : o.kind = .mma ∨ o.kind = .mmas) : (o.kind == .astr || o.kind == .ald) = false := by
  rcases h with h | h <;> simp [h]

section MatrixOp

variable {s : State} {u k : Nat} {v : Wave} {o : OpSlot} (hv : s.dev.wave u = some v) (ho : v.slots[k]? = some o)
  (hkind : o.kind = .mma ∨ o.kind = .mmas) (hruns : slotRuns s.dev v o = true) (hbegun : o.begun = true)
include hv ho hkind hruns hbegun

theorem matrixKstep_answers (hleft : (v.tile o.tile).progress < opKs o.operand) :
    Answers s (.matrixKstepComplete u k) (kStepAt ((partners s.dev v o).foldl
      (fun w m => walkPages w m.1 (stepPages m.2 (v.tile o.tile).progress)) s.work.freeBit.2) (partners s.dev v o)
      s.work.freeBit.1 (v.tile o.tile).progress) := by
  show execMatrixKstepComplete u k s = _
  refine State.run_ok ?_
  simp only [State.work_d, slot_eq hv ho, not_transfer hkind, hruns, hbegun, hleft.not_ge, Bool.not_true, Bool.or_false,
    Bool.false_eq_true, if_false]
  rfl

theorem matrixOpComplete_answers
    (hdone : ∀ m ∈ partners s.dev v o, opKs m.2.operand ≤ (m.1.tile m.2.tile).progress)
    (htime : o.begunAt + 32 + (((partners s.dev v o).map (fun m => m.2.passes)).sum + matRate (opAt o.operand) - 1) /
      matRate (opAt o.operand) ≤ s.dev.cc) :
    Answers s (.matrixOpComplete u k)
      ((partners s.dev v o).foldl (fun w m => settleWave (w.upd (fun d => slotDone d m.1.uid m.2.order)) m.1.uid) s.work) := by
  show execMatrixOpComplete u k s = _
  refine State.run_ok ?_
  have hsteps : (partners s.dev v o).any (fun m => decide ((m.1.tile m.2.tile).progress < opKs m.2.operand)) = false := by
    simpa using hdone
  simp only [State.work_d, slot_eq hv ho, not_transfer hkind, hruns, hbegun, hsteps, htime.not_gt, Bool.not_true, Bool.or_false,
    Bool.false_eq_true, if_false]

end MatrixOp

/-! ## The join of a gang (R195) -/

/-- R195: whether the arrivals of a gang agree. -/
def arrivalsAlike (as : List LatchArrival) : Bool :=
  (as.drop 1).all (fun a => arrivalsAgree (as.headD { wave := 0, order := 0, set := 0, operand := 0, b := 0 }) a)

/-- R195: a wave with the operation of an arrival joined. -/
def Wave.join (joint : Nat) (a : LatchArrival) (v : Wave) : Wave :=
  { v with slots := updWhere (fun o => o.order == a.order) (fun o => { o with joined := true, joint := some joint }) v.slots }

/-- R195: what an arrival's member comes to in the join: part of the joint operation, or ILLEGAL. -/
def joinMember (same : Bool) (joint : Nat) (d : Dev) (a : LatchArrival) : Dev :=
  match d.wave a.wave with
  | none => d
  | some v =>
    if same then d.updWave a.wave (Wave.join joint a)
    else match v.slots.find? (fun o => o.order == a.order) with
      | some o => raise d (slotTrap v o tIllegal 0)
      | none => d

/-- R195: the device once the arrivals of a gang have left the latch of a core of their task. -/
def leaveLatch (d : Dev) (task i : Nat) (as : List LatchArrival) : Dev :=
  { d.updTask task (fun t => { t with
      cores := updAt t.cores i (fun k => { k with latch := k.latch.filter (fun a => !as.contains a) }) }) with uid := d.uid + 1 }

/-- R195: a gang whose members have all arrived leaves the latch, and each member joins or traps. -/
theorem gangJoin_answers {s : State} {task core : Nat} {t : Task} {l : Launch} {as : List LatchArrival}
    (ht : s.dev.task task = some t) (hl : s.dev.launch t.ctx t.launchId = some l) (hx : core / 4 % 12 < l.w)
    (hy : core / 4 / 12 < l.h)
    (hready : (t.cores[(core / 4 / 12 * l.w + core / 4 % 12) * 4 + core % 4]?).bind
      (readyGang s.dev task (core / 4 % 12) (core / 4 / 12) (core % 4)) = some as) :
    Answers s (.gangJoin task core) (s.work.upd (fun d => as.foldl (joinMember (arrivalsAlike as) (d.uid + 1))
      (leaveLatch d task ((core / 4 / 12 * l.w + core / 4 % 12) * 4 + core % 4) as))) := by
  show execGangJoin task core s = _
  refine State.run_ok ?_
  have hcore : ¬ (l.w ≤ core / 4 % 12 ∨ l.h ≤ core / 4 / 12) := by omega
  simp only [State.work_d, ht, hl, hready, hcore, if_false]
  cases as <;> rfl

/-! ### What the join leaves and makes -/

theorem raise_tasks (d : Dev) (t : Trap) : (raise d t).tasks = d.tasks := by
  unfold raise
  split <;> rfl

theorem raise_traps (d : Dev) (t : Trap) : (raise d t).traps = d.traps ++ [t] := by
  unfold raise
  split <;> rfl

/-- The operations in the slots of a wave. -/
def Dev.slotsOf (d : Dev) (u : Nat) : Option (List OpSlot) := (d.wave u).map Wave.slots

/-- A change of a wave that keeps its identifier and its operations changes the operations of none. -/
theorem Dev.slotsOf_updWave {d : Dev} {n : Nat} {f : Wave → Wave} (hf : ∀ v, (f v).uid = v.uid ∧ (f v).slots = v.slots)
    (u : Nat) : (d.updWave n f).slotsOf u = d.slotsOf u := by
  rw [Dev.slotsOf, Dev.wave_updWave fun v h => (hf v).1.trans h, Option.map_map, Dev.slotsOf]
  congr 1
  funext v
  rw [Function.comp_apply]
  split
  · exact (hf v).2
  · rfl

theorem raise_slotsOf (d : Dev) (t : Trap) (u : Nat) : (raise d t).slotsOf u = d.slotsOf u := by
  unfold raise
  split
  · exact (Dev.slotsOf_updWave (fun v => ⟨Wave.updSplit_uid, Wave.updSplit_slots⟩) u).trans rfl
  · rfl

theorem joinMember_tasks (same : Bool) (joint : Nat) (d : Dev) (a : LatchArrival) :
    (joinMember same joint d a).tasks = d.tasks := by
  unfold joinMember
  split
  · rfl
  · split
    · rfl
    · split
      · exact raise_tasks ..
      · rfl

/-- What each change of a run makes of its own element, and every other keeps, holds of each element once the run is over. -/
theorem foldl_establishes {α β : Type} {f : α → β → α} {P : α → β → Prop} (hmakes : ∀ a b, P (f a b) b)
    (hkeeps : ∀ a b c, P a c → P (f a b) c) (l : List β) (a : α) : ∀ b ∈ l, P (l.foldl f a) b := by
  induction l using List.reverseRecOn with
  | nil => simp
  | append_singleton l c ih =>
    rw [List.foldl_concat]
    simp only [List.mem_append, List.mem_singleton]
    rintro b (hb | rfl)
    · exact hkeeps _ _ _ (ih b hb)
    · exact hmakes _ _

/-! ### A gang that agrees -/

theorem joinMember_true_traps (joint : Nat) (d : Dev) (a : LatchArrival) : (joinMember true joint d a).traps = d.traps := by
  unfold joinMember
  split <;> rfl

theorem joinMember_true_slotsOf (joint : Nat) (d : Dev) (a : LatchArrival) (u : Nat) : (joinMember true joint d a).slotsOf u =
    (d.wave u).map (fun v => if u = a.wave then (v.join joint a).slots else v.slots) := by
  unfold joinMember
  cases hv : d.wave a.wave with
  | none =>
    by_cases hu : u = a.wave
    · simp [Dev.slotsOf, hu, hv]
    · simp [Dev.slotsOf, hu]
  | some v =>
    simp only [if_true]
    rw [Dev.slotsOf, Dev.wave_updWave (f := Wave.join joint a) fun _ h => h]
    cases hu : d.wave u with
    | none => rfl
    | some v' =>
      have huid := Dev.wave_uid hu
      by_cases h : u = a.wave <;> simp [huid, h]

/-- R195: an operation of a wave in which an arrival's has joined: the arrival's own, or another as it was. -/
theorem Wave.mem_join {joint : Nat} {a : LatchArrival} {v : Wave} {o : OpSlot} (h : o ∈ (v.join joint a).slots) :
    (o.joined = true ∧ o.joint = some joint) ∨ (o.order ≠ a.order ∧ o ∈ v.slots) := by
  obtain ⟨p, hp, rfl⟩ := List.mem_map.1 h
  by_cases horder : p.order = a.order
  · exact .inl (by simp [horder])
  · exact .inr (by simp [horder, hp])

/-- R195: the operation of an arrival, where its wave holds it, has joined. -/
def Joined (joint : Nat) (d : Dev) (a : LatchArrival) : Prop :=
  ∀ os, d.slotsOf a.wave = some os → ∀ o ∈ os, o.order = a.order → o.joined = true ∧ o.joint = some joint

theorem joined_joinMember_self (joint : Nat) (d : Dev) (a : LatchArrival) : Joined joint (joinMember true joint d a) a := by
  intro os hos o ho horder
  rw [joinMember_true_slotsOf, Option.map_eq_some_iff] at hos
  obtain ⟨v, -, rfl⟩ := hos
  rw [if_pos rfl] at ho
  exact (Wave.mem_join ho).resolve_right fun h => h.1 horder

theorem Joined.joinMember {joint : Nat} {d : Dev} {a : LatchArrival} (h : Joined joint d a) (b : LatchArrival) :
    Joined joint (joinMember true joint d b) a := by
  intro os hos o ho horder
  rw [joinMember_true_slotsOf, Option.map_eq_some_iff] at hos
  obtain ⟨v, hv, rfl⟩ := hos
  have hold : o ∈ v.slots → o.joined = true ∧ o.joint = some joint := fun ho =>
    h v.slots (congrArg (Option.map Wave.slots) hv) o ho horder
  split at ho
  · exact (Wave.mem_join ho).elim id fun hother => hold hother.2
  · exact hold ho

/-! ### A gang that does not agree -/

theorem joinMember_false_slotsOf (joint : Nat) (d : Dev) (a : LatchArrival) (u : Nat) :
    (joinMember false joint d a).slotsOf u = d.slotsOf u := by
  unfold joinMember
  split
  · rfl
  · rw [if_neg (by decide)]
    split
    · exact raise_slotsOf ..
    · rfl

/-- R195: ILLEGAL is raised in the member of an arrival, where its wave holds the operation. -/
def Mismatched (d : Dev) (a : LatchArrival) : Prop :=
  ∀ os, d.slotsOf a.wave = some os → (∃ o ∈ os, o.order = a.order) →
    ∃ x ∈ d.traps, x.code = tIllegal ∧ x.wave = some a.wave

theorem slotTrap_code (v : Wave) (o : OpSlot) (code addr : Nat) : (slotTrap v o code addr).code = code := by
  unfold slotTrap lateTrap
  split <;> rfl

theorem slotTrap_wave (v : Wave) (o : OpSlot) (code addr : Nat) : (slotTrap v o code addr).wave = some v.uid := by
  unfold slotTrap lateTrap
  split <;> rfl

theorem mismatched_joinMember_self (joint : Nat) (d : Dev) (a : LatchArrival) : Mismatched (joinMember false joint d a) a := by
  intro os hos ⟨o, ho, horder⟩
  rw [joinMember_false_slotsOf, Dev.slotsOf, Option.map_eq_some_iff] at hos
  obtain ⟨v, hv, rfl⟩ := hos
  obtain ⟨p, hp⟩ := Option.isSome_iff_exists.1
    (List.find?_isSome (p := fun o => o.order == a.order).2 ⟨o, ho, by simpa using horder⟩)
  refine ⟨slotTrap v p tIllegal 0, ?_, slotTrap_code .., (slotTrap_wave ..).trans (congrArg some (Dev.wave_uid hv))⟩
  simp [joinMember, hv, hp, raise_traps]

theorem mem_traps_joinMember {x : Trap} {d : Dev} (h : x ∈ d.traps) (same : Bool) (joint : Nat) (a : LatchArrival) :
    x ∈ (joinMember same joint d a).traps := by
  unfold joinMember
  split
  · exact h
  · split
    · exact h
    · split
      · rw [raise_traps]
        exact List.mem_append_left _ h
      · exact h

theorem Mismatched.joinMember {d : Dev} {a : LatchArrival} (h : Mismatched d a) (joint : Nat) (b : LatchArrival) :
    Mismatched (joinMember false joint d b) a := by
  intro os hos ho
  rw [joinMember_false_slotsOf] at hos
  obtain ⟨x, hx, hcode, hwave⟩ := h os hos ho
  exact ⟨x, mem_traps_joinMember hx .., hcode, hwave⟩

/-! ### The latch -/

theorem Dev.task_updTask_same {d : Dev} {u : Nat} {t : Task} {f : Task → Task} (hf : ∀ t, (f t).uid = t.uid)
    (h : d.task u = some t) : (d.updTask u f).task u = some (f t) := by
  have huid : t.uid = u := by simpa using List.find?_some h
  have hfind : (d.updTask u f).task u = (d.task u).map (fun t => if t.uid == u then f t else t) :=
    find?_updWhere (fun t _ => by rw [hf t]) d.tasks
  simp [hfind, h, huid]

/-- R195: no arrival of a gang that has left stays in the latch. -/
theorem not_mem_latch_of_leaveLatch {d : Dev} {task i : Nat} {t t' : Task} {c : TaskCore} {as : List LatchArrival}
    (ht : d.task task = some t) (ht' : (leaveLatch d task i as).task task = some t') (hc : t'.cores[i]? = some c)
    {a : LatchArrival} (ha : a ∈ as) : a ∉ c.latch := by
  have hleft : (leaveLatch d task i as).task task = _ := Dev.task_updTask_same (fun _ => rfl) ht
  obtain rfl := Option.some.inj (hleft.symm.trans ht')
  rw [updAt, List.getElem?_modify_eq] at hc
  obtain ⟨k, -, rfl⟩ := Option.map_eq_some_iff.1 hc
  simp [ha]

/-! ### The whole gang -/

section Gang

variable (same : Bool) (joint : Nat) (as : List LatchArrival) (d : Dev)

theorem joinMembers_task (u : Nat) : (as.foldl (joinMember same joint) d).task u = d.task u := by
  unfold Dev.task
  rw [foldl_keeps (g := Dev.tasks) (joinMember_tasks same joint)]

theorem joinMembers_true_traps : (as.foldl (joinMember true joint) d).traps = d.traps :=
  foldl_keeps (g := Dev.traps) (joinMember_true_traps joint) as d

/-- R195: the members of a gang that agrees have all joined. -/
theorem joinMembers_joined : ∀ a ∈ as, Joined joint (as.foldl (joinMember true joint) d) a :=
  foldl_establishes (joined_joinMember_self joint) (fun _ b _ h => h.joinMember b) as d

/-- R195: ILLEGAL is raised in every member of a gang that does not agree. -/
theorem joinMembers_mismatched : ∀ a ∈ as, Mismatched (as.foldl (joinMember false joint) d) a :=
  foldl_establishes (mismatched_joinMember_self joint) (fun _ b _ h => h.joinMember joint b) as d

theorem joinMembers_false_slotsOf (u : Nat) : (as.foldl (joinMember false joint) d).slotsOf u = d.slotsOf u :=
  foldl_keeps (g := fun d => d.slotsOf u) (fun d a => joinMember_false_slotsOf joint d a u) as d

end Gang

/-! ## Tile transfers (R185, R202) -/

/-- R202: the cc from one block of a transfer to its next: 24 more where an `astr` first brings its tile to the canonical form. -/
def transferNeed (v : Wave) (o : OpSlot) : Nat :=
  1 + (if o.kind == .astr && o.canonical && o.bytes == 0 && !tileResolved (v.tile o.tile) then 24 else 0)

/-- R185, R202: where the next 256 bytes of a transfer lie. -/
def chunkWays (s : State) (v : Wave) (o : OpSlot) : List EngineWay :=
  unitWays (chunkWork s v o) v o s.work.freeBit.1 (chunkUnits o)

/-- R185, R202: the next 256 bytes of a transfer moved. -/
def movedChunk (s : State) (v : Wave) (o : OpSlot) : Work :=
  (if o.kind == .astr
    then (chunkWork s v o).upd (fun d => countLines d v.ctx (.op v.uid o.order) (wayLines (chunkWays s v o)))
    else loadChunk (chunkWork s v o) v o (chunkWays s v o)).upd (fun d => chunkMoved d v o)

section Kinds

variable {v : Wave} {o : OpSlot}

theorem transferNeed_of_load (hkind : o.kind = .ald) : transferNeed v o = 1 := by
  simp [transferNeed, hkind]

theorem transferNeed_of_store (hkind : o.kind = .astr) :
    transferNeed v o = if o.canonical && o.bytes == 0 && !tileResolved (v.tile o.tile) then 25 else 1 := by
  rw [transferNeed, hkind, beq_self_eq_true, Bool.true_and]
  split <;> rfl

theorem movedChunk_of_load (hkind : o.kind = .ald) (s : State) :
    movedChunk s v o = (loadChunk (chunkWork s v o) v o (chunkWays s v o)).upd (fun d => chunkMoved d v o) := by
  rw [movedChunk, hkind]
  rfl

theorem movedChunk_of_store (hkind : o.kind = .astr) (s : State) : movedChunk s v o = (chunkWork s v o).upd (fun d =>
    chunkMoved (countLines d v.ctx (.op v.uid o.order) (wayLines (chunkWays s v o))) v o) := by
  rw [movedChunk, hkind]
  rfl

end Kinds

/-- R185, R202: the next 256 bytes of a transfer: stopped, or moved; with the last of them it completes, where it can. -/
def nextChunk (s : State) (v : Wave) (o : OpSlot) : Except Refusal Work :=
  match firstStop (chunkWays s v o) with
  | some x => .ok (stopSlot (chunkWork s v o) v o x)
  | none =>
    if o.bytes + 256 < imageBytes o.canonical then .ok (movedChunk s v o)
    else match transferEnd (movedChunk s v o) v { o with bytes := o.bytes + 256 } s.work.freeBit.1 with
      | .ok w => .ok w
      | .error _ => .ok (movedChunk s v o)

theorem nextChunk_of_stop {s : State} {v : Wave} {o : OpSlot} {x : EngineWay} (h : firstStop (chunkWays s v o) = some x) :
    nextChunk s v o = .ok (stopSlot (chunkWork s v o) v o x) := by
  rw [nextChunk, h]

theorem nextChunk_of_more {s : State} {v : Wave} {o : OpSlot} (h : firstStop (chunkWays s v o) = none)
    (hmore : o.bytes + 256 < imageBytes o.canonical) : nextChunk s v o = .ok (movedChunk s v o) := by
  rw [nextChunk, h]
  exact if_pos hmore

/-- R202: an `ald` whose image is moved completes. -/
theorem transferEnd_of_load {v : Wave} {o : OpSlot} (hkind : o.kind = .ald) (w : Work) (b : Bool) :
    transferEnd w v o b = .ok (settleWave (w.upd (fun d => slotDone d v.uid o.order)) v.uid) :=
  if_pos (by rw [hkind]; rfl)

theorem nextChunk_of_load {s : State} {v : Wave} {o : OpSlot} (hkind : o.kind = .ald)
    (h : firstStop (chunkWays s v o) = none) : nextChunk s v o = .ok
      (if o.bytes + 256 < imageBytes o.canonical then movedChunk s v o
      else settleWave ((movedChunk s v o).upd (fun d => slotDone d v.uid o.order)) v.uid) := by
  by_cases hmore : o.bytes + 256 < imageBytes o.canonical
  · rw [nextChunk_of_more h hmore, if_pos hmore]
  · have hend := transferEnd_of_load (o := { o with bytes := o.bytes + 256 }) (v := v) hkind (movedChunk s v o) s.work.freeBit.1
    rw [nextChunk, h, if_neg hmore]
    simp only [hmore, hend, if_false]

section Transfer

variable {s : State} {u k : Nat} {v : Wave} {o : OpSlot} (hv : s.dev.wave u = some v) (ho : v.slots[k]? = some o)
  (hkind : (o.kind != .astr && o.kind != .ald) = false) (hruns : slotRuns s.dev v o = true) (hbegun : o.begun = true)
include hv ho hkind hruns hbegun

/-- R185, R202: a transfer whose image is moved ends. -/
theorem tileTransfer_answers_of_moved {w : Work} (hmoved : imageBytes o.canonical ≤ o.bytes)
    (hend : transferEnd s.work.freeBit.2 v o s.work.freeBit.1 = .ok w) : Answers s (.tileTransferComplete u k) w := by
  show execTileTransferComplete u k s = _
  refine State.run_ok ?_
  simp only [State.work_d, slot_eq hv ho, hkind, slotRuns_freeBit, hruns, hbegun, hmoved, hend, Bool.not_true, Bool.or_false,
    Bool.false_eq_true, if_false, if_true]

variable (hleft : o.bytes < imageBytes o.canonical) (htime : o.begunAt + transferNeed v o ≤ s.dev.cc)
include hleft htime

/-- R185, R202: a transfer whose time has come moves its next 256 bytes. -/
theorem tileTransfer_answers_of_due {w : Work} (hnext : nextChunk s v o = .ok w) :
    Answers s (.tileTransferComplete u k) w := by
  show execTileTransferComplete u k s = _
  refine State.run_ok (Eq.trans ?_ hnext)
  have hdue : ¬ s.work.freeBit.2.d.cc < o.begunAt + transferNeed v o := htime.not_gt
  unfold transferNeed at hdue
  simp only [State.work_d, slot_eq hv ho, hkind, slotRuns_freeBit, hruns, hbegun, hleft.not_ge, hdue, Bool.not_true,
    Bool.or_false, Bool.false_eq_true, if_false]
  rfl

end Transfer

/-- R202: an `astr` whose image is moved, and whose counted requests are over, stores it. -/
theorem transferEnd_of_store {w : Work} {v : Wave} {o : OpSlot} (hkind : o.kind = .astr)
    (hcount : counting w.d (.op v.uid o.order) = false) {b : Bool} :
    (∀ x, firstStop (unitWays w v o b (imageUnits o)) = some x → transferEnd w v o b = .ok (stopSlot w v o x)) ∧
    ∀ w', firstStop (unitWays w v o b (imageUnits o)) = none →
      storeImage w v o (unitWays w v o b (imageUnits o)) = some w' → transferEnd w v o b = .ok w' := by
  have hload : (o.kind != .astr) = false := by rw [hkind]; rfl
  refine ⟨fun x hx => ?_, fun w' hnone hstore => ?_⟩
  · simp only [transferEnd, hload, hcount, hx, Bool.false_eq_true, if_false]
  · simp only [transferEnd, hload, hcount, hnone, hstore, Bool.false_eq_true, if_false]

end Sys2Proof.Machine

/-- Settles O41: each step of the matrix unit, by the lemma that says what it answers. -/
theorem matrixEngineSteps : Obligations.MatrixEngineSteps := by
  refine ⟨fun _ _ _ _ _ _ => leaveGrant_answers, ?ops, ?join, ?load, ?store⟩
  case ops =>
    intro s u k v o hv ho hkind hruns hbegun n w ms r
    exact ⟨matrixKstep_answers hv ho hkind hruns hbegun, matrixOpComplete_answers hv ho hkind hruns hbegun⟩
  case join =>
    intro s task core t l as i ht hl hx hy hready same
    refine ⟨_, gangJoin_answers ht hl hx hy hready, keepsMemory_of_ws rfl, fun t' ht' c hc a ha => ?_, fun hsame => ?_,
      fun hdiffer a ha v hv hmem => ?_⟩
    · rw [Work.upd_d, joinMembers_task] at ht'
      exact not_mem_latch_of_leaveLatch ht ht' hc ha
    · rw [Work.upd_d, show arrivalsAlike as = true from hsame]
      exact ⟨joinMembers_true_traps _ as _, _, fun a ha v hv =>
        joinMembers_joined _ as _ a ha v.slots (congrArg (Option.map Wave.slots) hv)⟩
    · rw [Work.upd_d, show arrivalsAlike as = false from hdiffer]
      exact joinMembers_mismatched _ as _ a ha v.slots
        ((joinMembers_false_slotsOf _ as _ _).trans (congrArg (Option.map Wave.slots) hv)) hmem
  case load =>
    intro s u k v o hv ho hkind hruns hbegun htime hleft w ways w'
    obtain rfl := Dev.wave_uid hv
    rw [← transferNeed_of_load (v := v) hkind] at htime
    have hnext {w : Work} := tileTransfer_answers_of_due (w := w) hv ho (by rw [hkind]; rfl) hruns hbegun hleft htime
    refine ⟨fun x hx => hnext (nextChunk_of_stop hx), fun hnone => hnext ?_⟩
    rw [nextChunk_of_load hkind hnone, movedChunk_of_load hkind]
    rfl
  case store =>
    intro s u k v o hv ho hkind hruns hbegun w b ways
    obtain rfl := Dev.wave_uid hv
    have htransfer : (o.kind != .astr && o.kind != .ald) = false := by rw [hkind]; rfl
    refine ⟨fun hmore htime => ?_, fun hmoved hcount => ?_⟩
    · rw [← transferNeed_of_store (v := v) hkind] at htime
      have hnext {w : Work} := tileTransfer_answers_of_due (w := w) hv ho htransfer hruns hbegun (by omega) htime
      refine ⟨fun x hx => hnext (nextChunk_of_stop hx), fun hnone => hnext ?_⟩
      rw [nextChunk_of_more hnone hmore, movedChunk_of_store hkind]
      rfl
    · obtain ⟨hstop, hstore⟩ := transferEnd_of_store (w := s.work.freeBit.2) (v := v) (b := b) hkind hcount
      have hend {w : Work} := tileTransfer_answers_of_moved (w := w) hv ho htransfer hruns hbegun hmoved
      exact ⟨fun x hx => hend (hstop x hx), fun w' hnone hput => hend (hstore w' hnone hput)⟩

end

section
/-! PROOF. Branches, splits, and the other control forms (spec/08 R207 to R215, R218, R224, R225, R227 to R229, spec/16 R403): what
each operation does past its gates, and how `brs` and `jmpi` divide the lanes; O16, O17 and O20. -/

open Sys2Proof
open Sys2Proof.Machine

namespace Sys2Proof.Machine

/-! ## Sets of lanes (R70, R103) -/

theorem inMask_maskOf (ls : List Nat) {l : Nat} (hl : l < 32) : inMask (maskOf ls) l = ls.contains l := getLsbD_maskOf ls hl

theorem inMask_or (m t : LaneMask) (l : Nat) : inMask (m ||| t) l = (inMask m l || inMask t l) := BitVec.getLsbD_or

theorem inMask_and_not (m t : LaneMask) {l : Nat} (hl : l < 32) : inMask (m &&& ~~~t) l = (inMask m l && !inMask t l) := by
  simp [inMask, hl]

/-- Lanes taken from a mask, and those left in it, share none and are together the mask's. -/
theorem inMask_partition {m t : LaneMask} {l : Nat} (hl : l < 32) (hsub : inMask t l = true → inMask m l = true) :
    inMask m l = (inMask t l || inMask (m &&& ~~~t) l) ∧ (inMask t l && inMask (m &&& ~~~t) l) = false := by
  rw [inMask_and_not m t hl]
  cases ht : inMask t l with
  | true => simp [hsub ht]
  | false => simp

/-- R70: an active lane is in the mask of its split. -/
theorem Iss.inMask_emask_of_active {x : Iss} {l : Nat} (h : x.active.contains l = true) : inMask x.p.emask l = true :=
  (List.mem_filter.1 (List.mem_of_mem_filter (List.contains_iff_mem.1 h))).2

theorem Iss.inMask_taken (x : Iss) {l : Nat} (hl : l < 32) : inMask x.taken l = x.active.contains l :=
  inMask_maskOf x.active hl

/-! ## Branches (R210, R211, R213, R229) -/

theorem addCount_pc (p : Split) (n : Int) : (addCount p n).pc = p.pc := by
  unfold addCount
  split
  · split <;> rfl
  · rfl

/-- R68: delivering results leaves a split where it is. -/
theorem Iss.deliver_pc (x : Iss) (act : List Nat) (tags : List Ty) (res : Nat → List Entry) :
    (x.deliver act tags res).p.pc = x.p.pc := by
  unfold Iss.deliver
  dsimp only
  split
  · exact addCount_pc ..
  · rfl

theorem braOp_ready {x : Iss} (hg : x.GuardReady) : braOp x =
    if x.f.guard = { inv := false, p := 7 } ∨ x.active ≠ [] then x.goto (targetOf x.p.pc x.f) 4 {} else x.done := by
  rw [braOp, Iss.guardGate_ready hg]
  simp [unguarded]

/-- R213: `loop` counts down in its active lanes, and goes back while some count is not zero. -/
theorem loopOp_ready {x : Iss} (hr : x.Readable x.active [[.i32, .n32]]) :
    let y := x.deliver x.active [] (fun l =>
      [{ val := decrement (opnd (x.vals l) 0), tag := opndTag (x.vals l) 0, pend := .clear }])
    loopOp x = if ∃ l ∈ x.active, decrement (opnd (x.vals l) 0) ≠ 0 then y.goto (targetOf x.p.pc x.f) 4 {} else y.done := by
  intro y
  have hpc : y.p.pc = x.p.pc := x.deliver_pc ..
  rw [loopOp, Iss.gated_ready hr, ← hpc]
  simp only [List.any_eq_true, bne_iff_ne]
  rfl

theorem branchesGo : Claims.BranchesGo :=
  ⟨fun _ _ _ h hg => Answers.of_eq h (k := braOp) rfl (braOp_ready hg),
    fun _ _ _ h hr => Answers.of_eq h (k := loopOp) rfl (loopOp_ready hr)⟩

/-! ## Splits (R33, R207, R208, R212) -/

theorem brsOp_ready {x : Iss} (hg : x.GuardReady) (hm : x.p.marks.length < 8) :
    let y := x.withMark
    brsOp x = if x.taken = 0 then y.done
      else if x.left = 0 then y.goto (targetOf x.p.pc x.f) 4 {}
      else ({ y with
        v := y.v.addSplit x.w.d { y.p with readyAt := x.cc + 4 } (targetOf x.p.pc x.f) x.taken
        p := { y.p with emask := x.left, home := x.p.home &&& ~~~x.taken } } : Iss).done := by
  intro y
  rw [brsOp, Iss.guardGate_ready hg, Iss.marked_ready hm]
  rfl

theorem splitBranchesGo : Claims.SplitBranchesGo := fun s f _ h hg hm => Answers.of_eq h (exec_brs f s) (brsOp_ready hg hm)

/-- R375: a new split's number is no live one's. -/
theorem Wave.freeNumber_ne {v : Wave} {p : Split} (hp : p ∈ v.splits) (hn : p.num < 32) : v.freeNumber ≠ p.num := by
  unfold Wave.freeNumber
  cases hfind : (List.range 32).find? (fun n => v.splits.all (fun q => q.num != n)) with
  | none => simpa using hn.ne'
  | some n =>
    have hfree := List.find?_some hfind
    exact (bne_iff_ne.1 (List.all_eq_true.1 hfree p hp)).symm

theorem splitBranchesPartition : Claims.SplitBranchesPartition := by
  intro x target l hl y v
  have hemask := inMask_partition (t := x.taken) hl fun h => Iss.inMask_emask_of_active ((x.inMask_taken hl).symm.trans h)
  have hhome := inMask_partition (t := x.taken) hl fun h => Iss.inMask_home_of_active ((x.inMask_taken hl).symm.trans h)
  exact ⟨_, rfl, rfl, rfl, rfl, rfl, rfl, hemask.1, hemask.2, hhome.1, hhome.2,
    fun p hp hn _ => Wave.freeNumber_ne (v := y.v) hp hn⟩

/-! ## Groups of lanes by target (R218) -/

/-- R218: groups of lanes sent to their targets, the first under this split and the others in splits of their own; with no group
the split goes on. -/
def Iss.jump (y : Iss) : List (Word × LaneMask) → Work
  | [] => y.done
  | g :: gs => { y.jumped gs with p := { (y.jumped gs).p with emask := g.2 } }.goto (g.1.setWidth 57) 6 {}

theorem jmpiOp_ready {x : Iss} (hr : x.Readable x.active [[.ptr]]) (hs : x.Straight) (hm : x.p.marks.length < 8) :
    jmpiOp x = x.withMark.pop.jump x.groups := by
  have htargets : groupLanes x.targets = x.groups := rfl
  rw [jmpiOp, Iss.gated_ready hr]
  simp only [crooked_nil hs, htargets, List.isEmpty_nil, Bool.not_true, Bool.false_eq_true, if_false]
  rw [Iss.marked_ready hm]
  cases x.groups <;> rfl

theorem indirectJumpsGo : Claims.IndirectJumpsGo := by
  intro s f x h hr hs hm y
  have hanswers : Answers s (.jmpi f) (y.jump x.groups) := Answers.of_eq h (exec_jmpi f s) (jmpiOp_ready hr hs hm)
  exact ⟨fun hnone => by rwa [hnone] at hanswers, fun a m gs hsome => by rwa [hsome] at hanswers⟩

/-- R218: a group with a lane put into it where it has the lane's target. -/
def withLane (x : Nat × Word) (g : Word × LaneMask) : Word × LaneMask :=
  if g.1 == x.2 then (g.1, g.2 ||| maskOf [x.1]) else g

theorem withLane_target (x : Nat × Word) (g : Word × LaneMask) : (withLane x g).1 = g.1 := by
  unfold withLane
  split <;> rfl

theorem inMask_maskOf_singleton (k : Nat) {l : Nat} (hl : l < 32) : inMask (maskOf [k]) l = true ↔ k = l := by
  rw [inMask_maskOf [k] hl]
  simp [eq_comm]

theorem inMask_withLane (x : Nat × Word) (g : Word × LaneMask) {l : Nat} (hl : l < 32) :
    inMask (withLane x g).2 l = true ↔ inMask g.2 l = true ∨ x = (l, g.1) := by
  obtain ⟨k, b⟩ := x
  unfold withLane
  by_cases hb : g.1 = b
  · simp [hb, inMask_or, inMask_maskOf_singleton k hl]
  · simp [hb, Ne.symm hb]

/-- R218: a lane put into the group of its target, or into a new one. -/
def joinGroup (gs : List (Word × LaneMask)) (x : Nat × Word) : List (Word × LaneMask) :=
  if x.2 ∈ gs.map Prod.fst then gs.map (withLane x) else gs ++ [(x.2, maskOf [x.1])]

theorem groupLanes_concat (xs : List (Nat × Word)) (x : Nat × Word) : groupLanes (xs ++ [x]) = joinGroup (groupLanes xs) x := by
  rw [groupLanes, List.foldl_append, joinGroup]
  refine if_congr ?_ rfl rfl
  simp [groupLanes]

theorem joinGroup_targets (gs : List (Word × LaneMask)) (x : Nat × Word) : (joinGroup gs x).map Prod.fst =
    if x.2 ∈ gs.map Prod.fst then gs.map Prod.fst else gs.map Prod.fst ++ [x.2] := by
  unfold joinGroup
  split
  · rw [List.map_map]
    exact List.map_congr_left fun g _ => withLane_target x g
  · exact List.map_append

/-- The group of a target holds a lane. -/
def GroupHolds (gs : List (Word × LaneMask)) (a : Word) (l : Nat) : Prop := ∃ g ∈ gs, g.1 = a ∧ inMask g.2 l = true

theorem groupHolds_map_withLane (gs : List (Word × LaneMask)) (x : Nat × Word) {a : Word} {l : Nat} (hl : l < 32) :
    GroupHolds (gs.map (withLane x)) a l ↔ ∃ g ∈ gs, g.1 = a ∧ (inMask g.2 l = true ∨ x = (l, a)) := by
  simp only [GroupHolds, List.mem_map, exists_exists_and_eq_and, withLane_target, inMask_withLane x _ hl]
  refine exists_congr fun g => and_congr_right fun _ => and_congr_right fun htarget => ?_
  rw [htarget]

/-- R218: a lane put into a group is in that of its target, and every other lane stays where it was. -/
theorem groupHolds_joinGroup (gs : List (Word × LaneMask)) (x : Nat × Word) {a : Word} {l : Nat} (hl : l < 32) :
    GroupHolds (joinGroup gs x) a l ↔ GroupHolds gs a l ∨ x = (l, a) := by
  unfold joinGroup
  split
  next hknown =>
    rw [groupHolds_map_withLane gs x hl]
    constructor
    · rintro ⟨g, hg, htarget, hin | hx⟩
      · exact .inl ⟨g, hg, htarget, hin⟩
      · exact .inr hx
    · rintro (⟨g, hg, htarget, hin⟩ | rfl)
      · exact ⟨g, hg, htarget, .inl hin⟩
      · obtain ⟨g, hg, htarget⟩ := List.mem_map.1 hknown
        exact ⟨g, hg, htarget, .inr rfl⟩
  next =>
    have hnew : (x.2 = a ∧ inMask (maskOf [x.1]) l = true) ↔ x = (l, a) := by
      rw [inMask_maskOf_singleton x.1 hl, Prod.ext_iff, and_comm]
    simp only [GroupHolds, List.mem_append, List.mem_singleton, or_and_right, exists_or, exists_eq_left, hnew]

/-- R218: a lane is in the group of a target exactly where it has that target. -/
theorem groupHolds_groupLanes (xs : List (Nat × Word)) {a : Word} {l : Nat} (hl : l < 32) :
    GroupHolds (groupLanes xs) a l ↔ (l, a) ∈ xs := by
  induction xs using List.reverseRecOn with
  | nil => simp [groupLanes, GroupHolds]
  | append_singleton xs x ih =>
    rw [groupLanes_concat, groupHolds_joinGroup _ _ hl, ih, List.mem_append, List.mem_singleton, eq_comm (a := x)]

theorem groupLanes_targets_nodup (xs : List (Nat × Word)) : ((groupLanes xs).map Prod.fst).Nodup := by
  induction xs using List.reverseRecOn with
  | nil => exact List.nodup_nil
  | append_singleton xs x ih =>
    rw [groupLanes_concat, joinGroup_targets]
    split
    next => exact ih
    next hnew =>
      rw [← List.concat_eq_append]
      exact ih.concat hnew

theorem Iss.groupHolds_groups (x : Iss) {a : Word} {l : Nat} (hl : l < 32) :
    GroupHolds x.groups a l ↔ l ∈ x.active ∧ opnd (x.vals l) 0 = a := by
  rw [Iss.groups, groupHolds_groupLanes _ hl]
  simp

theorem jumpGroupsPartition : Claims.JumpGroupsPartition := by
  intro x l hl
  have hown {g : Word × LaneMask} (hg : g ∈ x.groups) (hin : inMask g.2 l = true) : l ∈ x.active ∧ opnd (x.vals l) 0 = g.1 :=
    (x.groupHolds_groups hl).1 ⟨g, hg, rfl, hin⟩
  refine ⟨List.contains_iff_mem.trans ⟨fun hact => ?_, fun ⟨g, hg, hin⟩ => (hown hg hin).1⟩,
    fun g hg hin => (hown hg hin).2.symm, groupLanes_targets_nodup _⟩
  obtain ⟨g, hg, -, hin⟩ := (x.groupHolds_groups hl).2 ⟨hact, rfl⟩
  exact ⟨g, hg, hin⟩

/-! ## Rejoin and exit (R214, R215, R224) -/

/-- R214: a `rejoin` whose mark fits. -/
theorem rejoinOp_of_fit {x : Iss} {m : Mark} {ms : List Mark} (hms : x.p.marks = m :: ms) (hdepth : m.depth = x.p.depth)
    (hcount : m.count = x.f.n ∨ (layoutFor x.f.imm m.count).isSome = true) (helse : rejoinElsewhere x m.id = false) :
    let y : Iss := { x with p := { x.p with arrived := true, rejoinAt := x.p.pc, rejoinN := x.f.n, rejoinLayout := x.f.imm } }
    rejoinOp x = (y.goto x.p.pc 1 {}).upd (fun d => fuseWave (d.updWave x.v.uid (fun v =>
      v.updSplit x.p.num (fun p => if p.trapped then p else { p with wait := some 5 }))) x.v.uid) := by
  have hfit : (!(m.depth == x.p.depth && (m.count == (x.f.n : Int) || (layoutFor x.f.imm m.count).isSome)) ||
      rejoinElsewhere x m.id) = false := by
    simp only [Bool.or_eq_false_iff, Bool.not_eq_false', Bool.and_eq_true, Bool.or_eq_true, beq_iff_eq]
    exact ⟨⟨hdepth, hcount⟩, helse⟩
  simp only [rejoinOp, hms]
  exact if_neg (Bool.eq_false_iff.1 hfit)

theorem exitOp_ready {x : Iss} (hg : x.GuardReady) :
    let gone := maskOf x.active
    let y : Iss := { x with p := { x.p with emask := x.p.emask &&& ~~~gone, home := x.p.home &&& ~~~gone } }
    exitOp x = if x.p.home &&& ~~~gone = 0 then splitExits y.done x.v.uid x.p.num else y.done := by
  intro gone y
  rw [exitOp, Iss.guardGate_ready hg]
  simp only [beq_iff_eq]
  rfl

theorem rejoinsAndExits : Claims.RejoinsAndExits :=
  ⟨fun s f _ _ _ h hms hdepth hcount helse => Answers.of_eq h (exec_rejoin f s) (rejoinOp_of_fit hms hdepth hcount helse),
    fun _ _ _ h hg => Answers.of_eq h (k := exitOp) rfl (exitOp_ready hg)⟩

/-! ## Masks, waits and software traps (R225, R227, R228, R403) -/

theorem maskwrOp_ready {x : Iss} (hr : x.Readable ((lanesOf x.p.home).take 1) [[.mask, .i32, .n32]]) :
    let a : LaneMask := (opnd (x.vals ((lanesOf x.p.home).headD 0)) 0).setWidth 32
    maskwrOp x = ({ x with
      v := popInboxes x.v x.srcs, p := { x.p with emask := (a &&& x.p.home) ||| (x.p.emask &&& ~~~x.p.home) } } : Iss).done := by
  have hlow : ((lanesOf x.p.home).take 1).headD 0 = (lanesOf x.p.home).headD 0 := by cases lanesOf x.p.home <;> rfl
  rw [maskwrOp, Iss.gated_ready hr, hlow]

theorem masksAndWaits : Claims.MasksAndWaits :=
  ⟨fun _ _ _ h hr => Answers.of_eq h (k := maskwrOp) rfl (maskwrOp_ready hr),
    fun _ _ _ h => Answers.of_issue h (k := yieldOp) rfl, fun _ _ _ h => Answers.of_issue h (k := sleepOp) rfl⟩

theorem softTrapOp_ready {x : Iss} (hg : x.GuardReady) (code : Nat) :
    softTrapOp code x = if x.active = [] then x.done else x.softTrap code (bits x.f.x13 0 13) 0 := by
  rw [softTrapOp, Iss.guardGate_ready hg]
  simp only [List.isEmpty_iff]

theorem exec_softTrap (f : Form) (b : Bool) (s : State) : exec (if b then .brk f else .trap f) s =
    s.issue (if b then .brk f else .trap f) (softTrapOp (if b then tBreak else tSwtrap)) := by
  cases b <;> rfl

theorem softwareTrapsRaise : Claims.SoftwareTrapsRaise := fun s f _ b h hg =>
  ⟨fun hact => Answers.of_eq h (exec_softTrap f b s) ((softTrapOp_ready hg _).trans (if_pos hact)),
    fun hact => Answers.of_eq h (exec_softTrap f b s) ((softTrapOp_ready hg _).trans (if_neg hact))⟩

end Sys2Proof.Machine

/-- Settles O16: each branch past its gates, by what its operation does there. -/
theorem branchesComplete : Obligations.BranchesComplete := ⟨branchesGo, splitBranchesGo, indirectJumpsGo⟩

/-- Settles O17: the lanes a `brs` takes are in the mask and the home set, and a lane joins only the group of its target. -/
theorem splitsPartitionTheLanes : Obligations.SplitsPartitionTheLanes := ⟨splitBranchesPartition, jumpGroupsPartition⟩

/-- Settles O20: each form past its gates, by what its operation does there. -/
theorem controlFormsComplete : Obligations.ControlFormsComplete := ⟨rejoinsAndExits, masksAndWaits, softwareTrapsRaise⟩

end

section
/-! PROOF. What a step of the machine does to memory (spec/09 R231, log 1): every step is a step in progress or an attempt that
makes one, so each keeps the canonical form; O53. -/

open Sys2Proof
open Sys2Proof.Machine

namespace Sys2Proof.Machine

/-! ## Instructions and steps of the device -/

theorem mailCommand_eq_run (s : State) (code : Nat) (g : Dev → Dev) : ∃ f, mailCommand s code g = s.run f := ⟨_, rfl⟩

/-- A step of the device is a step in progress begun in the state. -/
theorem exec_device {i : Instr} (h : formSpec i = none) (s : State) : ∃ f, exec i s = s.run f := by
  cases i with
  | attest | query | enroll | revoke =>
    rw [exec]
    exact mailCommand_eq_run ..
  | _ => cases h <;> (rw [exec]; exact ⟨_, rfl⟩)

theorem exec_safe {i : Instr} {s t : State} (hs : s.Safe) (h : exec i s = .next t) : t.Safe := by
  cases hspec : formSpec i with
  | some g =>
    obtain ⟨k, hk⟩ := exec_encoded hspec s
    rw [hk] at h
    exact State.run_wf hs h
  | none =>
    obtain ⟨f, hf⟩ := exec_device hspec s
    rw [hf] at h
    exact State.run_wf hs h

theorem firstNext_eq_exec {s : State} {o : Host.Outcome State Fault Refusal} {is : List Instr} (h : firstNext s is = some o) :
    ∃ i ∈ is, exec i s = o := by
  induction is with
  | nil => cases h
  | cons i is ih =>
    rw [firstNext] at h
    split at h
    · cases h
      exact ⟨i, List.mem_cons_self, ‹_›⟩
    · obtain ⟨j, hj, hexec⟩ := ih h
      exact ⟨j, List.mem_cons_of_mem i hj, hexec⟩

/-! ## Attempts to issue (R83) -/

/-- R83: only a live split that may try to issue has a next state to answer. -/
theorem attempt_next {u n : Nat} {s t : State} (h : attempt u n s = .next t) : ∃ v p c,
    s.dev.wave u = some v ∧ v.split n = some p ∧ s.dev.ctx v.ctx = some c ∧ mayTry s.dev v p = true := by
  unfold attempt at h
  split at h
  · cases h
  · rename_i v hv
    split at h
    · rename_i p c hp hc
      cases hmay : mayTry s.dev v p
      · simp [hmay] at h
      · exact ⟨v, p, c, hv, hp, hc, hmay⟩
    · cases h

theorem attempt_safe {u n : Nat} {s t : State} (hs : s.Safe) (h : attempt u n s = .next t) : t.Safe := by
  obtain ⟨v, p, c, hv, hp, hc, hmay⟩ := attempt_next h
  by_cases hfetch : ∃ i, fetchInstr s.work c p.pc = .instr i
  · obtain ⟨i, hi⟩ := hfetch
    rw [attempt_of_instr hv hp hc hmay hi] at h
    refine exec_safe ?_ h
    exact hs
  · rw [attempt_of_stop hv hp hc hmay rfl (fun i hi => hfetch ⟨i, hi⟩)] at h
    cases h
    exact Memory.writeAll_wf hs _

/-! ## The next move (log 3) -/

theorem act_safe {s t : State} (hs : s.Safe) (i : Input) (h : Input.act s i = .next t) : t.Safe := by
  cases i with
  | event i =>
    by_cases hopen : i ≠ .coreCycle ∨ ccOpen s = false
    · rw [Input.act_event hopen] at h
      exact exec_safe hs h
    · obtain ⟨hcycle, hdue⟩ : i = .coreCycle ∧ ccOpen s = true := by simpa using hopen
      simp [hcycle, Input.act, hdue] at h
  | issue u n =>
    rw [Input.act] at h
    split at h
    · cases h
    · split at h
      · cases h
      · exact attempt_safe hs h

theorem byDefault_safe {s t : State} (hs : s.Safe) (h : byDefault s = .next t) : t.Safe := by
  cases hfirst : firstNext s (internalEvents s.dev) with
  | some o =>
    obtain ⟨i, _, hexec⟩ := firstNext_eq_exec hfirst
    exact exec_safe hs (hexec.trans ((byDefault_of_event hfirst).symm.trans h))
  | none =>
    cases htry : nextTry s.dev with
    | some un => exact attempt_safe hs ((byDefault_of_try hfirst htry).symm.trans h)
    | none =>
      rw [byDefault_of_none hfirst htry] at h
      split at h
      · exact exec_safe hs h
      · exact exec_safe hs h

end Sys2Proof.Machine

/-- Settles O53: a step is the agenda's input or the model's own move, and memory changes only by the bytes each writes. -/
theorem stepsKeepMemoryCanonical : Obligations.StepsKeepMemoryCanonical := by
  intro s t hs h
  cases hpow : s.dev.powered <;> cases hagenda : s.dev.agenda
  case true.nil => exact byDefault_safe hs ((step_of_idle hpow hagenda).symm.trans h)
  case true.cons i rest =>
    rw [step_of_agenda hpow hagenda] at h
    refine act_safe ?_ i h
    exact hs
  case false.nil =>
    rw [step_of_unpowered_idle hpow hagenda] at h
    cases h
  case false.cons i rest =>
    rw [step_of_unpowered hpow hagenda] at h
    split at h
    · refine act_safe ?_ i h
      exact hs
    · cases h

end

section
/-! PROOF. Page tables and power-up (spec/09 R244, R254, R255): what a leaf that a walk answers satisfies, and O34; and the values
the package starts with, O52. -/

open Sys2Proof
open Sys2Proof.Machine

namespace Sys2Proof.Machine

/-! ## Leaves (R254, R255) -/

/-- R254, R255: what a walk makes of an entry with V and L set, read at a key on its way through a level. -/
def leafFound (e : Word) (k level : Nat) : Walk :=
  if leafReserved e then .malformed
  else match pageBytes level (pteSize e) with
    | none => .malformed
    | some n => if ptePa e % n = 0 then .leaf e k level n else .malformed

theorem leafFound_eq_leaf {e e' : Word} {k k' level level' n : Nat} (h : leafFound e k level = .leaf e' k' level' n) :
    leafReserved e = false ∧ pageBytes level (pteSize e) = some n ∧ ptePa e % n = 0 ∧ e' = e ∧ k' = k ∧ level' = level := by
  unfold leafFound at h
  split at h
  · cases h
  · rename_i hres
    split at h
    · cases h
    · rename_i m hm
      split at h
      · cases h
        exact ⟨by simpa using hres, hm, ‹_›, rfl, rfl, rfl⟩
      · cases h

/-! ## Walks (R254, R261) -/

/-- R254: the key of the entry that a walk reads in a table at a level. -/
def entryKey (va : VAddr) (l base : Nat) : Nat := kHbm (base + 8 * bits va (12 + 9 * l) 9)

theorem keyRegion_entryKey (va : VAddr) (l base : Nat) : keyRegion (entryKey va l base) = 0 := by
  simp [keyRegion, entryKey, kHbm]

theorem walkFrom_zero (w : Work) (va : VAddr) (base : Nat) : walkFrom w va 0 base =
    if lost w.d (entryKey va 0 base) then .lost (entryKey va 0 base)
    else if !pteV (w.word (entryKey va 0 base)) then .absent
    else if pteL (w.word (entryKey va 0 base)) then leafFound (w.word (entryKey va 0 base)) (entryKey va 0 base) 0
    else .malformed := by
  rw [walkFrom]
  change (if _ then _ else if _ then _ else if !pteL (w.word (entryKey va 0 base)) || _ then _ else _) = _
  cases pteL (w.word (entryKey va 0 base)) <;> rfl

theorem walkFrom_succ (w : Work) (va : VAddr) (l base : Nat) : walkFrom w va (l + 1) base =
    if lost w.d (entryKey va (l + 1) base) then .lost (entryKey va (l + 1) base)
    else if !pteV (w.word (entryKey va (l + 1) base)) then .absent
    else if pteL (w.word (entryKey va (l + 1) base)) then
      leafFound (w.word (entryKey va (l + 1) base)) (entryKey va (l + 1) base) (l + 1)
    else if tableReserved (w.word (entryKey va (l + 1) base)) then .malformed
    else walkFrom w va l (ptePa (w.word (entryKey va (l + 1) base))) := rfl

/-- R254, R255: a leaf that a walk from a level on may answer. -/
structure GoodLeaf (w : Work) (l : Nat) (e : Word) (k level n : Nat) : Prop where
  valid : pteV e = true
  leaf : pteL e = true
  plain : leafReserved e = false
  below : level ≤ l
  size : pageBytes level (pteSize e) = some n
  aligned : ptePa e % n = 0
  inHbm : keyRegion k = 0
  stored : w.word k = e

/-- R254: an entry with V and L set, where a walk finds it a leaf, is a good one. -/
theorem goodLeaf_of_leafFound {w : Work} {va : VAddr} {l base : Nat} {e : Word} {k level n : Nat}
    (hv : pteV (w.word (entryKey va l base)) = true) (hl : pteL (w.word (entryKey va l base)) = true)
    (h : leafFound (w.word (entryKey va l base)) (entryKey va l base) l = .leaf e k level n) : GoodLeaf w l e k level n := by
  obtain ⟨hplain, hsize, haligned, rfl, rfl, rfl⟩ := leafFound_eq_leaf h
  exact ⟨hv, hl, hplain, Nat.le_refl _, hsize, haligned, keyRegion_entryKey .., rfl⟩

theorem goodLeaf_of_walkFrom {w : Work} {va : VAddr} {l base : Nat} {e : Word} {k level n : Nat}
    (h : walkFrom w va l base = .leaf e k level n) : GoodLeaf w l e k level n := by
  induction l generalizing base with
  | zero =>
    rw [walkFrom_zero] at h
    split at h
    · cases h
    · split at h
      · cases h
      · rename_i hv
        split at h
        · exact goodLeaf_of_leafFound (by simpa using hv) ‹_› h
        · cases h
  | succ l ih =>
    rw [walkFrom_succ] at h
    split at h
    · cases h
    · split at h
      · cases h
      · rename_i hv
        split at h
        · exact goodLeaf_of_leafFound (by simpa using hv) ‹_› h
        · split at h
          · cases h
          · have hlower := ih h
            exact { hlower with below := Nat.le_succ_of_le hlower.below }

/-! ## Page sizes (R254) -/

theorem pageBytes_zero (size n : Nat) : pageBytes 0 size = some n ↔
    (size, n) ∈ [(0, 4096), (1, 16384), (2, 65536), (3, 262144)] := by
  by_cases h : size ≤ 3
  · interval_cases size <;> simp [pageBytes, eq_comm]
  · simp [pageBytes, h]
    omega

theorem pageBytes_one (size n : Nat) : pageBytes 1 size = some n ↔
    (size, n) ∈ [(0, 2097152), (1, 33554432), (2, 536870912)] := by
  by_cases h : size ≤ 2
  · interval_cases size <;> simp [pageBytes, eq_comm]
  · simp [pageBytes, h]
    omega

theorem pageBytes_eq_some (level size n : Nat) : pageBytes level size = some n ↔
    (level = 0 ∧ (size, n) ∈ [(0, 4096), (1, 16384), (2, 65536), (3, 262144)]) ∨
    (level = 1 ∧ (size, n) ∈ [(0, 2097152), (1, 33554432), (2, 536870912)]) ∨
    (level = 2 ∧ size = 0 ∧ n = 1073741824) := by
  match level with
  | 0 => simpa using pageBytes_zero size n
  | 1 => simpa using pageBytes_one size n
  | 2 => simp [pageBytes, eq_comm]
  | _ + 3 => simp [pageBytes]

/-! ## The package at power-up (R244, R281, R354, R395) -/

/-- Every place of a list of equal elements, and every place past its end, holds that element. -/
theorem getD_replicate_same {α : Type} (a : α) (n k : Nat) : (List.replicate n a).getD k a = a := by
  rw [List.getD_eq_getElem?_getD, List.getElem?_getD_replicate_default_eq]

theorem endpoint_reset (e : Nat) : MeshState.reset.endpoint e = Endpoint.reset := getD_replicate_same ..

theorem core_reset (k : Nat) : Dev.reset.core k = Core.reset := getD_replicate_same ..

theorem mesh_reset (m : Mesh) : Dev.reset.mesh m = MeshState.reset := by cases m <;> rfl

end Sys2Proof.Machine

/-- Settles O34: by induction on the levels a walk has to go; and the sizes of each level. -/
theorem walksFindLeaves : Obligations.WalksFindLeaves := by
  refine ⟨fun w va l base e k level n h => ?_, pageBytes_eq_some⟩
  obtain ⟨hvalid, hleaf, hplain, hbelow, hsize, haligned, hregion, hstored⟩ := goodLeaf_of_walkFrom h
  exact ⟨hvalid, hleaf, hplain, hbelow, hsize, haligned, hregion, hstored⟩

/-- Settles O52: the state at power-good, field by field; every endpoint and every core stands as at reset. -/
theorem resetHoldsPowerUpValues : Obligations.ResetHoldsPowerUpValues := by
  refine ⟨Memory.empty_wf, rfl, ⟨rfl, rfl, rfl, rfl, rfl, rfl, rfl, rfl, rfl, fun m e => ?_, fun k => ?_⟩,
    fun c b f r => ⟨rfl, rfl, rfl, rfl⟩⟩
  · rw [State.reset, mesh_reset, endpoint_reset]
    exact ⟨rfl, rfl, rfl⟩
  · rw [State.reset, core_reset]
    exact ⟨rfl, rfl⟩

end

section
/-! PROOF. The steps of the memory system that no instruction issues (spec/09 R240, R244, R256, R257, R261, spec/14 R385, R386):
walks, invalidations, counted requests, fills, evictions, images spilled and soft errors; and O40. -/

open Sys2Proof
open Sys2Proof.Machine

namespace Sys2Proof.Machine

/-! ## Walks and invalidations (R256, R257, R385) -/

theorem tableWalkComplete_answers {s : State} {u q : Nat} {w : Work} (h : xlateRec (beginWalk s.work u q) u q false = some w) :
    Answers s (.tableWalkComplete u q) (settleWave w u) := by
  show execTableWalkComplete u q s = _
  refine State.run_ok ?_
  simp only [h]

/-- R385: the record entry of an invalidation's own `tlbinv` leaves its wave. -/
def Inval.dropRec (i : Inval) (d : Dev) : Dev := match i.wave with
  | some (u, q) => d.updWave u (fun v => v.dropRec q)
  | none => d

theorem tlbinvComplete_answers {s : State} {k : Nat} {i : Inval} (hi : s.dev.invals[k]? = some i)
    (hlanded : i.pending.all (fun p => !notLanded s.dev p) = true)
    (hinj : ∀ x, i.wave = some x → uninjected s.dev x.1 x.2 = false) :
    let w := releaseRange (s.work.upd (fun d => i.dropRec { d with invals := d.invals.eraseIdx k })) i
    Answers s (.tlbinvComplete k) (match i.wave with
      | some (u, _) => settleWave w u
      | none => w) := by
  have hpending : i.pending.any (notLanded s.dev) = false := by
    rw [List.any_eq_not_all_not, hlanded]
    rfl
  have hsent : (i.wave.map (fun x => uninjected s.dev x.1 x.2)).getD false = false := by
    cases hw : i.wave with
    | none => rfl
    | some x => exact hinj x hw
  show execTlbinvComplete k s = _
  refine State.run_ok ?_
  simp only [State.work_d, hi, hpending, hsent, Bool.false_eq_true, if_false]
  rfl

theorem hostInvalidation_answers {s : State} {c : Nat} {va : VAddr} {size : Nat} (hc : (s.dev.ctx c).isSome = true)
    (hva : va.toNat % 4096 = 0) (hsize : size % 4096 = 0) :
    Answers s (.hostInvalidation c va size) (s.work.upd (fun d => startInval d c va.toNat size none)) := by
  show execHostInvalidation c va size s = _
  refine State.run_ok ?_
  simp [Option.isNone_iff_eq_none, Option.ne_none_iff_isSome.2 hc, hva, hsize]

/-- R257: whether a translation stays in its cache when an invalidation begins. -/
def keptBy (c lo size : Nat) (e : TlbEntry) : Bool :=
  !(e.ctx == c && (size == 0 || (decide (lo < e.page + e.size) && decide (e.page < lo + size))))

/-- R257: a core that keeps some of its translations. -/
def Core.keepTlb (keep : TlbEntry → Bool) (c : Core) : Core := { c with tlb := c.tlb.filter keep }

theorem tlb_startInval (d : Dev) (c lo size k : Nat) (x : Option (Nat × Nat)) :
    ((startInval d c lo size x).core k).tlb = (d.core k).tlb.filter (keptBy c lo size) :=
  congrArg Core.tlb (List.getD_map d.cores Core.reset (Core.keepTlb (keptBy c lo size)))

/-- R257: once an invalidation of some bytes has begun, no core holds a translation of its context that meets them. -/
theorem tlb_outside_of_startInval {d : Dev} {c lo size k : Nat} {x : Option (Nat × Nat)} {e : TlbEntry}
    (he : e ∈ ((startInval d c lo size x).core k).tlb) (hctx : e.ctx = c) (hsize : size ≠ 0) :
    ¬ (lo < e.page + e.size ∧ e.page < lo + size) := by
  rw [tlb_startInval] at he
  have hkept : keptBy c lo size e = true := (List.mem_filter.1 he).2
  have hapart : e.page + e.size ≤ lo ∨ lo + size ≤ e.page := by simpa [keptBy, hctx, hsize] using hkept
  omega

/-! ## Counted requests (R259, R386, R387) -/

/-- The first element of a list that has a property, with its place. -/
theorem find?_enum {α : Type} {p : α → Bool} {l : List α} {i : Nat} {x : α} (hx : l[i]? = some x) (hp : p x = true)
    (hbefore : ∀ j y, j < i → l[j]? = some y → p y = false) : (enum l).find? (fun ix => p ix.2) = some (i, x) := by
  have hlt : i < l.length := (List.getElem?_eq_some_iff.1 hx).1
  obtain ⟨hi, hget⟩ := List.getElem?_eq_some_iff.1 ((getElem?_enum l i).trans (congrArg _ hx))
  refine List.find?_eq_some_iff_getElem.2 ⟨hp, i, hi, hget, fun j hj => ?_⟩
  have hentry : (enum l)[j].2 = l[j] := by simp [enum]
  rw [hentry, hbefore j _ hj (List.getElem?_eq_getElem _)]
  rfl

theorem countedRequest_answers {s : State} {i : Nat} {x : Counted} (hx : s.dev.counted[i]? = some x)
    (hdue : resetDue s.dev x = false) (hbefore : ∀ j y, j < i → s.dev.counted[j]? = some y → resetDue s.dev y = true) :
    Answers s .countedRequest (countRequest (s.work.upd (fun d => { d with counted := d.counted.eraseIdx i })) x) := by
  show execCountedRequest s = _
  refine State.run_ok ?_
  have hfind : (enum s.dev.counted).find? (fun ix => !resetDue s.dev ix.2) = some (i, x) :=
    find?_enum (p := fun x => !resetDue s.dev x) hx (by rw [hdue]; rfl) (fun j y hj hy => by rw [hbefore j y hj hy]; rfl)
  simp only [State.work_d, hfind]

/-! ## Fills (R240, R241) -/

/-- R240, R241: a core that a fill of a line has reached, which installs it or not. -/
def Core.fill (line : Nat) (install : Bool) (c : Core) : Core := { c with
  misses := c.misses.filter (fun x => x.line != line)
  l1 := if install then l1Install c.l1 line else c.l1 }

/-- R240, R241: the device once the fill of a miss has arrived. -/
def fillLine (d : Dev) (core line : Nat) (m : Miss) : Dev :=
  let d' := d.updCore core (Core.fill line (decide (m.epoch = (d.core core).epoch)))
  let waits (u q : Nat) : Bool := (d'.core core).misses.any (fun x => x.joined.contains (u, q))
  m.joined.foldl (fun d j => d.updWave j.1 (fun v => v.updRec j.2 (fun r => r.filled (!waits j.1 j.2)))) d'

theorem l1Fill_answers {s : State} {core line : Nat} {m : Miss}
    (hm : (s.dev.core core).misses.find? (fun m => m.line == line) = some m) :
    Answers s (.l1Fill core line) (s.work.upd (fun d => fillLine d core line m)) := by
  show execL1Fill core line s = _
  refine State.run_ok ?_
  simp only [State.work_d, hm]
  rfl

theorem fillLine_cores (d : Dev) (core line : Nat) (m : Miss) : (fillLine d core line m).cores =
    (d.updCore core (Core.fill line (decide (m.epoch = (d.core core).epoch)))).cores := by
  refine foldl_keeps (g := Dev.cores) ?_ m.joined _
  exact fun _ _ => rfl

theorem misses_fillLine {d : Dev} {core line : Nat} (m : Miss) (hcore : core < d.cores.length) :
    ((fillLine d core line m).core core).misses = (d.core core).misses.filter (fun x => x.line != line) := by
  rw [Dev.core, fillLine_cores, ← Dev.core, Dev.core_updCore, if_pos ⟨rfl, hcore⟩, Core.fill]

/-! ## Evictions (R245, R247, R261) -/

/-- R245, R247, R309: what the LLC and the bridges hold of lines: presence vectors, visitor lines and dirty bytes. -/
def Dev.lines (d : Dev) : List Dir × List Visitor × List DirtyByte := (d.dirs, d.visitors, d.dirty)

theorem raise_lines (d : Dev) (t : Trap) : (raise d t).lines = d.lines := by
  unfold raise
  split <;> rfl

theorem taskTrap_lines (d : Dev) (task code addr : Nat) : (taskTrap d task code addr).lines = d.lines := by
  unfold taskTrap
  split
  · rfl
  · split
    · rfl
    · split
      · split <;> exact raise_lines ..
      · rfl

theorem writeBack_lines (d : Dev) (line : Nat → Bool) :
    (writeBack d line).lines = (d.dirs, d.visitors, d.dirty.filter (fun c => !line (lineOf c.key))) :=
  foldl_keeps (fun _ _ => taskTrap_lines ..) _ _

/-- R245: the device once a line has left the LLC. -/
def evictLine (d : Dev) (line : Nat) : Dev := writeBack { d with
  dirs := d.dirs.filter (fun x => x.line != line), visitors := d.visitors.filter (fun x => x.line != line) } (· == line)

theorem evictLine_lines (d : Dev) (line : Nat) : (evictLine d line).lines =
    (d.dirs.filter (fun x => x.line != line), d.visitors.filter (fun x => x.line != line),
      d.dirty.filter (fun c => !(lineOf c.key == line))) :=
  writeBack_lines ..

theorem llcEviction_answers {s : State} {line : Nat} (h : (∃ x ∈ s.dev.dirs, x.line = line) ∨
    (∃ c ∈ s.dev.dirty, lineOf c.key = line) ∨ ∃ x ∈ s.dev.visitors, x.line = line) :
    Answers s (.llcEviction line) (s.work.upd (fun d => evictLine d line)) := by
  have hheld : (!s.dev.dirs.any (fun x => x.line == line) && !s.dev.dirty.any (fun c => lineOf c.key == line) &&
      !s.dev.visitors.any (fun x => x.line == line)) = false := by
    simp only [Bool.and_eq_false_iff, Bool.not_eq_false', List.any_eq_true, beq_iff_eq]
    exact or_assoc.2 h
  show execLlcEviction line s = _
  refine State.run_ok ?_
  rw [State.work_d, if_neg (by rw [hheld]; exact Bool.false_ne_true)]
  rfl

/-! ## Images in the Toybox (R244) -/

theorem toyboxSpill_answers {s : State} {task : Nat} {t : Task} {i : Image} (ht : s.dev.task task = some t) (hi : t.image = some i)
    (hleft : i.spilled < i.size) (hfull : 2097152 * (s.dev.toyboxPending.getD s.dev.toybox) < toyboxUsed s.dev)
    (hgood : i.bad = false) :
    Answers s (.toyboxSpill task) (s.work.upd (fun d => d.updTask task (fun t => { t with
      image := some { i with spilled := i.spilled + slicePart i } }))) := by
  show execToyboxSpill task s = _
  refine State.run_ok ?_
  simp [ht, hi, Nat.not_le.2 hleft, Nat.not_le.2 hfull, hgood]

/-! ## Soft errors (R261, R439) -/

/-- R439: the device once an error of a unit has been corrected. -/
def errorCorrected (d : Dev) (part : Part) : Dev :=
  let (m, n) := countError { d.mg with ceCount := (d.mg.ceCount + 1) % 2 ^ 64 } part d.cc
  { d with mg := if mappable part && 256 ≤ n then markFailing m part else m }

/-- R261, R439: an uncorrectable error of a unit counted; one of a unit that cannot be mapped out asks for a replacement. -/
def countUncorrectable (m : Mgmt) (part : Part) : Mgmt :=
  let m := { m with ueCount := (m.ueCount + 1) % 2 ^ 64 }
  if mappable part then m else { m with replace := true }

/-- R261, R415: the device once a byte of a unit has been found uncorrectable. -/
def errorFound (d : Dev) (part : Part) (addr : Nat) : Dev :=
  let d := { d with mg := countUncorrectable d.mg part }
  if keyRegion addr = 7 then d.updTask (keyOffset addr) (fun t => { t with image := t.image.map (fun i => { i with bad := true }) })
  else { d with bad := if d.bad.contains (eccUnit addr) then d.bad else eccUnit addr :: d.bad }

theorem softErrorCorrection_answers {s : State} {p : Part} {a : Nat} {ok : Bool} (h : ok = true ∨ partHolds p a = true) :
    Answers s (.softErrorCorrection p a ok)
      (s.work.upd (fun d => if ok then errorCorrected d p else errorFound d p a)) := by
  have hmay : (!ok && !partHolds p a) = false := by
    rcases h with h | h <;> simp [h]
  show execSoftErrorCorrection p a ok s = _
  refine State.run_ok ?_
  rw [if_neg (by rw [hmay]; exact Bool.false_ne_true)]
  rfl

theorem errorCorrected_ueCount (d : Dev) (part : Part) : (errorCorrected d part).mg.ueCount = d.mg.ueCount := by
  simp only [errorCorrected]
  split <;> rfl

theorem errorFound_ueCount (d : Dev) (part : Part) (addr : Nat) :
    (errorFound d part addr).mg.ueCount = (d.mg.ueCount + 1) % 2 ^ 64 := by
  have hcount : (countUncorrectable d.mg part).ueCount = (d.mg.ueCount + 1) % 2 ^ 64 := by
    rw [countUncorrectable]
    split <;> rfl
  unfold errorFound
  split <;> exact hcount

theorem eccUnit_mem_errorFound {d : Dev} {part : Part} {addr : Nat} (h : keyRegion addr ≠ 7) :
    eccUnit addr ∈ (errorFound d part addr).bad := by
  simp only [errorFound, if_neg h]
  split
  · exact List.contains_iff_mem.1 ‹_›
  · exact List.mem_cons_self

end Sys2Proof.Machine

/-- Settles O40: each step by what it answers, and what the fills, evictions and errors leave. -/
theorem memorySystemSteps : Obligations.MemorySystemSteps := by
  refine ⟨fun s u q w => tableWalkComplete_answers, fun s k i => tlbinvComplete_answers,
    fun s c va size hc hva hsize => ⟨hostInvalidation_answers hc hva hsize, fun core e => tlb_outside_of_startInval⟩,
    fun s i x => countedRequest_answers, fun s core line m hm => ?fill, fun s line h => ?eviction,
    fun s task t i => toyboxSpill_answers, fun s p a ok h => ?softError⟩
  case fill =>
    refine ⟨_, l1Fill_answers hm, keepsMemory_of_ws rfl, fun hcore x hx => ?_⟩
    rw [Work.upd_d, State.work_d, misses_fillLine m hcore] at hx
    exact bne_iff_ne.1 (List.mem_filter.1 hx).2
  case eviction =>
    obtain ⟨hdirs, hvisitors, hdirty⟩ : (evictLine s.dev line).dirs = _ ∧ (evictLine s.dev line).visitors = _ ∧
      (evictLine s.dev line).dirty = _ := by simpa only [Dev.lines, Prod.mk.injEq] using evictLine_lines s.dev line
    refine ⟨_, llcEviction_answers h, keepsMemory_of_ws rfl, hdirs, hvisitors, fun c hc => ?_⟩
    rw [Work.upd_d, State.work_d, hdirty] at hc
    simpa using (List.mem_filter.1 hc).2
  case softError =>
    refine ⟨_, softErrorCorrection_answers h, keepsMemory_of_ws rfl, ?_, ?_⟩
    · rintro rfl
      exact ⟨rfl, errorCorrected_ueCount ..⟩
    · rintro rfl
      exact ⟨errorFound_ueCount .., eccUnit_mem_errorFound⟩

end

section
/-! PROOF. The memory model (spec/10 R263, R264, R266, R269): what the versions hold after a store, what a commit writes home, and
what a load of a committed byte returns; and O27. -/

open Sys2Proof
open Sys2Proof.Machine

namespace Sys2Proof.Machine

/-! ## Versions (R264, R266) -/

/-- R266: the version byte of a byte stored. -/
def storedByte (core ctx task wave at_ fence serial : Nat) (b : Host.Cell) : VerByte :=
  { core, ctx, task, wave, at_, serial, addr := b.1, val := b.2, fence, restored := false }

section Store
variable {core ctx task wave at_ fence : Nat}

theorem storeVersion_vers (d : Dev) (bs : List Host.Cell) : (storeVersion d core ctx task wave at_ fence bs).vers =
    bs.map (storedByte core ctx task wave at_ fence (d.storeSerial + 1)) ++ d.vers := by
  simp only [storeVersion, foldl_keeps (g := Dev.storeSerial) (f := fun d _ => count d core ctx 7) fun _ _ => rfl,
    foldl_keeps (g := Dev.vers) (f := fun d _ => count d core ctx 7) fun _ _ => rfl]
  rfl

theorem storeVersion_home (d : Dev) (bs : List Host.Cell) : (storeVersion d core ctx task wave at_ fence bs).home = d.home :=
  foldl_keeps (g := Dev.home) (f := fun d _ => count d core ctx 7) (fun _ _ => rfl) _ d

theorem storeVersion_waves (d : Dev) (bs : List Host.Cell) : (storeVersion d core ctx task wave at_ fence bs).waves = d.waves :=
  foldl_keeps (g := Dev.waves) (f := fun d _ => count d core ctx 7) (fun _ _ => rfl) _ d

theorem storeVersion_storeSerial (d : Dev) (bs : List Host.Cell) :
    (storeVersion d core ctx task wave at_ fence bs).storeSerial = d.storeSerial + 1 :=
  congrArg (· + 1) (foldl_keeps (g := Dev.storeSerial) (f := fun d _ => count d core ctx 7) (fun _ _ => rfl) _ d)

end Store

/-! ## The latest store of an address (R266, R269) -/

section Latest
variable {vs : List VerByte} {n a : Nat} {x y : VerByte}

theorem latestStore_concat_of_not (h : ¬ (y.addr = a ∧ y.serial ≤ n)) : latestStore (vs ++ [y]) n a = latestStore vs n a := by
  rw [latestStore, List.foldl_concat, if_neg (by simpa using h)]
  rfl

theorem latestStore_concat_of_later (ha : y.addr = a) (hn : y.serial ≤ n) (h : ∀ o, latestStore vs n a = some o → o.serial < y.serial) :
    latestStore (vs ++ [y]) n a = some y := by
  rw [latestStore, List.foldl_concat, if_pos (by simp [ha, hn])]
  split
  · exact if_pos (h _ ‹_›)
  · rfl

theorem latestStore_concat_of_older {o : VerByte} (ho : latestStore vs n a = some o) (h : y.serial ≤ o.serial) :
    latestStore (vs ++ [y]) n a = some o := by
  by_cases hy : y.addr = a ∧ y.serial ≤ n
  · rw [latestStore, List.foldl_concat, if_pos (by simp [hy])]
    rw [latestStore] at ho
    simp only [ho, if_neg (Nat.not_lt.2 h)]
  · rw [latestStore_concat_of_not hy, ho]

theorem latestStore_some {o : VerByte} (h : latestStore vs n a = some o) : o ∈ vs ∧ o.addr = a ∧ o.serial ≤ n := by
  refine List.foldlRecOn (motive := fun b => ∀ o, b = some o → o ∈ vs ∧ o.addr = a ∧ o.serial ≤ n) vs _ (by simp) ?_ o h
  intro b ih y hy o ho
  split at ho
  case isFalse => exact ih o ho
  case isTrue hmatch =>
    have hmine : y ∈ vs ∧ y.addr = a ∧ y.serial ≤ n := by simpa [hy] using hmatch
    split at ho
    · split at ho <;> cases ho
      · exact hmine
      · exact ih _ rfl
    · cases ho
      exact hmine

/-- The one store of an address that has the greatest serial is the latest. -/
theorem latestStore_eq_some (hx : x ∈ vs) (hn : x.serial ≤ n) (h : ∀ u ∈ vs, u.addr = x.addr → u ≠ x → u.serial < x.serial) :
    latestStore vs n x.addr = some x := by
  induction vs using List.reverseRecOn with
  | nil => simp at hx
  | append_singleton vs y ih =>
    have hbefore : ∀ u ∈ vs, u.addr = x.addr → u ≠ x → u.serial < x.serial := fun u hu => h u (List.mem_append_left _ hu)
    have hlast : y.addr = x.addr → y ≠ x → y.serial < x.serial := h y (by simp)
    by_cases hxs : x ∈ vs
    · have hsome := ih hxs hbefore
      by_cases hy : y.addr = x.addr
      · refine latestStore_concat_of_older hsome ?_
        by_cases hyx : y = x
        · rw [hyx]
        · exact (hlast hy hyx).le
      · rw [latestStore_concat_of_not (fun hmatch => hy hmatch.1), hsome]
    · obtain rfl : x = y := by simpa [hxs] using hx
      refine latestStore_concat_of_later rfl hn fun o ho => ?_
      obtain ⟨hmem, haddr, -⟩ := latestStore_some ho
      exact hbefore o hmem haddr fun heq => hxs (heq ▸ hmem)

end Latest

/-- R266: bytes stored at once at different addresses after every store of the device are each the latest of its address. -/
theorem latestStore_storeVersion {d : Dev} {bs : List Host.Cell} (core ctx task wave at_ fence : Nat) (hbs : (bs.map Prod.fst).Nodup)
    (hd : ∀ v ∈ d.vers, v.serial ≤ d.storeSerial) {b : Host.Cell} (hb : b ∈ bs) :
    latestStore (storeVersion d core ctx task wave at_ fence bs).vers (d.storeSerial + 1) b.1 =
      some (storedByte core ctx task wave at_ fence (d.storeSerial + 1) b) := by
  rw [storeVersion_vers]
  refine latestStore_eq_some (List.mem_append_left _ (List.mem_map_of_mem hb)) le_rfl fun u hu haddr hne => ?_
  rcases List.mem_append.1 hu with hnew | hold
  · obtain ⟨c, hc, rfl⟩ := List.mem_map.1 hnew
    exact absurd (congrArg _ (List.inj_on_of_nodup_map hbs hc hb haddr)) hne
  · exact Nat.lt_succ_of_le (hd u hold)

theorem storesGoToTheirVersion : Claims.StoresGoToTheirVersion := by
  intro d core ctx task wave at_ fence bs
  refine ⟨⟨_, storeVersion_vers d bs, ?_, ?_⟩, fun hbs hd a b hb => ?_, storeVersion_home d bs, storeVersion_waves d bs,
    storeVersion_storeSerial d bs⟩
  · rw [List.map_map]
    exact List.map_id bs
  · intro v hv
    obtain ⟨b, -, rfl⟩ := List.mem_map.1 hv
    exact ⟨rfl, rfl, rfl, rfl, rfl⟩
  · rw [storeVersion_storeSerial, latestStore_storeVersion core ctx task wave at_ fence hbs hd hb]
    rfl

/-! ## Home-side watchpoints of live waves (R431) -/

/-- R431: no home-side watchpoint of a device belongs to a wave that has exited. -/
def Dev.OwnersLive (d : Dev) : Prop := ∀ c ∈ d.ctxs, ∀ e ∈ c.hwatch, ownerExited d c e = false

/-- A step in progress that has kept another's bytes, versions, contexts and exits. -/
structure Work.KeepsBytes (w' w : Work) : Prop where
  byte : w'.byte = w.byte
  vers : w'.d.vers = w.d.vers
  ctxs : w'.d.ctxs = w.d.ctxs
  exited : ownerExited w'.d = ownerExited w.d

theorem Work.KeepsBytes.ownersLive {w' w : Work} (h : w'.KeepsBytes w) (hlive : w.d.OwnersLive) : w'.d.OwnersLive := by
  rw [Dev.OwnersLive, h.ctxs, h.exited]
  exact hlive

/-- R431: what the log of a match sets of a wave decides no exit. -/
theorem ownerExited_noted (d : Dev) (p : Wave → Bool) (note : Option (Nat × Nat)) :
    ownerExited { d with waves := updWhere p (fun v => { v with homeWatch := note }) d.waves } = ownerExited d := by
  funext c e
  have hwave : ∀ v : Wave, (watchOwner c e (if p v then { v with homeWatch := note } else v) &&
      (if p v then { v with homeWatch := note } else v).exited) = (watchOwner c e v && v.exited) := by
    intro v
    split <;> rfl
  simp only [ownerExited, updWhere, List.any_map, Function.comp_def, hwave]
  rfl

/-- R431: where no watchpoint's wave has exited, the matches of a written byte are noted in waves and change nothing else. -/
theorem homeWatch_keepsBytes {w : Work} (hlive : w.d.OwnersLive) (writer k : Nat) : (homeWatch w writer k).KeepsBytes w := by
  refine List.foldlRecOn (motive := fun w' : Work => w'.KeepsBytes w) w.d.ctxs _ ⟨rfl, rfl, rfl, rfl⟩ fun w₁ h₁ c hc =>
    List.foldlRecOn (motive := fun w' : Work => w'.KeepsBytes w) c.hwatch _ h₁ fun w' h e he => ?_
  split
  case isTrue => exact h
  case isFalse =>
    rw [if_neg (by rw [h.exited, hlive c hc e he]; exact Bool.false_ne_true)]
    exact ⟨h.byte, h.vers, h.ctxs, (ownerExited_noted ..).trans h.exited⟩

/-! ## Commits (R263, R266) -/

/-- R263, R266, R431: a commit under a serial writes one byte of a version home. -/
def commitByte (core serial : Nat) (w : Work) (v : VerByte) : Work :=
  homeWatch (w.home { serial, core, addr := v.addr, old := 0, wave := v.wave, stored := v.serial, fence := v.fence }
    (some v.task) v.val) v.ctx v.addr

section Commit
variable {core serial : Nat} {w : Work} {vs : List VerByte}

theorem commitByte_byte (hlive : w.d.OwnersLive) (v : VerByte) (a : Nat) :
    (commitByte core serial w v).byte a = if a = v.addr then v.val else w.byte a := by
  rw [commitByte, (homeWatch_keepsBytes (w := w.home ..) hlive ..).byte]
  exact Work.byte_put ..

theorem commitByte_vers (hlive : w.d.OwnersLive) (v : VerByte) : (commitByte core serial w v).d.vers = w.d.vers :=
  (homeWatch_keepsBytes (w := w.home ..) hlive ..).vers

theorem commitByte_ownersLive (hlive : w.d.OwnersLive) (v : VerByte) : (commitByte core serial w v).d.OwnersLive :=
  (homeWatch_keepsBytes (w := w.home ..) hlive ..).ownersLive hlive

theorem commitBytes_ownersLive (hlive : w.d.OwnersLive) (vs : List VerByte) : (vs.foldl (commitByte core serial) w).d.OwnersLive :=
  List.foldlRecOn (motive := fun w' : Work => w'.d.OwnersLive) vs _ hlive fun _ h v _ => commitByte_ownersLive h v

theorem commitBytes_vers (hlive : w.d.OwnersLive) (vs : List VerByte) : (vs.foldl (commitByte core serial) w).d.vers = w.d.vers := by
  induction vs using List.reverseRecOn with
  | nil => rfl
  | append_singleton vs v ih => rw [List.foldl_concat, commitByte_vers (commitBytes_ownersLive hlive vs), ih]

theorem commitBytes_concat_byte (hlive : w.d.OwnersLive) (vs : List VerByte) (v : VerByte) (a : Nat) :
    ((vs ++ [v]).foldl (commitByte core serial) w).byte a =
      if a = v.addr then v.val else (vs.foldl (commitByte core serial) w).byte a := by
  rw [List.foldl_concat, commitByte_byte (commitBytes_ownersLive hlive vs)]

theorem commitBytes_byte_of_ne (hlive : w.d.OwnersLive) {a : Nat} (h : ∀ v ∈ vs, v.addr ≠ a) :
    (vs.foldl (commitByte core serial) w).byte a = w.byte a := by
  induction vs using List.reverseRecOn with
  | nil => rfl
  | append_singleton vs v ih =>
    rw [commitBytes_concat_byte hlive, if_neg (h v (by simp)).symm, ih fun u hu => h u (List.mem_append_left _ hu)]

/-- R266: of the bytes a commit writes home in store order, the one stored last at an address stands there. -/
theorem commitBytes_byte_of_latest (hlive : w.d.OwnersLive) (hsorted : vs.Pairwise (fun u v => u.serial ≤ v.serial)) {v : VerByte}
    (hv : v ∈ vs) (hlast : ∀ u ∈ vs, u.addr = v.addr → u ≠ v → u.serial < v.serial) :
    (vs.foldl (commitByte core serial) w).byte v.addr = v.val := by
  induction vs using List.reverseRecOn with
  | nil => simp at hv
  | append_singleton vs u ih =>
    obtain ⟨hvs, -, hu⟩ := List.pairwise_append.1 hsorted
    rw [commitBytes_concat_byte hlive]
    by_cases huv : u = v
    · rw [if_pos (by rw [huv]), huv]
    · have hmem : v ∈ vs := by simpa [Ne.symm huv] using hv
      have haddr : u.addr ≠ v.addr := fun haddr =>
        absurd (hlast u (by simp) haddr huv) (Nat.not_lt.2 (hu v hmem u (by simp)))
      rw [if_neg haddr.symm, ih hvs hmem fun x hx => hlast x (List.mem_append_left _ hx)]

end Commit

theorem sortBy_eq_insertionSort {α : Type} (key : α → Nat) (l : List α) :
    sortBy key l = l.insertionSort (fun x y => key x ≤ key y) := by
  have hinsert : ∀ (x : α) (l : List α), insertBy key x l = l.orderedInsert (fun x y => key x ≤ key y) x := by
    intro x l
    induction l with
    | nil => rfl
    | cons y l ih => rw [insertBy, List.orderedInsert, ih]
  induction l with
  | nil => rfl
  | cons x l ih => rw [sortBy, List.insertionSort_cons, ih, hinsert]

theorem mem_sortBy {α : Type} {key : α → Nat} {l : List α} {x : α} : x ∈ sortBy key l ↔ x ∈ l := by
  rw [sortBy_eq_insertionSort, List.mem_insertionSort]

theorem pairwise_sortBy {α : Type} (key : α → Nat) (l : List α) : (sortBy key l).Pairwise (fun x y => key x ≤ key y) := by
  have htotal : Std.Total (fun x y => key x ≤ key y) := ⟨fun x y => Nat.le_total (key x) (key y)⟩
  have htrans : IsTrans α (fun x y => key x ≤ key y) := ⟨fun _ _ _ => Nat.le_trans⟩
  rw [sortBy_eq_insertionSort]
  exact List.pairwise_insertionSort _ l

/-- R266: the version bytes that the commit in progress on a core writes, in store order. -/
def commitList (d : Dev) (core : Nat) : List VerByte :=
  sortBy VerByte.serial (d.vers.filter (fun v => v.core == core && committing d core v.at_))

theorem mem_commitList {d : Dev} {core : Nat} {v : VerByte} :
    v ∈ commitList d core ↔ v ∈ d.vers ∧ (v.core == core && committing d core v.at_) = true := by
  rw [commitList, mem_sortBy, List.mem_filter]

theorem holdLines_vers (d : Dev) (lines : List Nat) : (holdLines d lines).vers = d.vers :=
  foldl_keeps (g := Dev.vers) (f := fun d line => holdLine d line 0) (fun _ _ => rfl) lines d

/-- R263: the device once a commit has its serial, before it writes. -/
def openCommit (w : Work) : Work :=
  w.upd (fun d => { d with commitSerial := w.d.commitSerial + 1, openCommits := (w.d.commitSerial + 1) :: d.openCommits })

theorem writeCommit_byte (w : Work) (core : Nat) : (writeCommit w core).byte =
    ((commitList w.d core).foldl (commitByte core (w.d.commitSerial + 1)) (openCommit w)).byte := rfl

theorem writeCommit_vers {w : Work} (hlive : w.d.OwnersLive) (core : Nat) : (writeCommit w core).d.vers =
    w.d.vers.filter (fun v => !(v.core == core && committing w.d core v.at_)) := by
  have hkept := commitBytes_vers (core := core) (serial := w.d.commitSerial + 1) (w := openCommit w) hlive (commitList w.d core)
  exact (holdLines_vers ..).trans (congrArg (List.filter _) hkept)

theorem commitsPublishVersions : Claims.CommitsPublishVersions := by
  intro w core a hlive
  have hopen : (openCommit w).d.OwnersLive := hlive
  refine ⟨fun h => ?_, fun v hv hmine haddr hlast => ?_, writeCommit_vers hlive core⟩
  · rw [writeCommit_byte, commitBytes_byte_of_ne hopen fun v hv => ?_]
    · rfl
    · obtain ⟨hmem, hmine⟩ := mem_commitList.1 hv
      exact h v hmem hmine
  · subst haddr
    rw [writeCommit_byte]
    refine commitBytes_byte_of_latest hopen (pairwise_sortBy ..) (mem_commitList.2 ⟨hv, hmine⟩) fun u hu haddr hne => ?_
    obtain ⟨hmem, hmineU⟩ := mem_commitList.1 hu
    exact hlast u hmem hmineU haddr hne

/-! ## Loads of committed bytes (R263, R269) -/

/-- R263: a byte that no later commit has written reads as its home holds it. -/
theorem byteAt_of_no_later {w : Work} {serial k : Nat} (h : ∀ x ∈ w.d.home, x.addr = k → x.serial ≤ serial) :
    byteAt w serial k = w.byte k := by
  unfold byteAt
  split
  case h_2 => rfl
  case h_1 x hx =>
    refine absurd (hx.symm.trans ?_) (Option.some_ne_none x)
    refine List.foldlRecOn (motive := fun b => b = none) w.d.home _ rfl fun b hb y hy => ?_
    subst hb
    refine if_neg fun hlater => ?_
    obtain ⟨haddr, hlt⟩ : y.addr = k ∧ serial < y.serial := by simpa using hlater
    exact Nat.not_le.2 hlt (h y hy haddr)

/-- R269: a load sees the sector of its byte under a serial no older than its view of the byte. -/
theorem floor_le_sectorViews {k : Nat} (w : Work) (x : View) (hk : keyPhased k = true) :
    x.floor w.d k ≤ look (sectorViews w x [k]).1 (sectorOf k) := by
  have hviews : (sectorViews w x [k]).1 =
      [(sectorOf k, x.floor w.d k + w.free.1 % (w.free.2.d.commitSerial - x.floor w.d k + 1))] := by
    simp [sectorViews, hk, distinct]
  rw [hviews]
  simp [look]

theorem sectorViews_work {k : Nat} (w : Work) (x : View) (hk : keyPhased k = true) : (sectorViews w x [k]).2 = w.free.2 := by
  simp [sectorViews, hk, distinct]

/-- R269: where no version of its task on its core holds a byte, a load reads the byte as of the serial of its sector. -/
theorem readPhased_of_no_version {w : Work} {x : View} {k : Nat} (h : x.versions w.d [k] = []) (views : List (Nat × Nat)) :
    (readPhased w x views [k]).1 = [byteAt w (look views (sectorOf k)) k] := by
  simp only [readPhased, h]
  rfl

theorem versions_eq_nil {d : Dev} {x : View} {k : Nat} (h : ∀ v ∈ d.vers, v.core = x.core → v.task = x.task → v.addr ≠ k) :
    x.versions d [k] = [] := by
  refine List.filter_eq_nil_iff.2 fun v hv hmatch => ?_
  obtain ⟨⟨hcore, htask⟩, haddr⟩ : (v.core = x.core ∧ v.task = x.task) ∧ v.addr = k := by simpa using hmatch
  exact h v hv hcore htask haddr

theorem committedBytesAreRead : Claims.CommittedBytesAreRead := by
  intro w x k hk hvers hhome
  calc (loadElement w x [k]).1
      = (readPhased (sectorViews w x [k]).2 x (sectorViews w x [k]).1 [k]).1 := rfl
    _ = (readPhased w.free.2 x (sectorViews w x [k]).1 [k]).1 := by rw [sectorViews_work w x hk]
    _ = [byteAt w.free.2 (look (sectorViews w x [k]).1 (sectorOf k)) k] :=
        readPhased_of_no_version (w := w.free.2) (versions_eq_nil hvers) _
    _ = [w.byte k] := congrArg (fun b => [b])
        (byteAt_of_no_later fun h hh haddr => (hhome h hh haddr).trans (floor_le_sectorViews w x hk))

end Sys2Proof.Machine

/-- Settles O27: what a store leaves in the versions, what a commit writes home of them, and the load of a byte at home. -/
theorem versionsAndCommits : Obligations.VersionsAndCommits :=
  ⟨storesGoToTheirVersion, commitsPublishVersions, committedBytesAreRead⟩

end


section
/-! PROOF. The memory instructions at issue (spec/11 R289 to R307, R311, spec/10 R276 to R282): how addresses are judged, what the
forms that access memory enter, and what fences and phases wait for; O25, O28 and O29. -/

open Sys2Proof
open Sys2Proof.Machine

namespace Sys2Proof.Machine

/-! ## Addresses judged (R290, R291) -/

/-- The lanes whose addresses resolve alike. -/
def lanesResolved (rs : List (Nat × Resolved)) (q : Resolved) : List Nat := (rs.filter (fun r => r.2 == q)).map Prod.fst

/-- R290: the lanes whose addresses name bytes, with what they name. -/
def namedTargets (rs : List (Nat × Resolved)) : List (Nat × Target) := rs.filterMap (fun r => match r.2 with
  | .named t => some (r.1, t)
  | _ => none)

/-- R291: the lanes whose addresses are misaligned, with what they name. -/
def misalignedTargets (rs : List (Nat × Resolved)) (align : Nat) : List (Nat × Target) :=
  (namedTargets rs).filter (fun t => decide (t.2.low % align ≠ 0))

/-- R291: the same lanes, with their addresses. -/
def misaligned (rs : List (Nat × Resolved)) (align : Nat) : List (Nat × Nat) := rs.filterMap (fun r => match r.2 with
  | .named t => if t.low % align = 0 then none else some (r.1, t.va)
  | _ => none)

theorem misaligned_eq (rs : List (Nat × Resolved)) (align : Nat) :
    misaligned rs align = (misalignedTargets rs align).map (fun t => (t.1, t.2.va)) := by
  rw [misalignedTargets, namedTargets, List.filter_filterMap, List.map_filterMap, misaligned]
  refine List.filterMap_congr fun r _ => ?_
  obtain ⟨l, t | _ | _⟩ := r
  case named => by_cases h : t.low % align = 0 <;> simp [h, Option.filter]
  case prot | bounds => rfl

theorem namedTargets_all {rs : List (Nat × Resolved)} (hprot : lanesResolved rs .prot = []) (hbounds : lanesResolved rs .bounds = []) :
    (namedTargets rs).map (fun t => (t.1, Resolved.named t.2)) = rs := by
  simp only [lanesResolved, List.map_eq_nil_iff, List.filter_eq_nil_iff, beq_iff_eq] at hprot hbounds
  rw [namedTargets, List.map_filterMap]
  refine (List.filterMap_congr fun r hr => ?_).trans List.filterMap_some
  obtain ⟨l, t | _ | _⟩ := r
  case named => rfl
  case prot => exact absurd rfl (hprot _ hr)
  case bounds => exact absurd rfl (hbounds _ hr)

section Judge
variable {rs : List (Nat × Resolved)} {align : Nat}

theorem judge_of_prot (h : lanesResolved rs .prot ≠ []) : judge rs align = .trap tProt (maskOf (lanesResolved rs .prot)) 0 :=
  if_pos (show (!(lanesResolved rs .prot).isEmpty) = true by simpa using h)

theorem judge_of_bounds (hprot : lanesResolved rs .prot = []) (h : lanesResolved rs .bounds ≠ []) :
    judge rs align = .trap tBounds (maskOf (lanesResolved rs .bounds)) 0 :=
  (if_neg (show ¬ (!(lanesResolved rs .prot).isEmpty) = true by simpa using hprot)).trans
    (if_pos (show (!(lanesResolved rs .bounds).isEmpty) = true by simpa using h))

variable (hprot : lanesResolved rs .prot = []) (hbounds : lanesResolved rs .bounds = [])
include hprot hbounds

theorem judge_of_aligned (h : misaligned rs align = []) : judge rs align = .targets (namedTargets rs) := by
  rw [misaligned_eq, List.map_eq_nil_iff] at h
  refine (if_neg (show ¬ (!(lanesResolved rs .prot).isEmpty) = true by simpa using hprot)).trans
    ((if_neg (show ¬ (!(lanesResolved rs .bounds).isEmpty) = true by simpa using hbounds)).trans ?_)
  split
  next => rfl
  next t ts hsome => exact absurd (h.symm.trans hsome) (List.cons_ne_nil t ts).symm

theorem judge_of_misaligned (h : misaligned rs align ≠ []) : judge rs align =
    .trap tAlign (maskOf ((misaligned rs align).map Prod.fst)) ((misaligned rs align).headD (0, 0)).2 := by
  rw [misaligned_eq, ne_eq, List.map_eq_nil_iff] at h
  refine (if_neg (show ¬ (!(lanesResolved rs .prot).isEmpty) = true by simpa using hprot)).trans
    ((if_neg (show ¬ (!(lanesResolved rs .bounds).isEmpty) = true by simpa using hbounds)).trans ?_)
  split
  next hnone => exact absurd hnone h
  next t ts hsome =>
    have hcons : misalignedTargets rs align = t :: ts := hsome
    change Addressed.trap tAlign (maskOf ((misalignedTargets rs align).map Prod.fst)) t.2.va = _
    rw [misaligned_eq, hcons, List.map_map]
    rfl

end Judge

/-! ## Accesses that issue (R293) -/

/-- R293, R430: an access that nothing keeps back enters the record. -/
theorem Iss.access_enters {x : Iss} {r : Rec} (h : x.MayAccess r) (tags : List Ty) : x.access tags r = x.enters tags r :=
  Iss.access_ready h.free h.unheld h.room h.known tags

/-- R289 to R300: what a memory form past its gate answers, by what its addresses come to. -/
theorem AccessForm.answers {s : State} {i : Instr} {x : Iss} {k : Iss → Work} {g : AccessForm}
    {fill : Iss → Nat → Access → Access} (h : Issues s i x) (hexec : exec i s = s.issue i k)
    (hk : k x = x.memOp g.cls g.kind g.width g.tags g.op fill) (hfill : fill x = g.fill) :
    (x.active = [] → Answers s i (x.idle g.tags)) ∧
    (x.active ≠ [] → ∀ ts, x.addresses g.width = .targets ts → x.MayAccess (g.entry x ts) →
      Answers s i (x.enters g.tags (g.entry x ts))) ∧
    (x.active ≠ [] → ∀ c m a, x.addresses g.width = .trap c m a → Answers s i (x.trapAt c x.p.pc m 0 a)) := by
  refine ⟨fun ha => ?_, fun ha ts hts hmay => ?_, fun ha c m a htrap => ?_⟩ <;>
    refine Answers.of_eq h hexec (hk.trans ?_)
  · exact Iss.memOp_idle ha ..
  · have hentry : x.accessEntry g.cls g.kind g.op (x.accessesAt g.width fill ts) = g.entry x ts :=
      congrArg (fun fill => x.accessEntry g.cls g.kind g.op (x.accessesAt g.width (fun _ => fill) ts)) hfill
    rw [Iss.memOp_targets ha hts, hentry, Iss.access_enters hmay]
  · exact Iss.memOp_trap ha htrap

/-- R289: an instruction acts as a memory form on an issue whose operands can be read. -/
def AccessForm.Describes (g : AccessForm) (i : Instr) (x : Iss) : Prop :=
  ∃ k fill, (∀ s, exec i s = s.issue i k) ∧ fill x = g.fill ∧
    (x.Readable x.active g.accs → k x = x.memOp g.cls g.kind g.width g.tags g.op fill)

theorem accessForms_describe (o : AtomOp) (x : Iss) (f : Form) : ∀ e ∈ accessForms o x f, e.2.Describes e.1 x := by
  simp only [accessForms, List.forall_mem_cons]
  refine ⟨?ld, ?ldv, ?st, ?atom, ?red, by simp⟩
  case ld => exact ⟨ldOp, fun _ _ a => a, fun _ => rfl, rfl, fun hr => by rw [ldOp]; exact Iss.gated_ready hr _⟩
  case ldv => exact ⟨ldvOp, fun _ _ a => a, fun _ => rfl, rfl, fun hr => by rw [ldvOp]; exact Iss.gated_ready hr _⟩
  case st =>
    exact ⟨stOp, fun x l a => { a with data := toBytes (moveBytes x.f) (opnd (x.vals l) 1).toNat }, fun _ => rfl, rfl,
      fun hr => by rw [stOp]; exact Iss.gated_ready hr _⟩
  case atom =>
    exact ⟨atomOp o, fun x l a => { a with b := opnd (x.vals l) 1, c := opnd (x.vals l) 2 }, fun _ => rfl, rfl,
      fun hr => by rw [atomOp]; exact Iss.gated_ready hr _⟩
  case red =>
    exact ⟨redMemOp o, fun x l a => { a with b := opnd (x.vals l) 1 }, fun _ => rfl, rfl,
      fun hr => by rw [redMemOp]; exact Iss.gated_ready hr _⟩

theorem memoryFormsIssue : Claims.MemoryFormsIssue := by
  intro s i o f x g hmem h hr
  obtain ⟨k, fill, hexec, hfill, hk⟩ := accessForms_describe o x f _ hmem
  exact AccessForm.answers h (hexec s) (hk hr) hfill

/-- R299: `stv` as a memory form. -/
def Iss.vectorStore (x : Iss) : AccessForm :=
  { accs := [], cls := 1, kind := 1, width := x.f.cnt * (tyWidth x.f.ty / 8), tags := [], op := .store (tyWidth x.f.ty / 8)
    fill := fun l a => { a with data := (x.stvEntries l).flatMap (fun e => toBytes (tyWidth x.f.ty / 8) e.val.toNat) } }

theorem stvOp_ready {x : Iss} (hr : x.StvReadable) : stvOp x = x.memOp 1 1 (x.f.cnt * (tyWidth x.f.ty / 8)) []
    (.store (tyWidth x.f.ty / 8)) (fun x => x.vectorStore.fill) := by
  unfold stvOp
  rw [show x.stvGate = .ready from hr]
  rfl

theorem vectorStoresIssue : Claims.VectorStoresIssue := fun _ _ x h hr =>
  AccessForm.answers (g := x.vectorStore) h (k := stvOp) rfl (stvOp_ready hr) rfl

/-! ## Parameter loads and prefetches (R296, R297) -/

theorem ldpOp_ready {x : Iss} {l : Launch} (hg : x.GuardReady) (hl : x.w.d.launchOf x.v = some l) : ldpOp x =
    if x.active = [] then x.idle [x.f.ty]
    else if bits x.f.x13 0 12 % (tyWidth x.f.ty / 8) ≠ 0 then x.trap tAlign (maskOf x.active)
    else if l.paramBytes < bits x.f.x13 0 12 + tyWidth x.f.ty / 8 then x.trap tBounds (maskOf x.active)
    else (x.deliver x.active [x.f.ty] (fun _ => [x.entry 28 (BitVec.ofNat 64 (ofBytes ((List.range (tyWidth x.f.ty / 8)).map
      (fun i => l.params.getD (bits x.f.x13 0 12 + i) 0))), x.f.ty)])).done := by
  unfold ldpOp
  rw [Iss.guardGate_ready hg]
  simp only [hl, List.isEmpty_iff]
  rfl

theorem parameterLoadsAndPrefetches : Claims.ParameterLoadsAndPrefetches := by
  refine ⟨fun s f x l h hg hl => ?ldp, fun s f x h hr => Answers.of_eq h (k := prefOp) rfl ?pref⟩
  case pref =>
    rw [prefOp]
    exact Iss.gated_ready hr _
  case ldp =>
    refine ⟨fun ha => ?idle, fun ha halign hin => ?loads, fun ha halign => ?aligns, fun ha halign hout => ?bounds⟩ <;>
      refine Answers.of_eq h (k := ldpOp) rfl ((ldpOp_ready hg hl).trans ?_)
    case idle => exact if_pos ha
    case loads => rw [if_neg ha, if_neg (not_not.2 halign), if_neg (not_lt.2 hin)]
    case aligns => rw [if_neg ha, if_pos halign]
    case bounds => rw [if_neg ha, if_neg (not_not.2 halign), if_pos hout]

/-! ## Forms that act once for the wave (R292, R303 to R305, R307) -/

theorem Iss.Once.onceOp_eq {x : Iss} {accs : List (List Ty)} {l : Nat} (h : x.Once accs l) (tags : List Ty)
    (k : Iss → List (Word × Ty) → Work) : x.onceOp accs tags k = k x (x.vals l) :=
  Iss.onceOp_ready h.guard h.lane h.readable tags k

/-- R303: a bank range acts, past its gate, on the target of its range. -/
def RangeForm.Describes (g : RangeForm) (i : Instr) (x : Iss) (l : Nat) : Prop :=
  ∃ k, (∀ s, exec i s = s.issue i k) ∧ (x.Once g.accs l → k x = rangeOp x g.cls g.tags g.op
    ((atomOfCode x.f.rangeOp).getD .add) (opnd (x.vals l) 0) g.b g.share g.lanes)

theorem rangeForms_describe (x : Iss) (l : Nat) (f : Form) : ∀ e ∈ rangeForms x l f, e.2.Describes e.1 x l := by
  simp only [rangeForms, List.forall_mem_cons]
  refine ⟨?abupd, ?abred, by simp⟩
  case abupd => exact ⟨abupdOp, fun _ => rfl, fun h => by rw [abupdOp]; exact h.onceOp_eq _ _⟩
  case abred => exact ⟨abredOp, fun _ => rfl, fun h => by rw [abredOp]; exact h.onceOp_eq _ _⟩

section Range
variable {x : Iss} {l : Nat} {g : RangeForm}

theorem RangeForm.rangeOp_of_targets {t : Nat × Target} {ts : List (Nat × Target)}
    (h : rangeTarget x (opnd (x.vals l) 0) ((atomOfCode x.f.rangeOp).getD .add) g.share = .targets (t :: ts)) :
    rangeOp x g.cls g.tags g.op ((atomOfCode x.f.rangeOp).getD .add) (opnd (x.vals l) 0) g.b g.share g.lanes =
      x.access g.tags (g.entry x t.2) := by
  unfold rangeOp
  rw [h]
  rfl

theorem RangeForm.rangeOp_of_trap {c a : Nat} {m : LaneMask}
    (h : rangeTarget x (opnd (x.vals l) 0) ((atomOfCode x.f.rangeOp).getD .add) g.share = .trap c m a) :
    rangeOp x g.cls g.tags g.op ((atomOfCode x.f.rangeOp).getD .add) (opnd (x.vals l) 0) g.b g.share g.lanes =
      x.trapAt c x.p.pc m 0 a := by
  unfold rangeOp
  rw [h]

end Range

/-- R307: what a cache maintenance form does, on an address and a length. -/
def Iss.maintain (x : Iss) (op : RecOp) (a : VAddr) (n : Nat) : Work :=
  if a.toNat % 128 ≠ 0 ∨ n % 128 ≠ 0 then x.trapAt tAlign x.p.pc 0 0 a.toNat
  else if 2 ^ 32 < n then x.trapAt tBounds x.p.pc 0 0 a.toNat
  else if n = 0 then x.pop.done
  else x.access [] { x.recOf 0 14 (maskOf (x.active.take 1)) op [] with state := .walk }

theorem maintOp_ready {x : Iss} {l : Nat} (h : x.Once [[.ptr], [.n32, .n64]] l) (op : VAddr → Nat → RecOp) : maintOp op x =
    x.maintain (op ((opnd (x.vals l) 0).setWidth 57) (opnd (x.vals l) 1).toNat) ((opnd (x.vals l) 0).setWidth 57)
      (opnd (x.vals l) 1).toNat := by
  rw [maintOp]
  exact h.onceOp_eq _ _

theorem maintForms_ready {x : Iss} {l : Nat} {f : Form} {i : Instr} {op : RecOp}
    (hmem : (i, op) ∈ maintForms ((opnd (x.vals l) 0).setWidth 57) (opnd (x.vals l) 1).toNat f)
    (h : x.Once [[.ptr], [.n32, .n64]] l) : ∃ k, (∀ s, exec i s = s.issue i k) ∧
      k x = x.maintain op ((opnd (x.vals l) 0).setWidth 57) (opnd (x.vals l) 1).toNat := by
  simp only [maintForms, List.mem_cons, Prod.mk.injEq, List.not_mem_nil, or_false] at hmem
  obtain ⟨rfl, rfl⟩ | ⟨rfl, rfl⟩ | ⟨rfl, rfl⟩ := hmem
  · exact ⟨maintOp .discard, fun _ => rfl, maintOp_ready h _⟩
  · exact ⟨maintOp .wback, fun _ => rfl, maintOp_ready h _⟩
  · exact ⟨maintOp .inval, fun _ => rfl, maintOp_ready h _⟩

/-- R292: each form that acts once for the wave pushes its zeros where no lane is active. -/
theorem onceForms_idle {i : Instr} {f : Form} {x : Iss} {tags : List Ty}
    (hmem : (i, tags) ∈ [(Instr.abupd f, []), (.abred f, [x.f.ty]), (.discard f, []), (.wback f, []), (.inval f, [])])
    (hg : x.GuardReady) (ha : x.active = []) : ∃ k, (∀ s, exec i s = s.issue i k) ∧ k x = x.idle tags := by
  simp only [List.mem_cons, Prod.mk.injEq, List.not_mem_nil, or_false] at hmem
  obtain ⟨rfl, rfl⟩ | ⟨rfl, rfl⟩ | ⟨rfl, rfl⟩ | ⟨rfl, rfl⟩ | ⟨rfl, rfl⟩ := hmem
  · exact ⟨abupdOp, fun _ => rfl, by rw [abupdOp]; exact Iss.onceOp_idle hg ha _ _⟩
  · exact ⟨abredOp, fun _ => rfl, by rw [abredOp]; exact Iss.onceOp_idle hg ha _ _⟩
  · exact ⟨maintOp .discard, fun _ => rfl, by rw [maintOp]; exact Iss.onceOp_idle hg ha _ _⟩
  · exact ⟨maintOp .wback, fun _ => rfl, by rw [maintOp]; exact Iss.onceOp_idle hg ha _ _⟩
  · exact ⟨maintOp .inval, fun _ => rfl, by rw [maintOp]; exact Iss.onceOp_idle hg ha _ _⟩

theorem rangesAndMaintenanceIssue : Claims.RangesAndMaintenanceIssue := by
  refine ⟨fun s i f x l g t ts hmem h honce htarget hmay => ?enters, fun s i f x l g c m a hmem h honce htarget => ?traps,
    fun s i f x l op hmem h honce => ?maintains, fun s i f x tags hmem h hg ha => ?idles⟩
  case enters =>
    obtain ⟨k, hexec, hk⟩ := rangeForms_describe x l f _ hmem
    exact Answers.of_eq h (hexec s) (by rw [hk honce, RangeForm.rangeOp_of_targets htarget, Iss.access_enters hmay])
  case traps =>
    obtain ⟨k, hexec, hk⟩ := rangeForms_describe x l f _ hmem
    exact Answers.of_eq h (hexec s) ((hk honce).trans (RangeForm.rangeOp_of_trap htarget))
  case maintains =>
    obtain ⟨k, hexec, hk⟩ := maintForms_ready hmem honce
    have hgood {a : VAddr} {n : Nat} (ha : a.toNat % 128 = 0) (hn : n % 128 = 0) : ¬ (a.toNat % 128 ≠ 0 ∨ n % 128 ≠ 0) := by
      omega
    refine ⟨fun hbad => ?_, fun ha hn hlong => ?_, fun ha hn => ?_, fun ha hn hshort hsome hmay => ?_⟩ <;>
      refine Answers.of_eq h (hexec s) (hk.trans ?_) <;> unfold Iss.maintain
    · exact if_pos hbad
    · rw [if_neg (hgood ha hn), if_pos hlong]
    · rw [hn, if_neg (hgood ha rfl), if_neg (by decide), if_pos rfl]
    · rw [if_neg (hgood ha hn), if_neg (not_lt.2 hshort), if_neg hsome, Iss.access_enters hmay]
  case idles =>
    obtain ⟨k, hexec, hk⟩ := onceForms_idle hmem hg ha
    exact Answers.of_eq h (hexec s) hk

/-! ## Fences (R276) -/

section Fence
variable {x : Iss} {scope cls : Nat} {stage : List Nat → List Nat → Stage}

/-- R276: a fence that begins passes where nothing it would wait for is under way. -/
theorem Iss.fenced_of_drained (hidle : x.p.stage = .idle) (h : x.Drained scope) (k : Iss → Work) :
    x.fenced scope cls stage k = k x := by
  unfold Iss.fenced
  rw [hidle]
  exact if_pos h

/-- R276: a fence that has noted what to wait for passes once that is performed. -/
theorem Iss.fenced_of_done {rs os : List Nat} (hstage : x.p.stage = .fence rs os ∨ x.p.stage = .phaseFence rs os)
    (h : fenceDone x.v rs os = true) (k : Iss → Work) : x.fenced scope cls stage k = k x := by
  unfold Iss.fenced
  obtain hs | hs := hstage <;> rw [hs] <;> exact if_pos h

end Fence

/-- R311: a fence that passes goes on 4 cc later where it found nothing to wait for. -/
def Iss.passFence (x : Iss) : Work :=
  let y := if bits x.f.x13 0 3 = 0 then x else x.ordered
  y.goto y.next (if y.p.stage == .idle then 4 else 1) {}

/-- R277: ordering a wave's accesses leaves its split as it is. -/
theorem Iss.stage_passFence (x : Iss) : (if bits x.f.x13 0 3 = 0 then x else x.ordered).p.stage = x.p.stage := by
  split <;> rfl

theorem fencesPass {s : State} {f : Form} {x : Iss} (h : Issues s (.fence f) x) :
    let y := if bits x.f.x13 0 3 = 0 then x else x.ordered
    (x.p.stage = .idle → x.Drained (bits x.f.x13 0 3) → Answers s (.fence f) (y.goto y.next 4 {})) ∧
    (∀ rs os, x.p.stage = .fence rs os → fenceDone x.v rs os = true → Answers s (.fence f) (y.goto y.next 1 {})) := by
  refine ⟨fun hidle hdrained => ?_, fun rs os hstage hdone => ?_⟩ <;> refine Answers.of_eq h (k := fenceOp) rfl ?_
  · refine Eq.trans (by rw [fenceOp]; exact Iss.fenced_of_drained hidle hdrained _) (?_ : x.passFence = _)
    rw [Iss.passFence]
    simp only [Iss.stage_passFence, hidle]
    rfl
  · refine Eq.trans (by rw [fenceOp]; exact Iss.fenced_of_done (.inl hstage) hdone _) (?_ : x.passFence = _)
    rw [Iss.passFence]
    simp only [Iss.stage_passFence, hstage]
    rfl

/-! ## Phases (R275, R278, R306) -/

theorem phasesPass {s : State} {f : Form} {x : Iss} (h : Issues s (.phase f) x) :
    (x.p.stage = .idle → allowanceOk s.dev x.v = true → x.Drained 5 → Answers s (.phase f) (x.boundary true 6 .phase)) ∧
    (∀ rs os, x.p.stage = .phaseFence rs os → fenceDone x.v rs os = true → Answers s (.phase f) (x.boundary true 6 .phase)) ∧
    (∀ b, x.p.stage = .phase b → b ≤ (s.dev.core x.core).entered → Answers s (.phase f)
      ({ x.ordered with v := { x.ordered.v with phase := phaseNext x.v } } : Iss).done) := by
  have hdev : x.w.d = s.dev := by rw [h.work]; rfl
  refine ⟨fun hidle hok hdrained => ?_, fun rs os hstage hdone => ?_, fun b hstage hb => ?_⟩ <;>
    refine Answers.of_eq h (k := phaseOp) rfl ?_ <;> unfold phaseOp
  · rw [hidle]
    dsimp only
    rw [hdev, hok, Bool.not_true, if_neg Bool.false_ne_true]
    exact Iss.fenced_of_drained hidle hdrained _
  · rw [hstage]
    exact Iss.fenced_of_done (.inr hstage) hdone _
  · rw [hstage]
    dsimp only
    rw [hdev]
    exact if_pos hb

/-! ## `fencesc` (R267, R282) -/

/-- R267: an entry asked for alone is served by the commit of the core under way. -/
theorem requestEntry_of_boundary {d : Dev} {core : Nat} {b : Boundary} (h : (d.core core).boundary = some b) :
    requestEntry d core = (d.updCore core (fun c => { c with boundary := some { b with entry := true } }), some b.num, false) := by
  unfold requestEntry
  rw [h]

/-- R267: an entry asked for alone is performed at once where no commit is under way, and those read from are complete. -/
theorem requestEntry_of_complete {d : Dev} {core : Nat} (h : (d.core core).boundary = none) (hreads : readsComplete d core = true) :
    requestEntry d core = (enter d core, none, true) := by
  unfold requestEntry
  rw [h]
  exact if_pos hreads

theorem sequentialFencesPass {s : State} {f : Form} {x : Iss} (h : Issues s (.fencesc f) x) :
    (x.p.stage = .idle → x.Drained (max 5 (bits x.f.x13 0 3)) →
      Answers s (.fencesc f) (x.boundary false 7 (fun b => .scCommit b (bits x.f.x13 0 3)))) ∧
    (∀ b, x.p.stage = .scEntry (some b) → b ≤ (s.dev.core x.core).entered → Answers s (.fencesc f) x.ordered.done) ∧
    (x.p.stage = .scEntry none → (s.dev.core x.core).boundary = none → readsComplete s.dev x.core = true →
      Answers s (.fencesc f) ({ x with
        w := { x.w with d := enter x.w.d x.core }
        v := { x.v with seen := [], seenStores := [], awaitsEntry := false } } : Iss).ordered.done) ∧
    (∀ b, x.p.stage = .scEntry none → (s.dev.core x.core).boundary = some b →
      Answers s (.fencesc f) (({ x with
        w := { x.w with d := x.w.d.updCore x.core (fun c => { c with boundary := some { b with entry := true } }) }
        p := { x.p with stage := .scEntry (some b.num) } } : Iss).wait 7)) := by
  have hdev : x.w.d = s.dev := by rw [h.work]; rfl
  rw [← hdev]
  refine ⟨fun hidle hdrained => ?commits, fun b hstage hb => ?entered, fun hstage hnone hreads => ?enters,
    fun b hstage hsome => ?served⟩ <;> refine Answers.of_eq h (k := fencescOp) rfl ?_ <;> unfold fencescOp
  case commits =>
    rw [hidle]
    exact Iss.fenced_of_drained hidle hdrained _
  case entered =>
    rw [hstage]
    exact if_pos hb
  case enters =>
    rw [hstage]
    dsimp only
    rw [Iss.enterOwn, requestEntry_of_complete hnone hreads]
  case served =>
    rw [hstage]
    dsimp only
    rw [Iss.enterOwn, requestEntry_of_boundary hsome]
    rfl

theorem fencesAndPhasesPass : Claims.FencesAndPhasesPass :=
  ⟨fun _ _ _ => fencesPass, fun _ _ _ => phasesPass, fun _ _ _ => sequentialFencesPass⟩

end Sys2Proof.Machine

/-- Settles O25: each case of the judgement, with the targets, the misaligned among them, and the others. -/
theorem addressChecksComeInOrder : Obligations.AddressChecksComeInOrder := fun _ _ =>
  ⟨judge_of_prot, judge_of_bounds, judge_of_misaligned, fun hprot hbounds haligned =>
    ⟨_, judge_of_aligned hprot hbounds haligned, namedTargets_all hprot hbounds⟩⟩

/-- Settles O28: each form past its gate, by what its addresses come to; `ldp` and `pref` by their own operations. -/
theorem memoryFormsComplete : Obligations.MemoryFormsComplete :=
  ⟨memoryFormsIssue, vectorStoresIssue, parameterLoadsAndPrefetches⟩

/-- Settles O29: the forms that act once, past their gate; and the fences and phases by the stage they stand at. -/
theorem rangesMaintenanceAndFences : Obligations.RangesMaintenanceAndFences :=
  ⟨rangesAndMaintenanceIssue, fencesAndPhasesPass⟩

end

section
/-! PROOF. Atomic operations and the sums of a bank (spec/11 R300, R302, spec/09 R251): integers, exact adds to a cell, and float
adds; O26. -/

open Sys2Proof
open Sys2Proof.Machine

namespace Sys2Proof.Machine

/-! ## Words at the width of a type (R72) -/

theorem fit_and (t : Ty) (a b : Word) : fit t a &&& fit t b = fit t (a &&& b) := by
  unfold fit
  split <;> simp [BitVec.setWidth_and]

theorem fit_or (t : Ty) (a b : Word) : fit t a ||| fit t b = fit t (a ||| b) := by
  unfold fit
  split <;> simp [BitVec.setWidth_or]

theorem fit_xor (t : Ty) (a b : Word) : fit t a ^^^ fit t b = fit t (a ^^^ b) := by
  unfold fit
  split <;> simp [BitVec.setWidth_xor]

theorem fit_add_fit (t : Ty) (a b : Word) : fit t (fit t a + fit t b) = atWidth t (· + ·) (· + ·) a b := by
  unfold fit atWidth
  split <;> simp [BitVec.setWidth_add]

/-! ## Integer operations (R300) -/

theorem intVal_atomNew_min (t : Ty) (x b c : Word) : intVal t (atomNew .min t x b c) = min (intVal t x) (intVal t b) := by
  simp only [atomNew, intVal_fit]
  split
  next h => rw [intVal_fit, min_eq_right h.le]
  next h => rw [intVal_fit, min_eq_left (not_lt.1 h)]

theorem intVal_atomNew_max (t : Ty) (x b c : Word) : intVal t (atomNew .max t x b c) = max (intVal t x) (intVal t b) := by
  simp only [atomNew, intVal_fit]
  split
  next h => rw [intVal_fit, max_eq_right h.le]
  next h => rw [intVal_fit, max_eq_left (not_lt.1 h)]

theorem atomicResults : Claims.AtomicResults := fun t x b c _ =>
  ⟨fit_add_fit t x b, fit_and t x b, fit_or t x b, fit_xor t x b, rfl, rfl, intVal_atomNew_min t x b c, intVal_atomNew_max t x b c⟩

/-! ## Cells (R251) -/

/-- R251: the words of a cell that holds a sum, under the anchor of a high word. -/
def packCell (sum : Int) (ovf : Bool) (hi : Word) : Word × Word :=
  let x := BitVec.ofInt 112 sum
  (x.setWidth 64, BitVec.ofNat 64 ((if ovf then 2 ^ 63 else 0) + bits hi 48 15 * 2 ^ 48 + bits x 64 48))

section PackCell
variable (sum : Int) (ovf : Bool) (hi : Word)

theorem bits_lt {w : Nat} (x : BitVec w) (lo len : Nat) : bits x lo len < 2 ^ len := by
  rw [bits_eq]
  exact Nat.mod_lt _ (Nat.two_pow_pos len)

theorem toNat_packCell : (packCell sum ovf hi).2.toNat =
    (if ovf then 2 ^ 63 else 0) + bits hi 48 15 * 2 ^ 48 + bits (BitVec.ofInt 112 sum) 64 48 := by
  have hanchor := bits_lt hi 48 15
  have hsum := bits_lt (BitVec.ofInt 112 sum) 64 48
  refine (BitVec.toNat_ofNat ..).trans (Nat.mod_eq_of_lt ?_)
  split <;> omega

theorem cellAnchor_packCell : cellAnchor (packCell sum ovf hi).2 = cellAnchor hi := by
  have hsum := bits_lt (BitVec.ofInt 112 sum) 64 48
  have hanchor := bits_lt hi 48 15
  refine congrArg BitVec.toInt (BitVec.eq_of_toNat_eq ?_)
  change bits (packCell sum ovf hi).2 48 15 = bits hi 48 15
  rw [bits_eq, toNat_packCell]
  split <;> omega

theorem cellOvf_packCell : cellOvf (packCell sum ovf hi).2 = ovf := by
  have hsum := bits_lt (BitVec.ofInt 112 sum) 64 48
  have hanchor := bits_lt hi 48 15
  rw [cellOvf, BitVec.getLsbD, Nat.testBit_eq_decide_div_mod_eq, toNat_packCell]
  cases ovf <;> simp <;> omega

/-- R251: a sum of 112 bits is read back from the cell it is written to. -/
theorem cellSum_packCell (hlo : -2 ^ 111 ≤ sum) (hhi : sum < 2 ^ 111) :
    cellSum (packCell sum ovf hi).1 (packCell sum ovf hi).2 = sum := by
  have hx := (BitVec.ofInt 112 sum).isLt
  have hhigh : bits (packCell sum ovf hi).2 0 48 = (BitVec.ofInt 112 sum).toNat / 2 ^ 64 := by
    rw [bits_eq, toNat_packCell, bits_eq (BitVec.ofInt 112 sum)]
    split <;> omega
  have hlow : (packCell sum ovf hi).1.toNat = (BitVec.ofInt 112 sum).toNat % 2 ^ 64 := BitVec.toNat_setWidth ..
  rw [cellSum, hhigh, hlow, Nat.div_add_mod', BitVec.ofNat_toNat, BitVec.setWidth_eq]
  exact BitVec.toInt_ofInt_eq_self (by decide) hlo hhi

end PackCell

theorem cellSum_bounds (lo hi : Word) : -2 ^ 111 ≤ cellSum lo hi ∧ cellSum lo hi < 2 ^ 111 :=
  ⟨BitVec.le_toInt _, BitVec.toInt_lt⟩

section CellAdd
variable {t : Ty} {lo hi b : Word}

theorem cellAdd_of_none (h : cellTerm t b (cellAnchor hi) = none) : cellAdd t lo hi b = packCell (cellSum lo hi) true hi := by
  unfold cellAdd
  simp only [h, Bool.or_true]
  rfl

theorem cellAdd_of_some {u : Int} (h : cellTerm t b (cellAnchor hi) = some u) : cellAdd t lo hi b =
    packCell (between (-2 ^ 111) (2 ^ 111 - 1) (cellSum lo hi + u))
      (cellOvf hi || (decide (cellSum lo hi + u < -2 ^ 111) || decide (2 ^ 111 ≤ cellSum lo hi + u))) hi := by
  unfold cellAdd
  simp only [h]
  rfl

end CellAdd

/-! ## Terms in units of the anchor (R302) -/

/-- R302: n × 2^k as an integer in units of 2^e, rounded to nearest even. -/
def nearestUnits (e n k : Int) : Int :=
  let u : Int := (roundAt .rne false n.natAbs k e false).1
  if n < 0 then -u else u

/-- R151: rounding to nearest even is the same for a magnitude of either sign. -/
theorem roundAt_rne_sign (s : Bool) (m : Nat) (k e : Int) : roundAt .rne s m k e false = roundAt .rne false m k e false := rfl

theorem roundAt_rne_zero (k e : Int) : (roundAt .rne false 0 k e false).1 = 0 := by
  unfold roundAt
  split <;> simp [goesUp]

theorem nearestUnits_signed (s : Bool) (m : Nat) (k e : Int) : nearestUnits e (if s then -(m : Int) else m) k =
    if s then -((roundAt .rne s m k e false).1 : Int) else ((roundAt .rne s m k e false).1 : Int) := by
  rw [roundAt_rne_sign]
  cases s with
  | false => simp [nearestUnits]
  | true =>
    obtain rfl | hm := Nat.eq_zero_or_pos m
    · simp [nearestUnits, roundAt_rne_zero]
    · simp [nearestUnits, hm]

theorem signed_natAbs (v : Int) : (if decide (v < 0) then -(v.natAbs : Int) else (v.natAbs : Int)) = v := by
  by_cases h : v < 0
  · rw [if_pos (decide_eq_true h)]
    omega
  · rw [if_neg (by simpa using h)]
    omega

/-- R302: what a cell is given of an addend: the addend in units of the anchor, where it is a number. -/
theorem cellTerm_eq {t : Ty} (ht : t = .f64 ∨ t = .f32 ∨ t = .i32 ∨ t = .n32 ∨ t = .i64 ∨ t = .n64) (b : Word) (e : Int) :
    cellTerm t b e = (addend t b).map (fun a => nearestUnits e a.1 a.2) := by
  have hfloat (f : FFmt) : (match fval f (bits b 0 f.width) with
      | .fin s m k => some (if s then -((roundAt .rne s m k e false).1 : Int) else ((roundAt .rne s m k e false).1 : Int))
      | _ => none) = (match fval f (bits b 0 f.width) with
      | .fin s m k => some (if s then -(m : Int) else m, k)
      | _ => none).map (fun a : Int × Int => nearestUnits e a.1 a.2) := by
    cases fval f (bits b 0 f.width) with
    | nan q | inf s => rfl
    | fin s m k => exact congrArg some (nearestUnits_signed s m k e).symm
  have hint (t : Ty) : some (if decide (intVal t b < 0) then
        -((roundAt .rne (decide (intVal t b < 0)) (intVal t b).natAbs 0 e false).1 : Int)
      else ((roundAt .rne (decide (intVal t b < 0)) (intVal t b).natAbs 0 e false).1 : Int)) =
      some (nearestUnits e (intVal t b) 0) := by
    rw [← nearestUnits_signed, signed_natAbs]
  obtain rfl | rfl | rfl | rfl | rfl | rfl := ht
  · exact hfloat .f64
  · exact hfloat .f32
  all_goals exact hint _

theorem NearestEven.neg {n u : Int} {d : Nat} (h : NearestEven n d u) : NearestEven (-n) d (-u) := by
  have hdist : (-n - -u * 2 ^ d).natAbs = (n - u * 2 ^ d).natAbs := by
    rw [← Int.natAbs_neg]
    congr 1
    ring
  unfold NearestEven at h ⊢
  rw [hdist, Int.neg_emod_two]
  exact h

/-- R151: a magnitude of finer units is rounded to the nearest integer, of two the even one. -/
theorem nearestEven_roundAt {k e : Int} (h : k < e) (m : Nat) :
    NearestEven m (e - k).toNat (roundAt .rne false m k e false).1 := by
  generalize hd : (e - k).toNat = d
  have hround : (roundAt .rne false m k e false).1 =
      if 2 ^ d < 2 * (m % 2 ^ d) ∨ 2 * (m % 2 ^ d) = 2 ^ d ∧ m / 2 ^ d % 2 = 1 then m / 2 ^ d + 1 else m / 2 ^ d := by
    unfold roundAt
    rw [if_neg (not_le.2 h), hd]
    refine if_congr ?_ rfl rfl
    by_cases hlt : 2 * (m % 2 ^ d) < 2 ^ d
    · simp [goesUp, hlt, hlt.not_gt, hlt.ne]
    · by_cases heq : 2 * (m % 2 ^ d) = 2 ^ d
      · simp [goesUp, heq]
      · simp [goesUp, hlt, heq, lt_of_le_of_ne (not_lt.1 hlt) (Ne.symm heq)]
  have hm : (m : Int) = (m / 2 ^ d : Nat) * 2 ^ d + (m % 2 ^ d : Nat) := by
    exact_mod_cast (Nat.div_add_mod' m (2 ^ d)).symm
  have hr := Nat.mod_lt m (Nat.two_pow_pos d)
  rw [NearestEven, hround, hm]
  generalize m / 2 ^ d = q at *
  generalize m % 2 ^ d = r at *
  have hpow : ((2 ^ d : Nat) : Int) = 2 ^ d := by norm_cast
  split
  next hup =>
    have hdist : ((q : Int) * 2 ^ d + r - ((q + 1 : Nat) : Int) * 2 ^ d).natAbs = 2 ^ d - r := by
      rw [Nat.cast_succ, Int.add_mul, ← hpow]
      omega
    rw [hdist]
    omega
  next hdown =>
    have hdist : ((q : Int) * 2 ^ d + r - (q : Int) * 2 ^ d).natAbs = r := by omega
    rw [hdist]
    omega

theorem nearestUnits_of_le {k e : Int} (h : e ≤ k) (n : Int) : nearestUnits e n k = n * 2 ^ (k - e).toNat := by
  rw [nearestUnits, roundAt_multiple h, Nat.cast_mul, Nat.cast_pow]
  by_cases hneg : n < 0
  · rw [if_pos hneg, ← Int.neg_mul, show -(n.natAbs : Int) = n by omega]
    rfl
  · rw [if_neg hneg, show (n.natAbs : Int) = n by omega]
    rfl

theorem nearestUnits_of_lt {k e : Int} (h : k < e) (n : Int) : NearestEven n (e - k).toNat (nearestUnits e n k) := by
  have hnear := nearestEven_roundAt h n.natAbs
  rw [nearestUnits]
  by_cases hneg : n < 0
  · rw [if_pos hneg]
    simpa only [show -(n.natAbs : Int) = n by omega] using hnear.neg
  · rw [if_neg hneg]
    simpa only [show (n.natAbs : Int) = n by omega] using hnear

theorem exactAddsAreExact : Claims.ExactAddsAreExact := by
  intro t lo hi b ht
  obtain ⟨hlow, hhigh⟩ := cellSum_bounds lo hi
  have hterm := cellTerm_eq ht b (cellAnchor hi)
  refine ⟨?anchor, fun hnone => ?none, fun n k hsome => ⟨nearestUnits (cellAnchor hi) n k, fun h => nearestUnits_of_le h n,
    fun h => nearestUnits_of_lt h n, ?sum, ?ovf⟩⟩
  case anchor =>
    cases hadd : cellTerm t b (cellAnchor hi) with
    | none => rw [cellAdd_of_none hadd, cellAnchor_packCell]
    | some u => rw [cellAdd_of_some hadd, cellAnchor_packCell]
  case none =>
    rw [hnone] at hterm
    rw [cellAdd_of_none hterm]
    exact ⟨cellSum_packCell _ _ _ hlow hhigh, cellOvf_packCell ..⟩
  all_goals
    rw [hsome] at hterm
    rw [cellAdd_of_some hterm]
  case sum => exact cellSum_packCell _ _ _ (by unfold between; omega) (by unfold between; omega)
  case ovf => rw [cellOvf_packCell, Bool.or_assoc]

/-! ## Patterns delivered (R145, R152, R153) -/

/-- R151: a magnitude below 2^n units rounds to at most 2^n of them. -/
theorem roundAt_le {m n : Nat} {e q : Int} (h : Nat.log2 m + 1 + e ≤ q + n) (mode : RMode) (s sticky : Bool) :
    (roundAt mode s m e q sticky).1 ≤ 2 ^ n := by
  have hm : m < 2 ^ (Nat.log2 m + 1) := Nat.lt_log2_self
  have hup {k : Nat} (hk : k < 2 ^ n) (up : Bool) : (if up then k + 1 else k) ≤ 2 ^ n := by split <;> omega
  unfold roundAt
  split
  next hle =>
    refine hup ?_ _
    calc m * 2 ^ (e - q).toNat < 2 ^ (Nat.log2 m + 1) * 2 ^ (e - q).toNat := Nat.mul_lt_mul_of_pos_right hm (Nat.two_pow_pos _)
      _ = 2 ^ (Nat.log2 m + 1 + (e - q).toNat) := (Nat.pow_add ..).symm
      _ ≤ 2 ^ n := Nat.pow_le_pow_right (by decide) (by omega)
  next hlt =>
    refine hup (Nat.div_lt_of_lt_mul (hm.trans_le ?_)) _
    rw [← Nat.pow_add]
    exact Nat.pow_le_pow_right (by decide) (by omega)

theorem FFmt.emax_add_bias_lt (f : FFmt) : f.emax + f.bias < ((2 ^ f.ew : Nat) : Int) := by cases f <;> decide

theorem FFmt.ew_pos (f : FFmt) : 0 < f.ew := by cases f <;> decide

theorem signBit_le (f : FFmt) (s : Bool) : signBit f s ≤ 2 ^ (f.mw + f.ew) := by
  rw [signBit, f.width_eq, Nat.add_sub_cancel]
  split
  · exact le_rfl
  · exact Nat.zero_le _

/-- R152: a magnitude that does not overflow has, rounded with unbounded exponent, no exponent above the largest finite's. -/
theorem roundFree_le {f : FFmt} {mode : RMode} {s sticky : Bool} {m : Nat} {e : Int} (h0 : m ≠ 0)
    (h : overflows f mode s m e sticky = false) : (roundFree f mode s m e sticky).2 ≤ f.emax := by
  simp only [overflows, Bool.and_eq_false_iff, Bool.or_eq_false_iff, bne_eq_false_iff_eq, h0, false_or, decide_eq_false_iff_not,
    not_lt] at h
  exact h.1

/-- R145, R153: the exponent and the fraction of a rounded magnitude that does not overflow fill the pattern below the sign. -/
theorem rounded_lt {f : FFmt} {mode : RMode} {s sticky : Bool} {m : Nat} {e : Int} (h0 : m ≠ 0)
    (h : overflows f mode s m e sticky = false) :
    (f.unit m e + f.mw + f.bias - 1).toNat * 2 ^ f.mw + (roundAt mode s m e (f.unit m e) sticky).1 < 2 ^ (f.mw + f.ew) := by
  have hbias := f.bias_add_emin
  have hemax := f.emax_add_bias_lt
  have hpow : (2 : Nat) ^ (f.mw + f.ew) = 2 ^ f.ew * 2 ^ f.mw := by rw [Nat.add_comm, Nat.pow_add]
  by_cases hnormal : f.emin ≤ Nat.log2 m + e
  · have hunit : f.unit m e = Nat.log2 m + e - f.mw := by
      unfold FFmt.unit
      omega
    have hfree := roundFree_le h0 h
    have hk := roundAt_le (q := f.unit m e) (n := f.mw + 1) (m := m) (e := e) (by omega) mode s sticky
    unfold roundFree at hfree
    dsimp only at hfree
    rw [← hunit] at hfree
    generalize (roundAt mode s m e (f.unit m e) sticky).1 = k at hk hfree ⊢
    rw [Nat.pow_succ] at hk hfree
    rw [hpow]
    by_cases hcarry : k = 2 ^ f.mw * 2
    · rw [if_pos hcarry] at hfree
      calc (f.unit m e + f.mw + f.bias - 1).toNat * 2 ^ f.mw + k
          = ((f.unit m e + f.mw + f.bias - 1).toNat + 2) * 2 ^ f.mw := by rw [hcarry, Nat.add_mul, Nat.mul_comm 2]
        _ < 2 ^ f.ew * 2 ^ f.mw := Nat.mul_lt_mul_of_pos_right (by dsimp only at hfree; omega) (Nat.two_pow_pos _)
    · rw [if_neg hcarry] at hfree
      calc (f.unit m e + f.mw + f.bias - 1).toNat * 2 ^ f.mw + k
          < ((f.unit m e + f.mw + f.bias - 1).toNat + 2) * 2 ^ f.mw := by rw [Nat.add_mul]; omega
        _ ≤ 2 ^ f.ew * 2 ^ f.mw := Nat.mul_le_mul_right _ (by dsimp only at hfree; omega)
  · have hunit : f.unit m e = f.emin - f.mw := by
      unfold FFmt.unit
      omega
    have hk := roundAt_le (q := f.unit m e) (n := f.mw) (m := m) (e := e) (by omega) mode s sticky
    rw [show (f.unit m e + f.mw + f.bias - 1).toNat = 0 by omega, Nat.zero_mul, Nat.zero_add]
    exact hk.trans_lt (Nat.pow_lt_pow_right (by decide) (by have := f.ew_pos; omega))

theorem FFmt.inf_lt (f : FFmt) (s : Bool) : f.inf s < 2 ^ f.width := by cases f <;> cases s <;> decide

theorem FFmt.large_lt (f : FFmt) (s : Bool) : f.large s < 2 ^ f.width := by cases f <;> cases s <;> decide

theorem overflowTo_lt (f : FFmt) (mode : RMode) (sat s : Bool) : overflowTo f mode sat s < 2 ^ f.width := by
  have hpick (large : Bool) : (if large then f.large s else f.inf s) < 2 ^ f.width := by
    split
    · exact f.large_lt s
    · exact f.inf_lt s
  exact hpick _

/-- R145: what a number is rounded to is a pattern of the format. -/
theorem roundTo_lt (f : FFmt) (mode : RMode) (sat s : Bool) (m : Nat) (e : Int) (sticky : Bool) :
    (roundTo f mode sat s m e sticky).1 < 2 ^ f.width := by
  have hsign := signBit_le f s
  have hwidth : (2 : Nat) ^ f.width = 2 ^ (f.mw + f.ew) + 2 ^ (f.mw + f.ew) := by rw [f.width_eq, Nat.pow_succ, Nat.mul_two]
  unfold roundTo
  split
  next => 
    have := Nat.two_pow_pos (f.mw + f.ew)
    dsimp only
    omega
  next h0 =>
    split
    next =>
      exact overflowTo_lt f mode sat s
    next hover =>
      have hlt := rounded_lt h0 (Bool.eq_false_iff.2 hover)
      rw [FFmt.unit] at hlt
      dsimp only
      omega

theorem rneSum_lt (f : FFmt) (a b : Nat) : rneSum f a b < 2 ^ f.width := by
  unfold rneSum finishFloat roundExact
  dsimp only
  split
  case h_1 => cases f <;> decide
  case h_2 s _ => exact f.inf_lt s
  case h_3 => exact roundTo_lt ..

/-! ## Sums of two numbers (R154, R251) -/

section Sum
variable {f : FFmt} {a b : Nat}

theorem rneSum_eq (f : FFmt) (a b : Nat) :
    rneSum f a b = (roundExact f .rne false 0 (sumExact .rne [(fval f a).exact, (fval f b).exact]).1).1 := rfl

theorem rneSum_nan (h : (fval f a).isNan = true ∨ (fval f b).isNan = true) : rneSum f a b = f.nan := by
  rw [rneSum_eq, sumExact_nan h]
  rfl

theorem rneSum_infinities {s t : Bool} (ha : fval f a = .inf s) (hb : fval f b = .inf t) :
    rneSum f a b = if s = t then f.inf s else f.nan := by
  rw [rneSum_eq, ha, hb]
  cases s <;> cases t <;> rfl

theorem rneSum_infinity {s t : Bool} {m : Nat} {e : Int} (ha : fval f a = .fin s m e) (hb : fval f b = .inf t) :
    rneSum f a b = f.inf t ∧ rneSum f b a = f.inf t := by
  rw [rneSum_eq, rneSum_eq, ha, hb]
  cases t <;> exact ⟨rfl, rfl⟩

theorem inUnits_self (s : Bool) (m : Nat) (e : Int) : inUnits e (.num s m e false) = if s then -(m : Int) else m := by
  simp [inUnits]

/-- R154: a zero added to a number is that number. -/
theorem sumExact_zero {n : Nat} (hn : n ≠ 0) (s t : Bool) (e k : Int) :
    (sumExact .rne [.num s 0 e false, .num t n k false]).1 = .num t n k false ∧
      (sumExact .rne [.num t n k false, .num s 0 e false]).1 = .num t n k false := by
  cases t <;> simp [sumExact, Exact.isInf, Exact.isNan, Exact.zero, inUnits_self, hn, Nat.pos_of_ne_zero hn]

theorem sumExact_zeros (s t : Bool) (e k : Int) :
    (sumExact .rne [.num s 0 e false, .num t 0 k false]).1 = .num (s && t) 0 0 false := by
  cases s <;> cases t <;> rfl

/-- R154: the exact sum of two numbers that are not zero, in units of the lower of their last bits. -/
theorem sumExact_nonzero {m n : Nat} (hm : m ≠ 0) (hn : n ≠ 0) (s t : Bool) (e k : Int) :
    let v := inUnits (min e k) (.num s m e false) + inUnits (min e k) (.num t n k false)
    (sumExact .rne [.num s m e false, .num t n k false]).1 =
      if v = 0 then .num false 0 0 false else .num (decide (v < 0)) v.natAbs (min e k) false := by
  simp only [sumExact, Exact.isInf, Exact.isNan, Exact.zero, hm, hn, List.any_cons, List.any_nil, Bool.or_false, Bool.and_false,
    Bool.false_eq_true, if_false, List.foldl_cons, List.foldl_nil, zero_add, beq_iff_eq]
  split <;> rfl

theorem rneSum_zero_number {s t : Bool} {n : Nat} {e k : Int} (ha : fval f a = .fin s 0 e) (hb : fval f b = .fin t n k) (hn : n ≠ 0)
    (hlt : b < 2 ^ f.width) : rneSum f a b = b ∧ rneSum f b a = b := by
  have hround : (roundExact f .rne false 0 (.num t n k false)).1 = b := by
    rw [roundExact, Int.add_zero, formatNumbersAreDeliveredExactly f .rne false t n k b hlt hb]
  obtain ⟨hsum, hsum'⟩ := sumExact_zero hn s t e k
  rw [rneSum_eq, rneSum_eq, ha, hb]
  exact ⟨(congrArg (fun v => (roundExact f .rne false 0 v).1) hsum).trans hround,
    (congrArg (fun v => (roundExact f .rne false 0 v).1) hsum').trans hround⟩

theorem rneSum_zeros {s t : Bool} {e k : Int} (ha : fval f a = .fin s 0 e) (hb : fval f b = .fin t 0 k) :
    rneSum f a b = signBit f (s && t) := by
  rw [rneSum_eq, ha, hb]
  exact congrArg (fun v => (roundExact f .rne false 0 v).1) (sumExact_zeros s t e k)

theorem rneSum_numbers {s t : Bool} {m n : Nat} {e k : Int} (ha : fval f a = .fin s m e) (hb : fval f b = .fin t n k) (hm : m ≠ 0)
    (hn : n ≠ 0) :
    let v := inUnits (min e k) (.num s m e false) + inUnits (min e k) (.num t n k false)
    rneSum f a b = if v = 0 then signBit f false else (roundTo f .rne false (decide (v < 0)) v.natAbs (min e k) false).1 := by
  rw [rneSum_eq, ha, hb]
  refine (congrArg (fun v => (roundExact f .rne false 0 v).1) (sumExact_nonzero hm hn s t e k)).trans ?_
  split
  · rfl
  · rw [roundExact, Int.add_zero]

end Sum

/-! ## Float adds (R300) -/

/-- R72: an element of the low half of an entry lies within a type of 32 bits. -/
theorem bits_fit {lo len : Nat} (h : lo + len ≤ 32) (t : Ty) (x : Word) : bits (fit t x) lo len = bits x lo len := by
  unfold fit
  split
  · rw [bits_eq, bits_eq, BitVec.toNat_setWidth, BitVec.toNat_setWidth, mod_two_pow_field (by omega), mod_two_pow_field h]
  · rfl

theorem elemAt_fit {i : Nat} (h : i < 2) (t : Ty) (x : Word) : elemAt .bf16x2 (fit t x) i = elemAt .bf16x2 x i := by
  refine bits_fit ?_ t x
  change i * 16 + 16 ≤ 32
  omega

theorem elemAt_joinElems {p q : Nat} (hp : p < 2 ^ 16) (hq : q < 2 ^ 16) {i : Nat} (h : i < 2) :
    elemAt .bf16x2 (joinElems .bf16x2 [p, q]) i = [p, q].getD i 0 := by
  have hjoin : (joinElems .bf16x2 [p, q]).toNat = p + q * 2 ^ 16 := by
    refine (BitVec.toNat_ofNat ..).trans ?_
    simp only [enum, fmtOfTy]
    change (p * 1 + (q * 2 ^ 16 + 0)) % 2 ^ 64 = _
    omega
  have helem : elemAt .bf16x2 (joinElems .bf16x2 [p, q]) i = (p + q * 2 ^ 16) / 2 ^ (i * 16) % 2 ^ 16 := by
    rw [← hjoin]
    exact bits_eq ..
  obtain rfl | rfl : i = 0 ∨ i = 1 := by omega
  · rw [helem, List.getD_cons_zero]
    omega
  · rw [helem, List.getD_cons_succ, List.getD_cons_zero]
    omega

theorem atomNew_fadd (x b c : Word) :
    atomNew .fadd .f32 x b c = BitVec.ofNat 64 (rneSum .f32 (bits x 0 32) (bits b 0 32)) := by
  unfold atomNew
  dsimp only
  rw [bits_fit le_rfl, bits_fit le_rfl]
  rfl

theorem elemAt_atomNew_bfadd (x b c : Word) {i : Nat} (h : i < 2) :
    elemAt .bf16x2 (atomNew .bfadd .bf16x2 x b c) i = rneSum .bf16 (elemAt .bf16x2 x i) (elemAt .bf16x2 b i) := by
  have hsums : atomNew .bfadd .bf16x2 x b c = joinElems .bf16x2
      [rneSum .bf16 (elemAt .bf16x2 x 0) (elemAt .bf16x2 b 0), rneSum .bf16 (elemAt .bf16x2 x 1) (elemAt .bf16x2 b 1)] := by
    unfold atomNew
    simp only [List.map_cons, List.map_nil, elemAt_fit Nat.zero_lt_two, elemAt_fit Nat.one_lt_two]
    rfl
  rw [hsums, elemAt_joinElems (rneSum_lt .bf16 ..) (rneSum_lt .bf16 ..) h]
  obtain rfl | rfl : i = 0 ∨ i = 1 := by omega
  · rfl
  · rfl

theorem floatAddsAtBanks : Claims.FloatAddsAtBanks := by
  refine ⟨fun x b c => ⟨atomNew_fadd x b c, fun i => elemAt_atomNew_bfadd x b c⟩, fun f a b ha hb =>
    ⟨rneSum_nan, fun s t => rneSum_infinities, fun s m e hfin => ⟨fun t => rneSum_infinity hfin, fun t n k hfin' =>
      ⟨fun hm hn => ?zero, fun hm hn => ?zeros, rneSum_numbers hfin hfin'⟩⟩⟩⟩
  case zero =>
    subst hm
    exact rneSum_zero_number hfin hfin' hn hb
  case zeros =>
    subst hm hn
    exact rneSum_zeros hfin hfin'

end Sys2Proof.Machine

/-- Settles O26: the operations at the width of their type, the sum a cell holds, and the sums of two float numbers. -/
theorem atomicsCompute : Obligations.AtomicsCompute := ⟨atomicResults, exactAddsAreExact, floatAddsAtBanks⟩

end

section
/-! PROOF. The bytes an access changes (spec/11 R290, R292, R298, R300, spec/10 R266), and what O59 comes to: its clauses on performed
accesses hold, and its last one, on accesses that issue, is left to a free choice (log 5), so neither it nor its negation follows
(`storesStayInTheirBytes_of_freeBool`, `freeBool_of_storesStayInTheirBytes`). -/

open Sys2Proof
open Sys2Proof.Machine

namespace Sys2Proof.Machine

/-! ## Bytes stored (R277, R298) -/

theorem Work.byte_store (w : Work) (wave fence k : Nat) (b : Byte) (y : Nat) :
    (w.store wave fence k b).byte y = if y = k then b else w.byte y := by
  unfold Work.store
  dsimp only
  split <;> exact Work.byte_put ..

section Stores
variable {x : Storer} {bs : List Host.Cell}

theorem Work.byte_stores_of_not_mem {y : Nat} (h : y ∉ bs.map Prod.fst) (w : Work) : (w.stores x bs).byte y = w.byte y := by
  induction bs generalizing w with
  | nil => rfl
  | cons c bs ih =>
    have hne : y ≠ c.1 := List.ne_of_not_mem_cons h
    have hrest : y ∉ bs.map Prod.fst := List.not_mem_of_not_mem_cons h
    exact (ih hrest _).trans ((Work.byte_store ..).trans (if_neg hne))

/-- R298: of bytes stored at different keys each stands at its key. -/
theorem Work.byte_stores_of_mem (hkeys : (bs.map Prod.fst).Nodup) {c : Host.Cell} (hc : c ∈ bs) (w : Work) :
    (w.stores x bs).byte c.1 = c.2 := by
  induction bs generalizing w with
  | nil => simp at hc
  | cons e bs ih =>
    obtain ⟨hfirst, hrest⟩ := List.nodup_cons.1 hkeys
    rcases List.mem_cons.1 hc with rfl | hmem
    · exact (Work.byte_stores_of_not_mem hfirst _).trans ((Work.byte_store ..).trans (if_pos rfl))
    · exact ih hrest hmem _

end Stores

theorem not_mem_map_fst_zip {α β : Type} {ks : List α} {y : α} (h : y ∉ ks) (vs : List β) : y ∉ (ks.zip vs).map Prod.fst := by
  intro hmem
  obtain ⟨⟨k, v⟩, hkv, rfl⟩ := List.mem_map.1 hmem
  exact h (List.of_mem_zip hkv).1

theorem Work.byte_setAt_of_not_mem {keys : List Nat} {y : Nat} (h : y ∉ keys) (w : Work) (x : Storer) (v : Word) :
    (w.setAt x keys v).byte y = w.byte y :=
  Work.byte_stores_of_not_mem (not_mem_map_fst_zip h _) w

/-- R300, R302: an atomic operation changes no byte but those of its element. -/
theorem atomAt_byte_of_not_mem {keys : List Nat} {y : Nat} (h : y ∉ keys) (w : Work) (x : Storer) (o : AtomOp) (ty : Ty) (b c : Word) :
    (atomAt w x o ty keys b c).2.byte y = w.byte y := by
  unfold atomAt
  split
  · exact (Work.byte_setAt_of_not_mem (fun hmem => h (List.mem_of_mem_drop hmem)) _ _ _).trans
      (Work.byte_setAt_of_not_mem (fun hmem => h (List.mem_of_mem_take hmem)) _ _ _)
  · exact Work.byte_setAt_of_not_mem h ..

/-! ## Loads (R245, R264, R269, R294) -/

theorem readElem_byte (w : Work) (u : Nat) (r : Rec) (views : List (Nat × Nat)) (a : Access) (i : Nat) (keys : List Nat) :
    (readElem w u r views a i keys).2.byte = w.byte := by
  unfold readElem
  split
  next => rfl
  next =>
    dsimp only
    split
    next => rfl
    next => split <;> rfl

/-- R245: a visitor line that a die keeps changes no byte. -/
theorem visit_byte (w : Work) (v : Wave) (a : Access) (keys : List Nat) : (visit w v a keys).byte = w.byte := by
  unfold visit
  refine List.foldlRecOn (motive := fun w' : Work => w'.byte = w.byte) _ _ rfl fun w' h l _ => ?_
  refine Eq.trans ?_ h
  dsimp only
  split
  next => rfl
  next =>
    split
    next => split <;> rfl
    next => rfl

theorem readElems_byte (w : Work) (v : Wave) (r : Rec) (views : List (Nat × Nat)) (ty : Ty) (n wd : Nat) (a : Access)
    (keys : List Nat) : (readElems w v r views ty n wd a keys).2.byte = w.byte := by
  refine (visit_byte ..).trans ?_
  exact List.foldlRecOn (motive := fun acc : List (Word × Ty) × Work => acc.2.byte = w.byte) (List.range n) _ rfl
    fun acc h i _ => (readElem_byte ..).trans h

/-! ## Accesses performed (R263, R298) -/

section Perform
variable {v : Wave} {r : Rec} {a : Access} {k : Nat}

theorem performAcc_load {t : Ty} {n wd : Nat} (h : r.op = .load t n wd) (w : Work) (vs : List (Nat × Nat)) (b : Nat) :
    (performAcc w v r vs a k).2.byte b = w.byte b := by
  unfold performAcc
  rw [h]
  exact congrFun (readElems_byte ..) b

theorem performAcc_of_store {n : Nat} (h : r.op = .store n) (w : Work) (vs : List (Nat × Nat)) :
    (performAcc w v r vs a k).2 = writeAcc w v r.at_ n a (accKeys v a k) := by
  unfold performAcc
  rw [h]

theorem writeAcc_byte_of_not_mem {keys : List Nat} {y : Nat} (h : y ∉ keys) (w : Work) (at_ wd : Nat) :
    (writeAcc w v at_ wd a keys).byte y = w.byte y := by
  unfold writeAcc
  dsimp only
  split
  · rfl
  · exact Work.byte_stores_of_not_mem (not_mem_map_fst_zip h _) w

/-- R292, R298, R300: an access performed changes no byte but its own. -/
theorem performAcc_byte_of_not_mem {b : Nat} (h : b ∉ accKeys v a k) (w : Work) (vs : List (Nat × Nat)) :
    (performAcc w v r vs a k).2.byte b = w.byte b := by
  cases hop : r.op with
  | load t n wd => exact performAcc_load hop w vs b
  | store n => rw [performAcc_of_store hop, writeAcc_byte_of_not_mem h]
  | atom o t ret =>
    unfold performAcc
    rw [hop]
    exact atomAt_byte_of_not_mem h ..
  | _ =>
    unfold performAcc
    rw [hop]

/-- R266, R298: a store performed outside phased memory gives its bytes the values it carries; in phased memory the version has
them. -/
theorem performAcc_store {n i : Nat} (h : r.op = .store n) (hkeys : (accKeys v a k).Nodup) (hdata : a.data.length = a.bytes)
    (hi : i < a.bytes) (w : Work) (vs : List (Nat × Nat)) : (performAcc w v r vs a k).2.byte ((accKeys v a k).getD i 0) =
      if (accKeys v a k).any keyPhased then w.byte ((accKeys v a k).getD i 0) else a.data.getD i 0 := by
  rw [performAcc_of_store h, writeAcc]
  have hlength : (accKeys v a k).length = a.bytes := by simp [accKeys]
  generalize accKeys v a k = keys at hkeys hlength ⊢
  split
  · rfl
  · have hfst : (keys.zip a.data).map Prod.fst = keys := List.map_fst_zip (by omega)
    have hcell : (keys.getD i 0, a.data.getD i 0) ∈ keys.zip a.data := by
      rw [List.getD_eq_getElem _ _ (by omega), List.getD_eq_getElem _ _ (by omega), ← List.getElem_zip (h := by simp; omega)]
      exact List.getElem_mem _
    exact Work.byte_stores_of_mem (hfst.symm ▸ hkeys) hcell w

end Perform

/-! ## Accesses that issue (R257, R293) -/

theorem beginWalk_ws (w : Work) (u seq : Nat) : (beginWalk w u seq).ws = w.ws := by
  unfold beginWalk
  split
  next => rfl
  next => split <;> rfl

theorem softTrap_ws {y : Iss} (hst : y.f.st = false) (code d2 addr : Nat) : (y.softTrap code d2 addr).ws = y.w.ws := by
  unfold Iss.softTrap
  dsimp only [Iss.retired]
  rw [hst]
  rfl

/-- R257: an entry walks, unless a free choice lets it try the cached translations. -/
theorem startRec_ws_of_freeBool (hfree : ∀ n, Config.freeBool n = false) (w : Work) (u seq : Nat) : (startRec w u seq).ws = w.ws := by
  unfold startRec
  split
  next => rfl
  next =>
    split
    next => rfl
    next =>
      split
      next =>
        simp only [Work.freeBit, hfree, Bool.false_eq_true, if_false]
        exact beginWalk_ws ..
      next => exact beginWalk_ws ..

/-- R293, R430: an access that issues and is free to walk writes no byte, be it with a watchpoint or without. -/
theorem enters_ws_of_freeBool (hfree : ∀ n, Config.freeBool n = false) {x : Iss} (hst : x.f.st = false) (tags : List Ty) (r : Rec) :
    (x.enters tags r).ws = x.w.ws := by
  have hws : ((x.pop.addRec r).deliver x.active tags (fun _ => x.bound tags)).w.ws = x.w.ws := by
    rw [Iss.pop_eq]
    rfl
  have hf : ((x.pop.addRec r).deliver x.active tags (fun _ => x.bound tags)).f.st = false := by
    rw [Iss.pop_eq]
    exact hst
  unfold Iss.enters
  rw [startRec_ws_of_freeBool hfree]
  generalize (x.pop.addRec r).deliver x.active tags (fun _ => x.bound tags) = y at hws hf ⊢
  split
  · exact (softTrap_ws hf ..).trans hws
  · exact (goto_ws hf ..).trans hws

/-! ## An access that finds another's entry (R257, R293, R307) -/

/-- A `discard` of an untranslated line that waits to be walked, under the sequence value the next entry takes. -/
def staleEntry : Rec :=
  { seq := 0, cls := 0, kind := 14, split := 0, pc := 0, lanes := 1, op := .discard (BitVec.ofNat 57 (2 ^ 40)) 128, accesses := []
    phys := [], state := .walk, done := 0, results := [], frozen := false, replaying := false, inbox := none, messages := []
    at_ := 0, num := 0, late := none, direct := 0, injected := true, wasHeld := false, walking := false }

/-- The hand-placed wave (log 2) with that entry in its record, and an address in lane 0. -/
def staleWave : Wave :=
  { (handDev Dev.reset false).waves.headD (newWave Dev.reset (Launch.fresh 1 1 0 []) (newTask (Launch.fresh 1 1 0 []) 0 0 0) 0 0 0 0) with
    recs := [staleEntry], splits := [{ Split.first 0x10000 1 with readyAt := 0 }]
    lanes := List.replicate 32 { Lane.reset with q := { val := 0x2000, tag := .ptr, pend := .clear } :: List.replicate 15 Entry.empty } }

/-- Its device, whose context has its notification queue at 0x5000, in the pages mapped. -/
def staleState : State :=
  let d := handDev Dev.reset false
  { dev := { d with
      waves := [staleWave], issuer := some (0, 0), agenda := [], ctxs := d.ctxs.map (fun c => { c with nqBase := 0x5000 }) }
    mem := Memory.empty.writeAll handTables }

/-- A load of the 8 bytes at that address. -/
def staleLoad : Form :=
  { guard := { inv := false, p := 7 }, ds := .push, fd := 0, sa := .age 0, sb := .age 0, sc := .age 0, packed := false
    ty := .n64, st := false, modw := none, imm := none, x13 := 0 }

def staleIssue : Iss :=
  { w := staleState.work, v := staleWave, p := { Split.first 0x10000 1 with readyAt := 0 }, i := .ld staleLoad
    g := (formSpec (.ld staleLoad)).getD { major := 0, fn := 0 }, f := staleLoad
    lanes := 1 }

/-- The load as a memory form, and its access. -/
def staleForm : AccessForm :=
  { accs := [addressTags 0 false], cls := 0, kind := 0, width := 8, tags := [.n64], op := .load .n64 1 8, fill := fun _ a => a }

theorem staleIssue_issues : Issues staleState (.ld staleLoad) staleIssue where
  issuer := by decide +kernel
  wave := by decide +kernel
  split := by decide +kernel
  spec := by decide +kernel
  form := rfl
  work := rfl
  instr := rfl
  lanes := by decide +kernel
  units := by decide +kernel
  encoded := by decide +kernel
  unwatched := by decide +kernel
  role := by decide +kernel

/-- The load once it has issued, before its entry starts. -/
def staleIssued : Work :=
  ((staleIssue.pop.addRec (staleForm.entry staleIssue [(0, .virt 0x2000)])).deliver staleIssue.active staleForm.tags
    (fun _ => staleIssue.bound staleForm.tags)).done

/-- The byte of the context's notification queue that the walk's message overwrites. -/
def staleKey : Nat := kHbm (0x5000 + 7)

/-- R257: an entry free to use cached translations takes them as found, at once. -/
theorem startRec_of_freeBool {w : Work} {u seq : Nat} {v : Wave} {r : Rec} (hv : w.d.wave u = some v) (hr : v.rec_ seq = some r)
    (hcached : (r.state == .walk && isAccess r.op && allCached w.d v r) = true) (hbit : Config.freeBool w.d.freeCtr = true) :
    startRec w u seq = (xlateRec w.freeBit.2 u seq true).getD w.freeBit.2 := by
  unfold startRec
  simp only [hv, hr, hcached, if_true, Work.freeBit, hbit]

theorem staleIssue_addresses : staleIssue.addresses staleForm.width = .targets [(0, .virt 0x2000)] := by decide +kernel

theorem staleIssue_enters : staleIssue.enters staleForm.tags (staleForm.entry staleIssue [(0, .virt 0x2000)]) =
    startRec staleIssued staleIssue.v.uid staleIssue.v.recSeq := by
  have hwatched : (staleForm.entry staleIssue [(0, .virt 0x2000)]).watched staleIssue.w staleIssue.v = .none := by decide +kernel
  unfold Iss.enters
  rw [hwatched]
  rfl

/-- R257: the entry the load starts is the older one, of no access. -/
theorem staleIssued_finds_staleEntry : ((staleIssued.d.wave staleIssue.v.uid).any fun v => (v.rec_ staleIssue.v.recSeq).any fun r =>
    r.state == .walk && isAccess r.op && allCached staleIssued.d v r) = true := by decide +kernel

theorem staleIssued_start (hbit : Config.freeBool 0 = true) : startRec staleIssued staleIssue.v.uid staleIssue.v.recSeq =
    (xlateRec staleIssued.freeBit.2 staleIssue.v.uid staleIssue.v.recSeq true).getD staleIssued.freeBit.2 := by
  have hctr : staleIssued.d.freeCtr = 0 := by decide +kernel
  obtain ⟨v, hv, hfound⟩ := (Option.any_eq_true _ _).1 staleIssued_finds_staleEntry
  obtain ⟨r, hr, hcached⟩ := (Option.any_eq_true _ _).1 hfound
  exact startRec_of_freeBool hv hr hcached (hctr.symm ▸ hbit)

/-- R256: the walk of its page asks by a message, whose byte lands in the queue. -/
theorem staleIssued_writes : (((xlateRec staleIssued.freeBit.2 staleIssue.v.uid staleIssue.v.recSeq true).getD staleIssued.freeBit.2).after
    staleState).mem.read staleKey ≠ staleState.mem.read staleKey := by decide +kernel

end Sys2Proof.Machine

/-- O59 where every free choice is to walk. It does not settle O59: `Config.freeBool` is opaque (log 5), and
`freeBool_of_storesStayInTheirBytes` says that the statement cannot do without the choice. -/
theorem storesStayInTheirBytes_of_freeBool (hfree : ∀ n, Config.freeBool n = false) : Obligations.StoresStayInTheirBytes := by
  refine ⟨fun w v r vs a k b hb => performAcc_byte_of_not_mem hb w vs,
    fun w v r vs a k i ⟨n, hop⟩ hkeys hdata hi => performAcc_store hop hkeys hdata hi w vs,
    fun w v r vs a k b ⟨t, n, wd, hop⟩ => performAcc_load hop w vs b,
    fun s i o f x g ts _ h hst _ _ => keepsMemory_of_ws ((enters_ws_of_freeBool hfree hst ..).trans h.ws)⟩

/-- O59 decides a free choice: its last clause does not ask that an entry be free (`recFree`), so a load may find an older
`discard` under its sequence value, whose walk of a page not translated, taken at once, sends a message to memory. -/
theorem freeBool_of_storesStayInTheirBytes (h : Obligations.StoresStayInTheirBytes) : Config.freeBool 0 = false := by
  obtain ⟨-, -, -, hissue⟩ := h
  have hform : ((.ld staleLoad, staleForm) : Instr × AccessForm) ∈ accessForms .add staleIssue staleLoad := List.mem_cons_self
  have hkeeps := hissue staleState (.ld staleLoad) .add staleLoad staleIssue staleForm [(0, .virt 0x2000)] hform staleIssue_issues rfl
    (by decide +kernel) staleIssue_addresses
  refine (Bool.eq_false_or_eq_true _).resolve_left fun hbit => staleIssued_writes ?_
  rw [← staleIssued_start hbit, ← staleIssue_enters]
  exact hkeeps staleKey
end

section
/-! PROOF. Circular buffers (spec/12 R316 to R319): a buffer just bound, some of whose first slots have been taken and published,
written out as data; and O30. -/

open Sys2Proof
open Sys2Proof.Machine

namespace Sys2Proof.Machine

/-! ## Flags of slots -/

/-- One flag for each of `c` slots. -/
def slotFlags (c : Nat) (p : Nat → Bool) : List Bool := (List.range c).map p

theorem getD_slotFlags (c : Nat) (p : Nat → Bool) (i : Nat) : (slotFlags c p).getD i false = (decide (i < c) && p i) := by
  by_cases h : i < c <;> simp [slotFlags, h]

theorem set_slotFlags (c : Nat) (p : Nat → Bool) (k : Nat) (b : Bool) :
    (slotFlags c p).set k b = slotFlags c (fun i => if k = i then b else p i) := by
  refine List.ext_getElem (by simp [slotFlags]) fun i hi hj => ?_
  simp [slotFlags, List.getElem_set]

theorem clear_slotFlags (c : Nat) (p : Nat → Bool) (ks : List Nat) :
    ks.foldl (fun bs k => bs.set k false) (slotFlags c p) = slotFlags c (fun i => !ks.contains i && p i) := by
  induction ks generalizing p with
  | nil => simp
  | cons k ks ih =>
    rw [List.foldl_cons, set_slotFlags, ih]
    congr 1
    funext i
    by_cases hk : i = k
    · simp [hk]
    · simp [hk, Ne.symm hk]

theorem slotFlags_congr {c : Nat} {p q : Nat → Bool} (h : ∀ i < c, p i = q i) : slotFlags c p = slotFlags c q :=
  List.map_congr_left fun i hi => h i (List.mem_range.1 hi)

/-- The slots in order, up to the first that is not among the first `n`. -/
theorem takeWhile_range_lt {c n : Nat} (h : n ≤ c) : (List.range c).takeWhile (fun i => decide (i < n)) = List.range n := by
  obtain ⟨m, rfl⟩ := Nat.exists_eq_add_of_le h
  rw [List.range_add, List.takeWhile_append_of_pos (by simp)]
  cases m <;> simp [List.range_succ_eq_map]

theorem filter_range_lt {c n : Nat} (h : n ≤ c) : (List.range c).filter (fun i => decide (i < n)) = List.range n := by
  obtain ⟨m, rfl⟩ := Nat.exists_eq_add_of_le h
  rw [List.range_add, List.filter_append, List.filter_eq_self.2 (by simp), List.filter_eq_nil_iff.2 (by simp), List.append_nil]

/-! ## A batch in a buffer just bound (R316 to R319) -/

/-- R317: a buffer just bound of whose slots the first `t` have been taken, and the first `p` published. -/
def Buf.batch (b : Buf) (y : BufBind) (t p : Nat) : Buf :=
  { b.bind y with
    taken := slotFlags y.count (fun i => decide (i < t)), published := slotFlags y.count (fun i => decide (i < p))
    write := t % y.count, filled := p, free := y.count - t }

section Batch
variable {b : Buf} {y : BufBind} {t p : Nat}

theorem Buf.bind_eq_batch (b : Buf) (y : BufBind) : b.bind y = b.batch y 0 0 := by
  simp [Buf.batch, Buf.bind, slotFlags]

theorem Buf.slotAt_batch {i : Nat} (hi : i < y.count) : (b.batch y t p).slotAt i = i := by
  simp [Buf.slotAt, Buf.batch, Buf.bind, Nat.mod_eq_of_lt hi, hi]

theorem Buf.offsetAt_batch {i : Nat} (hi : i < y.count) : (b.batch y t p).offsetAt i = y.base + y.bytes * i := by
  rw [Buf.offsetAt, Buf.slotAt_batch hi]
  simp [Buf.batch, Buf.bind, hi]

theorem Buf.order_batch : (b.batch y t p).order = List.range y.count := by
  refine (List.map_congr_left fun i hi => ?_).trans (List.map_id _)
  rw [show (b.batch y t p).head + i = i from Nat.zero_add i]
  exact Buf.slotAt_batch (List.mem_range.1 hi)

theorem set_slotFlags_lt (c t : Nat) : (slotFlags c (fun i => decide (i < t))).set t true = slotFlags c (fun i => decide (i < t + 1)) := by
  rw [set_slotFlags]
  refine slotFlags_congr fun i _ => ?_
  by_cases ht : t = i
  · simp [ht]
  · rw [if_neg ht]
    exact decide_eq_decide.2 (by omega)

/-- R317: the next slot is taken. -/
theorem Buf.take_batch (h : t < y.count) : (b.batch y t p).take = b.batch y (t + 1) p := by
  have hslot : (b.batch y t p).slotAt (b.batch y t p).write = t := by
    rw [show (b.batch y t p).write = t from Nat.mod_eq_of_lt h, Buf.slotAt_batch h]
  rw [Buf.take, hslot]
  simp only [Buf.batch, set_slotFlags_lt, Nat.sub_sub, Buf.bind, Nat.mod_add_mod]

theorem Buf.takeN_batch {n : Nat} (h : t + n ≤ y.count) : Buf.takeN n (b.batch y t p) = b.batch y (t + n) p := by
  induction n generalizing t with
  | zero => rfl
  | succ n ih => rw [Buf.takeN, Buf.take_batch (by omega), ih (by omega), Nat.add_right_comm, Nat.add_assoc]

/-- R319: the slots taken and not published, in the order in which they were taken. -/
theorem Buf.unsent_batch (h : t ≤ y.count) : (b.batch y t 0).unsent = List.range t := by
  rw [Buf.unsent, Buf.order_batch, ← filter_range_lt h]
  refine List.filter_congr fun i hi => ?_
  simp only [Buf.batch, getD_slotFlags, List.mem_range.1 hi, Nat.not_lt_zero, decide_true, decide_false, Bool.true_and,
    Bool.and_false, Bool.not_false, Bool.and_true]

/-- R317: filled counts the published slots. -/
theorem Buf.refill_batch (h : p ≤ y.count) (k : Nat) : ({ b.batch y t p with filled := k } : Buf).refill = b.batch y t p := by
  have hflags : (fun i => (slotFlags y.count (fun i => decide (i < p))).getD i false) = fun i => decide (i < p) := by
    funext i
    rw [getD_slotFlags, ← Bool.decide_and]
    exact decide_eq_decide.2 (by omega)
  have horder : ({ b.batch y t p with filled := k } : Buf).order = List.range y.count := Buf.order_batch (b := b) (t := t) (p := p)
  rw [Buf.refill, horder]
  simp only [Buf.batch, hflags, takeWhile_range_lt h, List.length_range]

/-- R317: the next slot is published. -/
theorem Buf.publish_batch (h : p < y.count) : (b.batch y t p).publish p = b.batch y t (p + 1) := by
  refine Eq.trans (congrArg Buf.refill ?_) (Buf.refill_batch h p)
  simp only [Buf.batch, set_slotFlags_lt]

/-- R319: all of them are published. -/
theorem Buf.signal_batch (h : t ≤ y.count) : (b.batch y t 0).signal t = b.batch y t t := by
  have hpublish (n : Nat) (hn : n ≤ t) : (List.range n).foldl Buf.publish (b.batch y t 0) = b.batch y t n := by
    induction n with
    | zero => rfl
    | succ n ih =>
      rw [List.range_succ, List.foldl_append, ih (by omega)]
      exact Buf.publish_batch (by omega)
  rw [Buf.signal, Buf.unsent_batch h, List.take_of_length_le (by simp)]
  exact hpublish t le_rfl

/-- R319: popped, they are free again, and the head has passed them. -/
theorem Buf.pop_batch (h : t ≤ y.count) : ((b.batch y t t).pop t).filled = 0 ∧ ((b.batch y t t).pop t).free = y.count ∧
    ((b.batch y t t).pop t).head = t % y.count := by
  refine ⟨Nat.sub_self t, Nat.sub_add_cancel h, ?_⟩
  show (0 + t) % y.count = _
  rw [Nat.zero_add]

end Batch

end Sys2Proof.Machine

/-- Settles O30: the first `n` slots of a buffer just bound, from one operation to the next. -/
theorem buffersAreFirstInFirstOut : Obligations.BuffersAreFirstInFirstOut := by
  intro b y n hn hcount t p
  have ht : t = b.batch y n 0 := by
    show Buf.takeN n (b.bind y) = _
    rw [Buf.bind_eq_batch, Buf.takeN_batch (by omega), Nat.zero_add]
  have hp : p = b.batch y n n := by
    show t.signal n = _
    rw [ht, Buf.signal_batch hn]
  obtain ⟨hfilled, hfree, hhead⟩ := Buf.pop_batch (b := b) hn
  rw [ht, hp]
  refine ⟨rfl, rfl, rfl, rfl, rfl, Buf.unsent_batch hn, rfl, rfl, fun i hi => ?_, hfilled, hfree, hhead⟩
  rw [show (b.batch y n n).head + i = i from Nat.zero_add i]
  exact Buf.offsetAt_batch (by omega)

end

section
/-! PROOF. The forms of major 0xD0 at issue (spec/12 R313 to R319, R324 to R328, R335 to R338, R341): what each does past its gate;
and the
refutation of O31, whose clause on `copy` leaves out the number of the order of issues that its entry takes (R257, R268). -/

open Sys2Proof
open Sys2Proof.Machine

namespace Sys2Proof.Machine

/-! ## Buffers (R315 to R319) -/

theorem Iss.OwnBuf.onBuf_eq {x : Iss} {b : Buf} (h : x.OwnBuf b) (k : Buf → Work) : x.onBuf k = k b :=
  Iss.onBuf_ready h.there h.named h.counted k

theorem cbwait_answers {s : State} {f : Form} {x : Iss} {l : Nat} {b : Buf} (h : Issues s (.cbwait f) x) (honce : x.Once [] l)
    (hb : x.OwnBuf b) (hsettled : x.bufSettled b = true) (hfilled : cbCount x.f ≤ b.filled) :
    Answers s (.cbwait f) (x.same 6 [(BitVec.ofNat 64 (b.offsetAt b.head), .n32)]).done := by
  refine Answers.of_eq h (k := cbwaitOp) rfl ?_
  rw [cbwaitOp, honce.onceOp_eq, hb.onBuf_eq]
  exact if_neg (by simp [hsettled, hfilled])

theorem cbfree_answers {s : State} {f : Form} {x : Iss} {l : Nat} {b : Buf} (h : Issues s (.cbfree f) x) (honce : x.Once [] l)
    (hb : x.OwnBuf b) (hsettled : x.bufSettled b = true) (hfree : cbCount x.f ≤ b.free)
    (hturn : b.inOrder x.cc (counterPlace 3 x.v.n 0) = true)
    (hfirst : takesFirst x.w.d x.v.task x.v.place (cbIndex x.f) (counterPlace 3 x.v.n 0) b = false) :
    Answers s (.cbfree f) ({ x with
      w := x.w.upd (fun d => updBuf d x.v.task x.v.place (cbIndex x.f) (fun b =>
        (Buf.takeN (cbCount x.f) b).act d.cc (counterPlace 3 x.v.n 0))) }.same 6
      [(BitVec.ofNat 64 (b.offsetAt b.write), .n32)]).done := by
  refine Answers.of_eq h (k := cbfreeOp) rfl ?_
  rw [cbfreeOp, honce.onceOp_eq, hb.onBuf_eq]
  exact if_neg (by simp [hsettled, hfree, hturn, hfirst])

theorem bufferRelease_answers {s : State} {f : Form} {x : Iss} {l : Nat} {b : Buf} (pop : Bool)
    (h : Issues s (if pop then .cbpop f else .cbsig f) x) (honce : x.Once [] l) (hb : x.OwnBuf b) (hrec : recFree x.v = true) :
    Answers s (if pop then .cbpop f else .cbsig f)
      (x.releases 7 (if pop then .pop (cbIndex x.f) (cbCount x.f) else .sig (cbIndex x.f) (cbCount x.f))) := by
  cases pop with
  | true =>
    refine Answers.of_eq h (k := cbpopOp) rfl ?_
    rw [cbpopOp, honce.onceOp_eq, hb.onBuf_eq]
    exact Iss.release_ready hrec _ _
  | false =>
    refine Answers.of_eq h (k := cbsigOp) rfl ?_
    rw [cbsigOp, honce.onceOp_eq, hb.onBuf_eq]
    exact Iss.release_ready hrec _ _

theorem cbinit_answers {s : State} {f : Form} {x : Iss} {l : Nat} (h : Issues s (.cbinit f) x)
    (honce : x.Once [[.n32, .i32], [.n32, .i32]] l) :
    let n := bits x.f.x13 0 5
    let base := bits (opnd (x.vals l) 0) 0 32
    let c := bits (opnd (x.vals l) 1) 12 9
    let z := bits (opnd (x.vals l) 1) 0 10
    n < x.launch Launch.nb → base % 128 = 0 → bits (opnd (x.vals l) 1) 21 11 = 0 → bits (opnd (x.vals l) 1) 10 2 = 0 →
    2 ≤ c → c ≤ 256 → 1 ≤ z → z ≤ 512 → base + 128 * z * c ≤ x.share →
    (taskChains x.w x.v.task x.v.place).any (fun ws => ws.any (namesBuf n)) = false →
    Answers s (.cbinit f) ({ x.pop with
      w := x.w.upd (fun d => updBuf d x.v.task x.v.place n (fun b => { b with
        binds := b.binds ++ [{ at_ := x.cc + 8, base, bytes := 128 * z, count := c }] })) } : Iss).done := by
  intro n base c z hn hbase hhigh hmid hc hc' hz hz' hshare hchains
  refine Answers.of_eq h (k := cbinitOp) rfl ?_
  rw [cbinitOp, honce.onceOp_eq]
  dsimp only
  rw [if_neg (not_le.2 hn), if_neg (not_not.2 hbase), if_neg ?_, hchains, if_neg Bool.false_ne_true]
  simp only [not_or, not_not, not_lt]
  exact ⟨hhigh, hmid, hc, hc', hz, hz', hshare⟩

theorem bufferFormsComplete : Claims.BufferFormsComplete :=
  ⟨fun _ _ _ _ _ => cbwait_answers, fun _ _ _ _ _ => cbfree_answers, fun _ _ _ _ _ pop h ho hb hr => bufferRelease_answers pop h ho hb hr,
    fun _ _ _ _ h ho => cbinit_answers h ho⟩

/-! ## Rings and messages (R324, R337, R341) -/

theorem spost_answers {s : State} {f : Form} {x : Iss} {l : Nat} (h : Issues s (.spost f) x) (honce : x.Once [[.n32, .i32]] l)
    (hring : ringIndex x.f < x.launch Launch.ns) (hrec : recFree x.v = true) :
    Answers s (.spost f) (x.releases 6 (.post (ringIndex x.f) (ringSlot x.f) (opnd (x.vals l) 0))) := by
  refine Answers.of_eq h (k := spostOp) rfl ?_
  rw [spostOp, honce.onceOp_eq, if_neg (not_le.2 hring)]
  exact Iss.release_ready hrec _ _

theorem swait_answers {s : State} {f : Form} {x : Iss} {l : Nat} {g : Ring} (h : Issues s (.swait f) x) (honce : x.Once [] l)
    (hg : ringAt x.w.d x.v.task x.v.place (ringIndex x.f) = some g) (hring : ringIndex x.f < x.launch Launch.ns)
    (hphase : (g.slots.getD (ringSlot x.f) (false, 0)).1 = x.f.x13.getLsbD 6)
    (hdue : dueOn x.w.d x.v.task x.v.place (1, 8 * ringIndex x.f + ringSlot x.f) = [])
    (hown : ownCounter x.v (1, 8 * ringIndex x.f + ringSlot x.f) = false) :
    Answers s (.swait f) ({ x with
      w := x.w.upd (fun d => updTaskQuad d x.v.task x.v.place (fun q => { q with
        rings := updAt q.rings (ringIndex x.f) (fun g => { g with waited := keep g.waited (ringSlot x.f) x.cc }) })) }.same 6
      [((g.slots.getD (ringSlot x.f) (false, 0)).2.setWidth 64, .n32)]).done := by
  refine Answers.of_eq h (k := swaitOp) rfl ?_
  rw [swaitOp, honce.onceOp_eq, hg]
  dsimp only
  rw [if_neg (not_le.2 hring), if_neg (by rw [hphase, hdue, hown]; simp)]

theorem sendOp_idle {x : Iss} (hg : x.GuardReady) (ha : x.active = []) : sendOp x = x.done := by
  rw [sendOp, Iss.guardGate_ready hg]
  simp [ha]

/-- R341: each active lane's youngest entries leave as one message, where they can be read and the place is in the rectangle. -/
theorem sendOp_ready {x : Iss} {pl : Place} {q : Nat × Nat} (hg : x.GuardReady) (ha : x.active ≠ []) (hpl : formPlace x.f = some pl)
    (hq : placeQuad x.w.d x.v pl = some q)
    (hargs : ∀ l ∈ x.active, ∀ e ∈ (x.v.lane l).q.take (bits x.f.x13 8 4), e.pending x.cc = false ∧ e.tag ≠ .empty)
    (hrec : recFree x.v = true) :
    let r : Rec := { x.recOf 2 8 (maskOf x.active) (.send (4 * (q.1 + 12 * q.2) + pl.index) (bits x.f.x13 0 8)) [] with
      state := .walk
      messages := x.active.map (fun l => (l, ((x.v.lane l).q.take (bits x.f.x13 8 4)).map (fun e => (e.val, e.tag)))) }
    sendOp x = (x.addRec r).done.upd (fun d => departRec d x.v.uid r.seq) := by
  have hpending : x.active.any (fun l => ((x.v.lane l).q.take (bits x.f.x13 8 4)).any (fun e => e.pending x.cc)) = false := by
    simp only [List.any_eq_false]
    intro l hl
    simpa using fun e he => (hargs l hl e he).1
  have hempty : x.active.filter (fun l => ((x.v.lane l).q.take (bits x.f.x13 8 4)).any (fun e => e.tag == .empty)) = [] := by
    refine List.filter_eq_nil_iff.2 fun l hl => ?_
    simpa using fun e he => (hargs l hl e he).2
  rw [sendOp, Iss.guardGate_ready hg]
  dsimp only
  rw [hpending, hempty, hpl, if_neg (by simpa using ha)]
  simp [hq, hrec]

/-- R83: a form that reads no source waits for its guard alone. -/
theorem Iss.readable_of_no_sources {x : Iss} (hg : x.GuardReady) (hs : x.srcs = []) (ls : List Nat) : x.Readable ls [] := by
  have hwait : x.sourceWait ls = none := by simp [Iss.sourceWait, hs, srcPending, inboxShort, lowestClass]
  have hvals (l : Nat) : x.vals l = [] := by simp [Iss.vals, hs]
  rw [Iss.Readable, Iss.gate, show guardPending x.cc x.v x.p x.f = false from hg, hwait]
  simp [hvals]

theorem inwait_srcs {s : State} {f : Form} {x : Iss} (h : Issues s (.inwait f) x) : x.srcs = [] := by
  have hspec : x.g = sysForm 0xD0 11 false false .none (.field 0x1FFC) := (Option.some.inj h.spec).symm
  rw [Iss.srcs, hspec]
  rfl

theorem inwait_answers {s : State} {f : Form} {x : Iss} (h : Issues s (.inwait f) x) (hg : x.GuardReady)
    (hin : x.active = [] ∨ inboxReady x.cc x.v (bits x.f.x13 0 2) 0 = true) : Answers s (.inwait f) x.done := by
  refine Answers.of_eq h (k := inwaitOp) rfl ?_
  cases ha : x.active with
  | nil =>
    have hout : x.g.out = .none := by rw [← Option.some.inj h.spec]; rfl
    rw [inwaitOp, Iss.onceOp_idle hg ha, Iss.deliver_idle (h.pushes_eq_false (.inl hout))]
  | cons l ls =>
    rw [inwaitOp, Iss.onceOp_ready hg (l := l) (by rw [ha]; rfl) (Iss.readable_of_no_sources hg (inwait_srcs h) _),
      hin.resolve_left (by simp [ha])]
    rfl

theorem ringsAndMessagesComplete : Claims.RingsAndMessagesComplete := by
  refine ⟨fun _ _ _ _ => spost_answers, fun _ _ _ _ _ => swait_answers, fun s f x h hg => ⟨fun ha => ?_, ?_⟩,
    fun _ _ _ => inwait_answers⟩
  · exact Answers.of_eq h (k := sendOp) rfl (sendOp_idle hg ha)
  · intro pl q ha hpl hq args hargs hrec
    exact Answers.of_eq h (k := sendOp) rfl (sendOp_ready hg ha hpl hq hargs hrec)

/-! ## Copies, descriptors and notifications (R326 to R328, R335, R336, R338) -/

/-- R335: a chain is queued, its entry and its inbox slot taken, where there is room for all three; `iv` says that it names an
inbox. The step goes on from the issue with its entry, whose number in the order of issues it has used up. -/
theorem copyOp_ready {x : Iss} {l : Nat} {iv : Bool} (hiv : x.f.x13.getLsbD 12 = iv) (honce : x.Once [[.n32, .i32]] l) :
    let a := bits (opnd (x.vals l) 0) 0 32
    let pos := x.w.d.posOf x.v
    let ei := chooseEngine (x.w.d.quad pos) (bits x.f.x13 8 2)
    let eng := (x.w.d.quad pos).engines.getD ei { chains := [], seq := 0, done := [] }
    let k := bits x.f.x13 10 2
    a < x.share → a % 32 = 0 → eng.chains.length < 16 → recFree x.v = true → (iv = true → inboxRoom x.v k = true) →
    let r : Rec := { x.recOf 1 4 (maskOf (x.active.take 1)) (.copy ei (ei * 65536 + eng.seq)) [] with
      inbox := if iv then some k else none }
    let y := (x.pop.addRec r).same 4 [(BitVec.ofNat 64 (ei * 65536 + eng.seq), .n32)]
    copyOp x = ({ y with
      v := if iv then y.v.reserve k r.seq else y.v
      w := y.w.upd (fun d => d.updQuad pos (fun q => { q with
        engines := updAt q.engines ei (fun e => { e with chains := e.chains ++ [x.chainOf a eng], seq := (e.seq + 1) % 65536 }) })) }
      : Iss).done := by
  intro a pos ei eng k hshare halign hlen hrec hroom
  have hfree : (decide (16 ≤ eng.chains.length) || !recFree x.v || (x.f.x13.getLsbD 12 && !inboxRoom x.v k)) = false := by
    rw [hiv]
    simpa [hrec, hlen] using hroom
  rw [copyOp, honce.onceOp_eq]
  refine (if_neg (not_le.2 hshare)).trans ((if_neg (not_not.2 halign)).trans ((if_neg (Bool.not_eq_true _ ▸ hfree)).trans ?_))
  rw [Iss.chainOf, hiv]
  cases iv <;> rfl

theorem cstat_answers {s : State} {f : Form} {x : Iss} {l : Nat} (h : Issues s (.cstat f) x) (honce : x.Once [[.n32]] l) :
    Answers s (.cstat f)
      (x.pop.same 12 [(handleStatus (x.w.d.quad (x.w.d.posOf x.v)) (bits (opnd (x.vals l) 0) 0 32), .n64)]).done := by
  refine Answers.of_eq h (k := cstatOp) rfl ?_
  rw [cstatOp, honce.onceOp_eq]

theorem Iss.pop_next (x : Iss) : x.pop.next = x.next := by rw [Iss.pop_eq]; rfl

theorem tdesc_answers {s : State} {f : Form} {x : Iss} {l : Nat} (h : Issues s (.tdesc f) x) (honce : x.Once [[.n32, .i32]] l) :
    let dn := bits x.f.x13 0 6
    let a := bits (opnd (x.vals l) 0) 0 32
    let im := readImage x.w x.v.task x.v.place a
    dn < x.launch Launch.nd → a % 128 = 0 → a + 128 ≤ x.share → shareUnsettled x.v a 128 = false →
    lostIn x.w.d (kShare x.v.task x.v.place a) 128 = none → descFormOk im = true →
    descBase im % descElem im = 0 → descSpanOk im x.share = true →
    (taskChains x.w x.v.task x.v.place).any (fun ws => ws.any (namesDesc dn)) = false →
    Answers s (.tdesc f) ({ x.pop with
      w := x.w.upd (fun d => updTaskQuad d x.v.task x.v.place (fun q => { q with
      descs := updAt q.descs dn (fun e => (e.1, some im)) })) }.goto x.next 40 {}) := by
  intro dn a im hdn halign hshare hsettled hlost hform hbase hspan hchains
  refine Answers.of_eq h (k := tdescOp) rfl ?_
  rw [tdescOp, honce.onceOp_eq]
  dsimp only
  rw [if_neg (not_le.2 hdn), if_neg (not_not.2 halign), if_neg (not_lt.2 hshare), hsettled, if_neg Bool.false_ne_true, hlost]
  dsimp only
  rw [hform, if_neg (by decide), if_neg (not_not.2 hbase), hspan, if_neg (by decide), hchains, if_neg Bool.false_ne_true]
  rw [Iss.pop_next]

theorem notificationPopsComplete : Claims.NotificationPopsComplete := by
  intro s f x l c h honce hc hservice
  refine ⟨fun hempty => ?_, fun k hsome hkey => ?_⟩ <;> refine Answers.of_eq h (k := nqpopOp) rfl ?_ <;>
    rw [nqpopOp, honce.onceOp_eq, hc] <;> dsimp only <;> rw [hservice, if_neg (by decide)]
  · exact if_pos hempty
  · rw [if_neg hsome, hkey]

/-! ## A copy that issues -/

/-- The hand-placed wave (log 2) with the address of a chain in lane 0. -/
def copyWave : Wave :=
  { (handDev Dev.reset false).waves.headD (newWave Dev.reset (Launch.fresh 1 1 0 []) (newTask (Launch.fresh 1 1 0 []) 0 0 0) 0 0 0 0) with
    splits := [{ Split.first 0x10000 1 with readyAt := 0 }]
    lanes := List.replicate 32 { Lane.reset with q := { val := 8160, tag := .n32, pend := .clear } :: List.replicate 15 Entry.empty } }

/-- Its device, where the quad's share has 8 KiB. -/
def copyState : State :=
  let d := handDev Dev.reset false
  { dev := { d with
      waves := [copyWave], issuer := some (0, 0), agenda := []
      tasks := d.tasks.map (fun t => { t with quads := t.quads.map (fun q => { q with share := 8192, placed := 8192 }) }) }
    mem := Memory.empty }

/-- A copy of the chain at the address on top of the queue, by the first engine, and naming no inbox. -/
def copyForm : Form :=
  { guard := { inv := false, p := 7 }, ds := .push, fd := 0, sa := .age 0, sb := .age 0, sc := .age 0, packed := false
    ty := .empty, st := false, modw := none, imm := none, x13 := 0x100 }

def copyIssue : Iss :=
  { w := copyState.work, v := copyWave, p := { Split.first 0x10000 1 with readyAt := 0 }, i := .copy copyForm
    g := (formSpec (.copy copyForm)).getD { major := 0, fn := 0 }, f := copyForm, lanes := 1 }

theorem copyIssue_issues : Issues copyState (.copy copyForm) copyIssue where
  issuer := by decide +kernel
  wave := by decide +kernel
  split := by decide +kernel
  spec := by decide +kernel
  form := rfl
  work := rfl
  instr := rfl
  lanes := by decide +kernel
  units := by decide +kernel
  encoded := by decide +kernel
  unwatched := by decide +kernel
  role := by decide +kernel

theorem copyIssue_once : copyIssue.Once [[.n32, .i32]] 0 where
  guard := show guardPending _ _ _ _ = false by decide +kernel
  lane := by decide +kernel
  readable := show copyIssue.gate _ _ = .ready by decide +kernel

/-- The number of the order of issues after the copy: what the model answers, where its entry has taken one. -/
def copyNum : Nat := ((copyOp copyIssue).after copyState).dev.issueNum

theorem copyNum_eq : copyNum = 1 := by decide +kernel

end Sys2Proof.Machine

/-- Refutes O31 at its clause on `copy`: the step goes on from the work in which the entry of the copy has taken a number of the
order of issues (`copyOp_ready`), and the clause from the work before it. The other clauses hold: `bufferFormsComplete`,
`ringsAndMessagesComplete`, `cstat_answers`, `tdesc_answers`, `notificationPopsComplete`. -/
theorem not_transportFormsComplete : ¬ Obligations.TransportFormsComplete := by
  rintro ⟨-, -, ⟨hcopy, -⟩, -⟩
  have hclaim := hcopy copyState copyForm copyIssue 0 copyIssue_issues copyIssue_once (by decide +kernel) (by decide +kernel)
    (by decide +kernel) (by decide +kernel) (by decide +kernel)
  have hmodel : Answers copyState (.copy copyForm) (copyOp copyIssue) := Answers.of_eq copyIssue_issues (k := copyOp) rfl rfl
  have hnum := congrArg (fun t : State => t.dev.issueNum) (Host.Outcome.next.inj (hmodel.symm.trans hclaim))
  exact absurd (copyNum_eq.symm.trans hnum) (by decide +kernel)

end

section
/-! PROOF. The meshes (spec/13 R347 to R363): where a productive port leads, and what the steps of a mesh answer; O47 and O46. -/

open Sys2Proof
open Sys2Proof.Machine

namespace Sys2Proof.Machine

/-! ## Steps of the device -/

/-- A step of the device that succeeds and changes the device alone. -/
theorem State.run_leaves {s : State} {f : Work → Except Refusal Work} {w : Work} {d : Dev} (h : f s.work = .ok w)
    (hd : w.after s = { dev := d, mem := s.mem }) : s.run f = .next { dev := d, mem := s.mem } :=
  (State.run_ok h).trans (congrArg _ hd)

/-! ## Productive ports (R350) -/

section Ports
variable {f : Flit} {x y : Nat}

/-- R350: the columns and rows between a router and a flit's destination. -/
def hopsLeft (f : Flit) (x y : Nat) : Nat := ((x : Int) - f.dx).natAbs + ((y : Int) - f.dy).natAbs

theorem portX_self : portX f f.dx = none := by simp [portX]

theorem portY_self : portY f f.dy = none := by simp [portY]

/-- R350: the port toward the column leads along the row to a router one nearer. -/
theorem portX_approaches (hdx : f.dx < 32) (hx : x < 32) (hne : x ≠ f.dx) :
    ∃ p x', portX f x = some p ∧ across x y p = some (x', y) ∧ hopsLeft f x' y + 1 = hopsLeft f x y ∧ x' < 32 := by
  rcases lt_or_gt_of_ne hne with h | h
  · exact ⟨.east, x + 1, if_pos h, if_neg (by omega), by unfold hopsLeft; omega, by omega⟩
  · exact ⟨.west, x - 1, (if_neg (by omega)).trans (if_pos h), if_neg (by omega), by unfold hopsLeft; omega, by omega⟩

/-- R350: the port toward the row leads along the column to a router one nearer. -/
theorem portY_approaches (hdy : f.dy < 14) (hy : y < 14) (hne : y ≠ f.dy) :
    ∃ p y', portY f y = some p ∧ across x y p = some (x, y') ∧ hopsLeft f x y' + 1 = hopsLeft f x y ∧ y' < 14 := by
  rcases lt_or_gt_of_ne hne with h | h
  · exact ⟨.south, y + 1, if_pos h, if_neg (by omega), by unfold hopsLeft; omega, by omega⟩
  · exact ⟨.north, y - 1, (if_neg (by omega)).trans (if_pos h), if_neg (by omega), by unfold hopsLeft; omega, by omega⟩

theorem hopsLeft_eq_zero : hopsLeft f x y = 0 ↔ x = f.dx ∧ y = f.dy := by
  unfold hopsLeft
  omega

theorem productive_here (m : Mesh) : productive m f f.dx f.dy = if f.br then .bridge else .here := by
  cases m <;> simp [productive, portX_self, portY_self]

theorem productive_approaches (m : Mesh) (hdx : f.dx < 32) (hdy : f.dy < 14) (hx : x < 32) (hy : y < 14) (hfar : hopsLeft f x y ≠ 0) :
    ∃ x' y', across x y (productive m f x y) = some (x', y') ∧ hopsLeft f x' y' + 1 = hopsLeft f x y ∧ x' < 32 ∧ y' < 14 ∧
      (m = .request → x ≠ f.dx → y' = y) ∧ (m = .reply → y ≠ f.dy → x' = x) := by
  have hcol (hne : x ≠ f.dx) := portX_approaches (y := y) hdx hx hne
  have hrow (hne : y ≠ f.dy) := portY_approaches (x := x) hdy hy hne
  rw [ne_eq, hopsLeft_eq_zero, not_and_or] at hfar
  cases m with
  | request =>
    by_cases hxe : x = f.dx
    · obtain ⟨p, y', hp, hacross, hnear, hy'⟩ := hrow (hfar.resolve_left (not_not.2 hxe))
      refine ⟨x, y', ?_, hnear, hx, hy', fun _ hne => absurd hxe hne, fun h => nomatch h⟩
      simpa [productive, hxe, portX_self, hp] using hacross
    · obtain ⟨p, x', hp, hacross, hnear, hx'⟩ := hcol hxe
      refine ⟨x', y, ?_, hnear, hx', hy, fun _ _ => rfl, fun h => nomatch h⟩
      simpa [productive, hp] using hacross
  | reply =>
    by_cases hye : y = f.dy
    · obtain ⟨p, x', hp, hacross, hnear, hx'⟩ := hcol (hfar.resolve_right (not_not.2 hye))
      refine ⟨x', y, ?_, hnear, hx', hy, (fun h => nomatch h), fun _ hne => absurd hye hne⟩
      simpa [productive, hye, portY_self, hp] using hacross
    · obtain ⟨p, y', hp, hacross, hnear, hy'⟩ := hrow hye
      refine ⟨x, y', ?_, hnear, hx, hy', (fun h => nomatch h), fun _ _ => rfl⟩
      simpa [productive, hp] using hacross

end Ports

/-! ## Flits injected, routed and accepted (R350 to R353) -/

/-- R353: a flit its endpoint may inject leaves by its productive port. -/
theorem flitInject_leaves {s : State} {m : Mesh} {f : Flit} {x y : Nat} {e : Endpoint} (h : MayInject s m f x y e) :
    let came : Port := if f.src < 448 then .here else .bridge
    let d := s.dev.updMesh m (fun k => (k.updEndpoint f.src (fun e => e.inject s.dev.cc f)).leave s.dev.cc x y
      (productive m f x y) f came)
    Leaves s (.flitInject m f) (match coreAt x y with
      | some i => count d i f.ctx 13
      | none => d) := by
  obtain ⟨hstopped, hdrain⟩ := h.going
  have hmay : mayInject (s.dev.mesh m) e s.dev.cc = true := by
    simp [mayInject, hstopped, hdrain, h.allowance, h.throttle]
  have hroom : (match productive m f x y with
      | .here => mayAccept (s.dev.mesh m) x y false f
      | .bridge => mayAccept (s.dev.mesh m) x y true f
      | _ => true) = true := by
    split
    · exact h.room ‹_›
    · exact h.roomB ‹_›
    · rfl
  show execFlitInject m f s = _
  refine State.run_leaves (w := s.work.upd fun d => _) ?_ rfl
  simp only [State.work_d, h.router, h.source, h.safe, h.header, h.order, h.quiet, h.free, hmay, Bool.not_true, List.isEmpty_nil,
    Bool.or_self, Bool.false_or, Bool.false_eq_true, if_false]
  exact if_neg (Bool.not_eq_true _ ▸ congrArg not hroom)

/-- R351: a flit sent on leaves the cc. -/
theorem sendFlit_cc (m : Mesh) (x y : Nat) (d : Dev) (f : Moving) : (sendFlit m x y d f).cc = d.cc := by
  have hmesh (d : Dev) (g : MeshState → MeshState) : (d.updMesh m g).cc = d.cc := by cases m <;> rfl
  unfold sendFlit countDeflection
  dsimp only
  repeat' split
  all_goals simp only [count, hmesh]

theorem foldl_sendFlit_cc (m : Mesh) (x y : Nat) (d : Dev) (fs : List Moving) : (fs.foldl (sendFlit m x y) d).cc = d.cc := by
  induction fs generalizing d with
  | nil => rfl
  | cons f fs ih => rw [List.foldl_cons, ih, sendFlit_cc]

theorem flitRoute_leaves {s : State} {m : Mesh} {x y : Nat} (hsafe : s.dev.mg.safe = false)
    (harrived : (s.dev.mesh m).arrived s.dev.cc x y ≠ []) :
    Leaves s (.flitRoute m x y)
      (((sortBy (Moving.rank s.dev.cc) ((s.dev.mesh m).arrived s.dev.cc x y)).foldl (sendFlit m x y) s.dev).updMesh m
        (fun k => k.tidy s.dev.cc)) := by
  show execFlitRoute m x y s = _
  refine State.run_leaves ((if_neg (by simp [hsafe])).trans ((if_neg (by simpa using harrived)).trans rfl)) ?_
  exact congrArg (fun c => ({ dev := Dev.updMesh _ m (fun k => k.tidy c), mem := s.mem } : State)) (foldl_sendFlit_cc ..)

theorem flitAccept_leaves {s : State} {m : Mesh} {x y : Nat} {b : Bool} {o : Moving × Bool}
    (ho : (s.dev.mesh m).offered.find? (offeredAt x y b) = some o) :
    let d := if o.1.flit.cnt = 0 ∧ m = .request then leavePort s.dev (endpointAt x y b) else s.dev
    Leaves s (.flitAccept m x y b) (d.updMesh m (fun k => accepted m k s.dev.cc x y b o.1)) := by
  show execFlitAccept m x y b s = _
  have hfind : (s.work.d.mesh m).offered.find? (fun o => o.1.x == x && o.1.y == y && o.2 == b) = some o := ho
  refine State.run_leaves (w := s.work.upd fun d => _) (by dsimp only; rw [hfind]) ?_
  have hport : (decide (o.1.flit.cnt = 0) && m == .request) = decide (o.1.flit.cnt = 0 ∧ m = .request) := by
    cases m <;> simp
  simp only [hport, accepted, Bool.or_eq_true, decide_eq_true_eq]
  rfl

/-! ## Packets complete and incomplete (R359, R360) -/

section Slots
variable {s : State} {m : Mesh} {e k : Nat} {r : Reasm} (hslot : ((s.dev.mesh m).endpoint e).reasm.find? (fun r => r.slot == k) = some r)
include hslot

theorem packetReassembled_leaves (hfull : r.complete = true) : Leaves s (.packetReassembled m e k)
    (keepPacket (freeSlot (if m = .request then leavePort s.dev e else s.dev) m e k) e r) := by
  show execPacketReassembled m e k s = _
  apply State.run_leaves
  · simp only [State.work_d, hslot, hfull, if_true]
    rfl
  · cases m <;> rfl

theorem reassemblyTimeout_answers (hpart : r.complete = false) (hold : r.since + 1048576 ≤ s.dev.cc) :
    let w := s.work.upd (fun d => (freeSlot d m e k).updMg (fun g => { g with reasm := g.reasm + 1 }))
    Answers s (.reassemblyTimeout m e k)
      (post w (.endpoint e) r.ctx (notif w.d nkReassembly r.ctx e (BitVec.ofNat 64 (2 ^ k)) 0) .none) := by
  show execReassemblyTimeout m e k s = _
  refine State.run_ok ?_
  simp only [State.work_d, hslot, hpart, not_lt.2 hold, decide_false, Bool.or_self, Bool.false_eq_true, if_false]

end Slots

/-! ## Throttle windows and drain (R354, R355) -/

theorem throttleWindow_leaves {s : State} {m : Mesh} {e : Nat} (he : e < 464)
    (hdue : ((s.dev.mesh m).endpoint e).windowAt + 256 ≤ s.dev.cc) :
    Leaves s (.throttleWindow m e) (s.dev.updMesh m (fun k => k.updEndpoint e (fun e =>
      { e with level := throttleLevel e.deflections, lastWindow := e.deflections, deflections := 0, windowAt := s.dev.cc }))) := by
  show execThrottleWindow m e s = _
  exact State.run_leaves ((if_neg (not_le.2 he)).trans (if_neg (not_lt.2 hdue))) rfl

theorem drainEntry_leaves {s : State} {m : Mesh} (hout : (s.dev.mesh m).drain = false) (hdue : (s.dev.mesh m).drainDue s.dev.cc = true) :
    Leaves s (.drainEntry m) ((s.dev.updMesh m (fun k => { k with drain := true, drainClear := none, aged := none }.tidy s.dev.cc)).updMg
      (fun g => { g with drains := g.drains + 1 })) := by
  show execDrainEntry m s = _
  exact State.run_leaves ((if_neg (by simp [hout])).trans (if_neg (by simp [hdue]))) rfl

theorem drainExit_leaves {s : State} {m : Mesh} {c : Nat} (hin : (s.dev.mesh m).drain = true) (hclear : (s.dev.mesh m).drainClear = some c)
    (hnone : (s.dev.mesh m).anySaturated s.dev.cc = false) (hoffered : (s.dev.mesh m).offered = []) (hcc : c + 64 ≤ s.dev.cc) :
    Leaves s (.drainExit m) (s.dev.updMesh m (fun k => { k with drain := false, drainClear := none })) := by
  show execDrainExit m s = _
  apply State.run_leaves
  · simp only [State.work_d, hclear, hin, hnone, hoffered, not_lt.2 hcc, decide_false, List.isEmpty_nil, Bool.not_true, Bool.or_self,
      Bool.false_eq_true, if_false]
    rfl
  · rfl

end Sys2Proof.Machine

/-- Settles O47: toward the column and toward the row, in the order of each mesh. -/
theorem productivePortsApproach : Obligations.ProductivePortsApproach := by
  intro m f x y hdx hdy hx hy far
  refine ⟨fun hfar => ?_, productive_approaches m hdx hdy hx hy⟩
  obtain ⟨rfl, rfl⟩ := hopsLeft_eq_zero.1 hfar
  exact productive_here m

/-- Settles O46, step by step. -/
theorem meshStepsPass : Obligations.MeshStepsPass :=
  ⟨fun _ _ _ _ _ _ => flitInject_leaves, fun _ _ _ _ => flitRoute_leaves, fun _ _ _ _ _ _ => flitAccept_leaves,
    fun _ _ _ _ _ hslot => ⟨packetReassembled_leaves hslot, reassemblyTimeout_answers hslot⟩, fun _ _ _ => throttleWindow_leaves,
    fun _ _ => drainEntry_leaves, fun _ _ _ => drainExit_leaves⟩

end

section
/-! PROOF. Groups (spec/14 R372, R374): what an arrival and the sets of a slot leave; O38. -/

open Sys2Proof
open Sys2Proof.Machine

namespace Sys2Proof.Machine

section Slots
variable {g : Group} {cc n k : Nat} {v : Word} {t : Ty}

theorem Group.get_of_set_now {m : Nat} {v0 : Word} {t0 : Ty} (h : g.sets.getD k none = some (cc, m, v0, t0)) :
    g.get cc k = (v0, t0) := by
  simp only [Group.get, h, if_true]

/-- R374: a set below one of its own cc leaves the group as it was. -/
theorem Group.set_below {m : Nat} {v0 : Word} {t0 : Ty} (h : g.sets.getD k none = some (cc, m, v0, t0)) (hn : n < m) :
    g.set cc n k v t = g := by
  simp only [Group.set, h, hn, if_true]

/-- R374: any other set stands, with what the slot read before the sets of its cc. -/
theorem Group.set_stands (h : ∀ m v0 t0, g.sets.getD k none = some (cc, m, v0, t0) → m ≤ n) : g.set cc n k v t =
    { g with slots := g.slots.set k (v, t), sets := g.sets.set k (some (cc, n, (g.get cc k).1, (g.get cc k).2)) } := by
  cases hs : g.sets.getD k none with
  | none => simp only [Group.set, Group.get, hs]
  | some x =>
    obtain ⟨c, m, v0, t0⟩ := x
    by_cases hc : c = cc
    · subst hc
      simp only [Group.set, Group.get, hs, if_true, if_neg (not_lt.2 (h m v0 t0 hs))]
    · simp only [Group.set, Group.get, hs, if_neg hc]

theorem Group.get_set_later (hslots : k < g.slots.length) (hsets : k < g.sets.length) {later : Nat} (hlater : later ≠ cc)
    (h : ∀ m v0 t0, g.sets.getD k none = some (cc, m, v0, t0) → m ≤ n) : (g.set cc n k v t).get later k = (v, t) := by
  rw [Group.set_stands h]
  simp [Group.get, hslots, hsets, hlater.symm]

theorem Group.get_set_now (hsets : k < g.sets.length) (j : Nat) : (g.set cc n k v t).get cc j = g.get cc j := by
  by_cases hbelow : ∃ m v0 t0, g.sets.getD k none = some (cc, m, v0, t0) ∧ n < m
  · obtain ⟨m, v0, t0, hs, hn⟩ := hbelow
    rw [Group.set_below hs hn]
  · push Not at hbelow
    rw [Group.set_stands hbelow]
    by_cases hj : k = j
    · subst hj
      exact Group.get_of_set_now (m := n) (by rw [List.getD_eq_getElem?_getD, List.getElem?_set_self hsets]; rfl)
    · simp only [Group.get, List.getD_eq_getElem?_getD, List.getElem?_set_ne hj]

end Slots

theorem Group.arrival_eq (g : Group) : g.arrival = if g.arrived + 1 = g.count then { g with arrived := 0, gen := (g.gen + 1) % 256 }
    else { g with arrived := g.arrived + 1 } := rfl

end Sys2Proof.Machine

/-- Settles O38: an arrival counted, a slot set above and below another set of the cc, and read in it and later. -/
theorem groupsCountArrivals : Obligations.GroupsCountArrivals := by
  intro g cc n v t k hslots hsets
  refine ⟨⟨rfl, rfl, rfl⟩, g.arrival_eq, fun later => Group.get_set_later hslots hsets, fun later m v0 t0 hs hn => ?_,
    Group.get_set_now hsets⟩
  rw [Group.set_below hs hn]

end

section
/-! PROOF. Group forms and `launch` at issue (spec/14 R367 to R374, R382): arrivals, waits, slots and launches; O32. -/

open Sys2Proof
open Sys2Proof.Machine

namespace Sys2Proof.Machine

/-! ## Arrivals (R185, R372) -/

section Arrive
variable {x : Iss} {g : Group} {b : Nat}

theorem Iss.InGroup.groupOp_eq {accs : List (List Ty)} {l : Nat} (h : x.InGroup accs l g) (tags : List Ty)
    (k : Iss → Nat → Group → List (Word × Ty) → Work) : x.groupOp accs tags k = k x (gidOf x.f) g (x.vals l) :=
  Iss.groupOp_ready h.once.guard h.once.lane h.once.readable h.group h.member tags k

/-- R185, R372: an arrival that begins asks for a commit, once an earlier one is released and the tile stores are complete. -/
theorem Iss.arrive_of_idle (hstage : x.p.stage = .idle)
    (hreleased : (x.v.gid (gidOf x.f)).arr = false ∨ released x.v (gidOf x.f) g = true)
    (hstored : fenceDone x.v [] (fenceSet x.w.d x.v 0).2 = true) (next : Iss → Work) :
    x.arrive (gidOf x.f) g next = x.boundary false 5 .arrive := by
  have hearlier : ((x.v.gid (gidOf x.f)).arr && !released x.v (gidOf x.f) g) = false := by
    obtain harr | hrel := hreleased
    · simp [harr]
    · simp [hrel]
  unfold Iss.arrive
  rw [hstage]
  simp [hearlier, hstored]

/-- R372: a wave whose commit has come, and that has not arrived in this generation, arrives. -/
theorem Iss.arrive_of_committed (hstage : x.p.stage = .arrive b) (hb : b ≤ (x.w.d.core x.core).committed)
    (hnew : (x.v.gid (gidOf x.f)).arr = true → (x.v.gid (gidOf x.f)).gen ≠ g.gen) (hrec : recFree x.v = true) (next : Iss → Work) :
    x.arrive (gidOf x.f) g next = x.arrives g next := by
  have hfirst : ((x.v.gid (gidOf x.f)).arr && (x.v.gid (gidOf x.f)).gen == g.gen) = false := by
    cases harr : (x.v.gid (gidOf x.f)).arr with
    | false => rfl
    | true => simpa using hnew harr
  unfold Iss.arrive
  rw [hstage]
  dsimp only
  rw [if_neg (not_lt.2 hb), hfirst, if_neg Bool.false_ne_true, if_neg (by simp [hrec])]
  rfl

/-- R372: a wave that another split of it has brought to this generation's arrival goes on. -/
theorem Iss.arrive_of_arrived (hstage : x.p.stage = .arrive b) (hb : b ≤ (x.w.d.core x.core).committed)
    (harr : (x.v.gid (gidOf x.f)).arr = true) (hgen : (x.v.gid (gidOf x.f)).gen = g.gen) (next : Iss → Work) :
    x.arrive (gidOf x.f) g next = next x := by
  unfold Iss.arrive
  rw [hstage]
  dsimp only
  rw [if_neg (not_lt.2 hb), if_pos (by simp [harr, hgen])]

theorem garrOp_eq {l : Nat} (h : x.InGroup [] l g) : garrOp x = x.arrive (gidOf x.f) g Iss.done := by
  rw [garrOp, h.groupOp_eq]

/-- R372: `gbar` arrives where it is not yet waiting. -/
theorem gbarOp_eq_arrive {l : Nat} (h : x.InGroup [] l g) (hstage : x.p.stage = .idle ∨ ∃ b, x.p.stage = .arrive b) :
    gbarOp x = x.arrive (gidOf x.f) g (fun y => (y.stage (.arriving y.v.recSeq)).wait 5) := by
  rw [gbarOp, h.groupOp_eq]
  obtain hs | ⟨b, hs⟩ := hstage <;> rw [hs]

/-- R372: a wait whose entry is performed ends with BROKEN. -/
theorem Iss.groupWait_of_entered (hstage : x.p.stage = .entering (some b)) (hb : b ≤ (x.w.d.core x.core).entered) (k : Nat) :
    x.groupWait k g = (x.setPred x.active x.f.pd 4 (fun _ => g.broken)).done := by
  unfold Iss.groupWait
  rw [hstage]
  exact if_pos hb

end Arrive

/-- R372: `garr` and `gbar` begin alike. -/
theorem arrivalForms_begin {i : Instr} {x : Iss} {l : Nat} {g : Group} (hi : ∃ f, i = .garr f ∨ i = .gbar f) (hg : x.InGroup [] l g)
    (hstage : x.p.stage = .idle) : ∃ k next, (∀ s, exec i s = s.issue i k) ∧ k x = x.arrive (gidOf x.f) g next := by
  obtain ⟨f, rfl | rfl⟩ := hi
  · exact ⟨garrOp, _, fun _ => rfl, garrOp_eq hg⟩
  · exact ⟨gbarOp, _, fun _ => rfl, gbarOp_eq_arrive hg (.inl hstage)⟩

/-- R372: `gwait` and `gbar` wait alike. -/
theorem waitForms_enter {i : Instr} {x : Iss} {l b : Nat} {g : Group} (hi : ∃ f, i = .gwait f ∨ i = .gbar f) (hg : x.InGroup [] l g)
    (hstage : x.p.stage = .entering (some b)) : ∃ k, (∀ s, exec i s = s.issue i k) ∧ k x = x.groupWait (gidOf x.f) g := by
  obtain ⟨f, rfl | rfl⟩ := hi
  · refine ⟨gwaitOp, fun _ => rfl, ?_⟩
    rw [gwaitOp, hg.groupOp_eq, hstage]
    exact if_neg (by simp)
  · refine ⟨gbarOp, fun _ => rfl, ?_⟩
    rw [gbarOp, hg.groupOp_eq, hstage]

theorem groupBarriersComplete : Claims.GroupBarriersComplete := by
  refine ⟨fun s i x l g h hi hg hstage hreleased hstored => ?asks, fun s f x l g b h hg hstage hb hnew hrec => ?garr,
    fun s f x l g b h hg hstage hb hnew hrec => ?gbar, fun s f x l g b wait h hg hstage hb harr hgen => ?again,
    fun s f x l g h hg hstage harr => ?unarrived, fun s i x l b g h hi hg hstage hb => ?entered⟩
  case asks =>
    obtain ⟨k, next, hexec, hk⟩ := arrivalForms_begin hi hg hstage
    exact Answers.of_eq h (hexec s) (hk.trans (Iss.arrive_of_idle hstage hreleased hstored next))
  case garr =>
    exact Answers.of_eq h (k := garrOp) rfl ((garrOp_eq hg).trans (Iss.arrive_of_committed hstage hb hnew hrec _))
  case gbar =>
    have harrives := (gbarOp_eq_arrive hg (.inr ⟨b, hstage⟩)).trans (Iss.arrive_of_committed hstage hb hnew hrec _)
    exact Answers.of_eq h (k := gbarOp) rfl harrives
  case again =>
    cases wait with
    | true =>
      have hgoes := (gbarOp_eq_arrive hg (.inr ⟨b, hstage⟩)).trans (Iss.arrive_of_arrived hstage hb harr hgen _)
      exact Answers.of_eq h (k := gbarOp) rfl hgoes
    | false => exact Answers.of_eq h (k := garrOp) rfl ((garrOp_eq hg).trans (Iss.arrive_of_arrived hstage hb harr hgen _))
  case unarrived =>
    refine Answers.of_eq h (k := gwaitOp) rfl ?_
    rw [gwaitOp, hg.groupOp_eq]
    exact if_pos (by simp [hstage, harr])
  case entered =>
    obtain ⟨k, hexec, hk⟩ := waitForms_enter hi hg hstage
    exact Answers.of_eq h (hexec s) (hk.trans (Iss.groupWait_of_entered hstage hb _))

/-! ## Group slots and launches (R369, R374, R382) -/

/-- R293, R354: what an entry's allocation makes of the device. -/
theorem Iss.addRec_dev (x : Iss) (r : Rec) : (x.addRec r).w.d = { x.w.d with issueNum := x.w.d.issueNum + 1 } ∨
    (x.addRec r).w.d = noteInject { x.w.d with issueNum := x.w.d.issueNum + 1 } x.core := by
  unfold Iss.addRec
  dsimp only [Work.upd]
  split
  · exact .inr rfl
  · exact .inl rfl

/-- R293: an entry allocated moves neither the wave nor the cc. -/
theorem Iss.binds_cc_core (x : Iss) (tags : List Ty) (r : Rec) : (x.binds tags r).cc = x.cc ∧ (x.binds tags r).core = x.core := by
  unfold Iss.binds
  rw [Iss.pop_eq]
  generalize x.pop.v.inboxes = b
  show (Iss.addRec _ r).w.d.cc = _ ∧ (Iss.addRec _ r).w.d.coreOf x.v = _
  obtain h | h := Iss.addRec_dev { x with v := { x.v with inboxes := b } } r <;> rw [h] <;> exact ⟨rfl, rfl⟩

theorem Iss.binds_uid (x : Iss) (tags : List Ty) (r : Rec) : (x.binds tags r).v.uid = x.v.uid := by
  unfold Iss.binds
  rw [Iss.pop_eq]
  rfl

/-- R374: a request to the group unit issues where an entry is free. -/
theorem Iss.groupRequest_ready {x : Iss} (hrec : recFree x.v = true) (tags : List Ty) (k : Nat) (r : Rec) :
    x.groupRequest tags k r = (x.binds tags r).done.upd (fun d =>
      { d with groupReqs := d.groupReqs ++ [groupReq (x.binds tags r).v r k (x.cc + 8)] }) := by
  unfold Iss.groupRequest
  rw [if_neg (by simp [hrec])]
  show (x.binds tags r).done.upd (fun d =>
    { d with groupReqs := d.groupReqs ++ [groupReq (x.binds tags r).v r k ((x.binds tags r).cc + 8)] }) = _
  rw [(x.binds_cc_core tags r).1]

theorem groupSlotsComplete : Claims.GroupSlotsComplete := by
  refine ⟨fun s f x l g h hg hrec => ?gset, fun s f x l g h hg hrec => ?gget⟩
  case gset =>
    refine Answers.of_eq h (k := gsetOp) rfl ?_
    rw [gsetOp, hg.groupOp_eq, Iss.groupRequest_ready hrec]
  case gget =>
    refine Answers.of_eq h (k := ggetOp) rfl ?_
    rw [ggetOp, hg.groupOp_eq, Iss.groupRequest_ready hrec]

/-- R382: a launch's entry, `seq` of wave `u`, waits for the commit that the boundary asked for gives. -/
def launchBound (b : Work × Nat) (u seq : Nat) : Work :=
  b.1.upd (fun d => departRec (d.updWave u (fun v => v.updRec seq (fun r => { r with phys := [b.2] }))) u seq)

theorem launchInstructionsIssue : Claims.LaunchInstructionsIssue := by
  intro s f x l h honce a r
  refine ⟨fun halign => ?_, fun halign hrec => ?_⟩ <;> refine Answers.of_eq h (k := launchOp) rfl ?_ <;>
    rw [launchOp, honce.onceOp_eq]
  · exact if_pos halign
  · refine (if_neg (not_not.2 halign)).trans ((if_neg (by simp [hrec])).trans ?_)
    show launchBound (requestBoundary (x.binds [.n32] r).done (x.binds [.n32] r).core false) (x.binds [.n32] r).v.uid r.seq = _
    rw [(x.binds_cc_core [.n32] r).2, x.binds_uid]
    rfl

end Sys2Proof.Machine

/-- Settles O32: arrivals, waits, slots and launches. -/
theorem groupFormsComplete : Obligations.GroupFormsComplete := ⟨groupBarriersComplete, groupSlotsComplete, launchInstructionsIssue⟩

end

section
/-! PROOF. System forms at issue (spec/14 R377, R378, R384 to R388): special registers, places and page tables; O33. -/

open Sys2Proof
open Sys2Proof.Machine

namespace Sys2Proof.Machine

theorem Attempts.dev_eq {s : State} {i : Instr} {x : Iss} (h : Attempts s i x) : s.dev = x.w.d := by rw [h.work, State.work_d]

/-! ## Special registers (R108, R388, R394) -/

section SpecialRegisters
variable {x : Iss} {l : Nat}

/-- R388: a register that is refused: a service register of another wave, or a buffer register past the task's buffers. -/
theorem srdOp_refused (h : x.Once [] l)
    (hrefused : (srService (bits x.f.x13 0 8) = true ∧ x.service = false) ∨
      (0x40 ≤ bits x.f.x13 0 8 ∧ bits x.f.x13 0 8 ≤ 0x5F ∧ x.launch Launch.nb ≤ bits x.f.x13 0 8 - 0x40)) :
    srdOp x = x.trap tProt 0 := by
  rw [srdOp, h.onceOp_eq]
  by_cases hservice : (srService (bits x.f.x13 0 8) && !x.service) = true
  · exact if_pos hservice
  · refine (if_neg hservice).trans (if_pos ?_)
    rw [Bool.and_eq_true, Bool.not_eq_true'] at hservice
    simpa [and_assoc] using hrefused.resolve_left hservice

theorem srdOp_delivers (h : x.Once [] l) (hservice : srService (bits x.f.x13 0 8) = true → x.service = true)
    (hbuf : 0x40 ≤ bits x.f.x13 0 8 → bits x.f.x13 0 8 ≤ 0x5F → bits x.f.x13 0 8 - 0x40 < x.launch Launch.nb) :
    srdOp x = (x.same 12 [(BitVec.ofNat 64 (srValue x.w.d x.v x.p (bits x.f.x13 0 8)), srTag (bits x.f.x13 0 8))]).done := by
  rw [srdOp, h.onceOp_eq]
  refine (if_neg ?_).trans (if_neg ?_)
  · simpa using hservice
  · simpa using hbuf

/-- R388: what `swr` of register `n` makes of its wave, `raised` being the flags raised in this cc. -/
def swrWave (v : Wave) (n a : Nat) (raised : Fl × Bool) : Wave :=
  if n = 7 then { v with fpFlags := BitVec.ofNat 5 a ||| raised.1 }
  else if n = 8 then { v with intFlag := a == 1 || raised.2 }
  else { v with fpTrapEn := BitVec.ofNat 5 a }

theorem swrOp_writes (h : x.Once [[.n32, .i32, .raw]] l)
    (hfits : (opnd (x.vals l) 0).toNat < (if bits x.f.x13 0 8 = 8 then 2 else 32)) :
    swrOp x = ({ x.pop with
      v := swrWave x.pop.v (bits x.f.x13 0 8) (opnd (x.vals l) 0).toNat (raisedIn x.v x.cc) } : Iss).done := by
  rw [swrOp, h.onceOp_eq]
  refine (if_neg (not_le.2 hfits)).trans (congrArg (fun v => ({ x.pop with v } : Iss).done) ?_)
  rw [swrWave]
  generalize bits x.f.x13 0 8 = n
  split
  · rfl
  · rfl
  · rw [if_neg ‹_›, if_neg ‹_›]

end SpecialRegisters

theorem specialRegistersComplete : Claims.SpecialRegistersComplete := by
  refine ⟨fun s f x l h honce => ?srd, fun s f x l h honce => ?swr⟩
  case srd =>
    have answers {w : Work} (hw : srdOp x = w) : Answers s (.srd f) w := Answers.of_eq h rfl hw
    refine ⟨fun hsr hservice => answers (srdOp_refused honce (.inl ⟨hsr, hservice⟩)),
      fun hlo hhi hbuf => answers (srdOp_refused honce (.inr ⟨hlo, hhi, hbuf⟩)), fun hservice hbuf => ?_⟩
    rw [h.dev_eq]
    exact answers (srdOp_delivers honce hservice hbuf)
  case swr =>
    have answers {w : Work} (hw : swrOp x = w) : Answers s (.swr f) w := Answers.of_eq h rfl hw
    refine ⟨fun hwide => answers ?_, fun hfits => answers (swrOp_writes honce hfits)⟩
    rw [swrOp, honce.onceOp_eq]
    exact if_pos hwide

/-! ## Places (R80, R378) -/

theorem placesDeliver : Claims.PlacesDeliver := by
  intro s f x l p h y honce hplace
  rw [h.dev_eq]
  refine ⟨Answers.of_eq h (k := placeOp) rfl ?_, fun hout => ?_⟩
  · unfold placeOp
    refine (honce.onceOp_eq _ _).trans ?_
    rw [hplace]
  · rw [placeValue, hout]

/-! ## Page tables (R384, R385, R387) -/

section PageTables
variable {x : Iss} {l : Nat}

/-- R384: an operand that `ptset` reads where it writes a whole entry. -/
def Iss.ptsetReads (x : Iss) : Iss := { x with g := { x.g with rb := x.f.x13.getLsbD 5 } }

theorem ptsetOp_refused (h : x.ptsetReads.Once [[.ptr], [.n64, .i64, .raw]] l) (hservice : x.service = false) :
    ptsetOp x = x.ptsetReads.trap tProt 0 := by
  unfold ptsetOp
  refine (h.onceOp_eq _ _).trans (if_pos ?_)
  rw [show x.ptsetReads.service = false from hservice]
  rfl

theorem ptsetOp_ready (h : x.ptsetReads.Once [[.ptr], [.n64, .i64, .raw]] l) (hservice : x.service = true) (hrec : recFree x.v = true) :
    let y := x.ptsetReads
    ptsetOp x = (y.binds [.n32] (y.recOf 1 11 (maskOf y.active) (.ptset ((opnd (y.vals l) 0).setWidth 57) (x.f.x13.getLsbD 5)
      (x.f.x13.getLsbD 4) (bits x.f.x13 0 4) (opnd (y.vals l) 1)) [])).done := by
  unfold ptsetOp
  refine (h.onceOp_eq _ _).trans ((if_neg ?_).trans (if_neg ?_))
  · simp [show x.ptsetReads.service = true from hservice]
  · simp [show recFree x.ptsetReads.v = true from hrec]

theorem pgcntOp_refused (h : x.Once [[.ptr]] l) (hservice : x.service = false) : pgcntOp x = x.trap tProt 0 := by
  rw [pgcntOp, h.onceOp_eq]
  exact if_pos (by simp [hservice])

theorem pgcntOp_ready (h : x.Once [[.ptr]] l) (hservice : x.service = true) (hrec : recFree x.v = true) :
    pgcntOp x = (x.binds [.n32] { x.recOf (if x.f.x13.getLsbD 0 then 2 else 0) 13 (maskOf x.active)
      (.pgcnt ((opnd (x.vals l) 0).setWidth 57) (x.f.x13.getLsbD 0)) [] with state := .timed (x.cc + 200) }).done := by
  rw [pgcntOp, h.onceOp_eq]
  exact (if_neg (by simp [hservice])).trans (if_neg (by simp [hrec]))

theorem tlbinvOp_refused (h : x.Once [[.ptr], [.n32, .n64]] l) (hstage : x.p.stage = .idle) (hservice : x.service = false) :
    tlbinvOp x = x.trap tProt 0 := by
  rw [tlbinvOp, h.onceOp_eq]
  dsimp only
  rw [hstage]
  exact if_pos (by simp [hservice])

/-- R387: an invalidation starts once the earlier `ptset`s are written. -/
theorem tlbinvOp_starts (h : x.Once [[.ptr], [.n32, .n64]] l) (hstage : x.p.stage = .idle) (hservice : x.service = true)
    (ha : ((opnd (x.vals l) 0).setWidth 57 : VAddr).toNat % 4096 = 0) (hn : (opnd (x.vals l) 1).toNat % 4096 = 0)
    (hlen : (opnd (x.vals l) 1).toNat ≤ 2 ^ 40) (hptsets : x.v.recs.all (fun r => r.kind != 11) = true) (hrec : recFree x.v = true) :
    let a : VAddr := (opnd (x.vals l) 0).setWidth 57
    let n := (opnd (x.vals l) 1).toNat
    let num := x.w.d.invalNum + 1
    let r := x.recOf 0 12 (maskOf (x.active.take 1)) (.tlbinv a n num) []
    tlbinvOp x = (((x.addRec r).stage (.tlbinv num)).wait 10).upd (fun d => startInval d x.v.ctx a.toNat n (some (x.v.uid, r.seq))) := by
  have hnone : x.v.recs.any (fun r => r.kind == 11) = false := by
    simpa [List.any_eq_false] using hptsets
  rw [tlbinvOp, h.onceOp_eq]
  dsimp only
  rw [hstage]
  refine (if_neg (by simp [hservice])).trans ((if_neg ?_).trans ((if_neg (not_lt.2 hlen)).trans (if_neg ?_)))
  · exact not_or.2 ⟨not_not.2 ha, not_not.2 hn⟩
  · simp [hnone, hrec]

theorem tlbinvOp_ends {k : Nat} (h : x.Once [[.ptr], [.n32, .n64]] l) (hstage : x.p.stage = .tlbinv k)
    (hended : x.w.d.invals.all (fun i => i.num != k) = true) : tlbinvOp x = x.pop.done := by
  have hnone : x.w.d.invals.any (fun i => i.num == k) = false := by
    simpa [List.any_eq_false] using hended
  rw [tlbinvOp, h.onceOp_eq]
  dsimp only
  rw [hstage]
  exact if_neg (by simp [hnone])

end PageTables

theorem pageTableFormsComplete : Claims.PageTableFormsComplete := by
  refine ⟨fun s f x l h => ?ptset, fun s f x l h honce => ?pgcnt, fun s f x l h honce => ?tlbinv⟩
  case ptset =>
    intro full y honce
    exact ⟨fun hservice => Answers.of_eq h (k := ptsetOp) rfl (ptsetOp_refused honce hservice),
      fun hservice hrec => Answers.of_eq h (k := ptsetOp) rfl (ptsetOp_ready honce hservice hrec)⟩
  case pgcnt =>
    exact ⟨fun hservice => Answers.of_eq h (k := pgcntOp) rfl (pgcntOp_refused honce hservice),
      fun hservice hrec => Answers.of_eq h (k := pgcntOp) rfl (pgcntOp_ready honce hservice hrec)⟩
  case tlbinv =>
    have answers {w : Work} (hw : tlbinvOp x = w) : Answers s (.tlbinv f) w := Answers.of_eq h rfl hw
    exact ⟨fun hstage hservice => answers (tlbinvOp_refused honce hstage hservice),
      fun hstage hservice ha hn hlen hptsets hrec => answers (tlbinvOp_starts honce hstage hservice ha hn hlen hptsets hrec),
      fun k hstage hended => answers (tlbinvOp_ends honce hstage (h.dev_eq ▸ hended))⟩

end Sys2Proof.Machine

/-- Settles O33: special registers, places and page tables. -/
theorem systemFormsComplete : Obligations.SystemFormsComplete := ⟨specialRegistersComplete, placesDeliver, pageTableFormsComplete⟩

end

section
/-! PROOF. Writes of registers (spec/18 R447, R448), messages, handlers and held notifications (spec/12 R338 to R342): what each step
answers; O43. -/

open Sys2Proof
open Sys2Proof.Machine

namespace Sys2Proof.Machine

/-! ## Writes of registers (R438, R447, R448) -/

section Registers
variable {s : State} {i : Instr} {g : Work → Except Refusal Work} {off : Nat} {ok : Bool} {P : Prop}

theorem regWrite_takes {w : Work} (k : Work → Work) (hsafe : w.d.mg.safe = false) (hok : ok = true) : regWrite w off ok k = k w :=
  if_neg (by simp [hsafe, hok])

theorem regWrite_refuses {w : Work} (k : Work → Work) (h : w.d.mg.safe = true ∨ ok = false) :
    regWrite w off ok k = w.upd (fun d => reject d off) :=
  if_pos (by simpa using h)

/-- R438, R447: a step that is a write of a device register. -/
theorem RegWrites.of_run {f : Dev → Dev} (hi : exec i s = s.run g) (hg : g s.work = .ok (regWrite s.work off ok (fun w => w.upd f)))
    (hok : ok = true ↔ P) : RegWrites s i off P f := by
  refine ⟨fun hsafe hp => hi.trans (State.run_leaves (w := s.work.upd f) ?_ rfl),
    fun hrefused => hi.trans (State.run_leaves (w := s.work.upd fun d => reject d off) ?_ rfl)⟩
  · rw [hg, regWrite_takes _ hsafe (hok.2 hp)]
  · rw [hg, regWrite_refuses _ (hrefused.imp_right fun hp => Bool.eq_false_iff.2 (mt hok.1 hp))]

/-- R435, R448: a step that is a write of a register of a context, which may be written while the context has a saved task. -/
theorem CtxWrites.of_run {block : Nat} {value : Word} {c : Ctx} {k : Work → Ctx → Work} {f : Dev → Dev} (hi : exec i s = s.run g)
    (hg : g s.work = ctxWrite s.work block off value true ok k) (hok : ok = true ↔ P) (hk : ∀ w, k w c = w.upd f) :
    CtxWrites s i block off value c P f := by
  intro w hgate hctx
  have hwrite : g s.work = .ok (regWrite w (blockOffset block + off) ok (fun w => k w c)) := by
    rw [hg, ctxWrite, hgate]
    simp only [hctx, Bool.true_or, Bool.and_true]
  refine ⟨fun hsafe hp => hi.trans (State.run_ok ?_), fun hrefused => hi.trans (State.run_ok ?_)⟩
  · rw [hwrite, regWrite_takes _ hsafe (hok.2 hp), hk]
  · rw [hwrite, regWrite_refuses _ (hrefused.imp_right fun hp => Bool.eq_false_iff.2 (mt hok.1 hp))]

end Registers

/-! ## Messages (R341) -/

section Messages
variable {s : State} {k : Nat} {q : MsgReq}

theorem messageAccept_answers {t : Task} (hq : s.dev.msgReqs[k]? = some q) (hsent : q.refusedAt = none)
    (hinjected : uninjected s.dev q.wave q.seq = false) (ht : s.dev.task q.msg.task = some t) (hholds : t.holds = true) :
    Answers s (.messageAccept k) (receive s.work k q t) := by
  show execMessageAccept k s = _
  refine State.run_ok ?_
  simp only [State.work_d, hq, hsent, hinjected, ht, hholds, Option.isSome_none, Bool.false_eq_true, if_false, if_true]

theorem messageResend_leaves {c : Nat} (hq : s.dev.msgReqs[k]? = some q) (hrefused : q.refusedAt = some c) (hdue : c + 64 ≤ s.dev.cc) :
    Leaves s (.messageResend k)
      { s.dev with msgReqs := updAt s.dev.msgReqs k (fun q => { q with refusedAt := none }) } := by
  show execMessageResend k s = _
  apply State.run_leaves
  · simp only [State.work_d, hq, hrefused, not_lt.2 hdue, if_false]
    rfl
  · rfl

end Messages

/-! ## Handlers (R342) -/

section Handlers
variable {s : State} {core i slot : Nat} {m : Msg} {t : Task} {l : Launch} {c : Ctx}
  (hfind : (enum (s.dev.core core).messages).find?
    (fun im => mayHandle s.dev im.2 && (handlerSlot s.dev core im.2.ctx).isSome) = some (i, m))
  (hslot : handlerSlot s.dev core m.ctx = some slot) (ht : s.dev.task m.task = some t) (hl : s.dev.launch m.ctx m.launchId = some l)
  (hc : s.dev.ctx m.ctx = some c)
include hfind hslot ht hl hc

theorem handlerSpawn_leaves (hvalid : (c.marion.getD m.handler 0).getLsbD 63 = true) :
    let d := s.dev.updCore core (fun c => { c with messages := c.messages.eraseIdx i })
    Leaves s (.handlerSpawn core)
      (addWave d (handlerWave d l t core slot (BitVec.ofNat 57 (bits (c.marion.getD m.handler 0) 0 57)) m)) := by
  show execHandlerSpawn core s = _
  apply State.run_leaves
  · simp only [State.work_d, hfind, hslot, ht, hl, hc, hvalid, Bool.not_true, Bool.false_eq_true, if_false]
    rfl
  · rfl

theorem handlerSpawn_traps (hvalid : (c.marion.getD m.handler 0).getLsbD 63 = false) :
    let d := s.dev.updCore core (fun c => { c with messages := c.messages.eraseIdx i })
    Leaves s (.handlerSpawn core) (raise d (messageTrap d t m)) := by
  show execHandlerSpawn core s = _
  apply State.run_leaves
  · simp only [State.work_d, hfind, hslot, ht, hl, hc, hvalid, Bool.not_false, if_true]
    rfl
  · rfl

end Handlers

/-! ## The notification queue (R338, R340) -/

theorem heldNotificationWrite_answers {s : State} {u : Nat} {c : Ctx} {h : HeldNotif} {rest : List HeldNotif} {w : Work}
    (hc : s.dev.ctx u = some c) (hheld : c.held = h :: rest)
    (hwrite : writeNotif s.work c h.entry = .written w ∨ writeNotif s.work c h.entry = .dropped w) :
    Answers s (.heldNotificationWrite u)
      (xlateWritten (finish (w.upd (fun d => d.updCtx u (fun c => { c with held := rest }))) h.fin) u h.fin) := by
  show execHeldNotificationWrite u s = _
  refine State.run_ok ?_
  -- `P` stands for `writeNotif`, so that checking the proof never evaluates its count of 4,096
  obtain ⟨P, hP⟩ := exists_eq (a' := writeNotif)
  rw [← hP] at hwrite ⊢
  simp only [State.work_d, hc, hheld]
  obtain hw | hw := hwrite <;> rw [hw]

theorem nqheadWrites {s : State} {b : Nat} {v : Word} {c : Ctx} (hc : blockCtx s.dev b = some c) :
    CtxWrites s (.cxNqheadWrite b v) b 0x010 v c (bits v 32 32 = 0 ∧ (c.nqTail + 2 ^ 32 - bits v 0 32) % 2 ^ 32 ≤ c.nqCount)
      (fun d => d.updCtx c.id (fun c => { c with nqHead := bits v 0 32 })) := by
  refine CtxWrites.of_run (g := fun w => nqheadWrite w b v)
    (ok := bits v 32 32 == 0 && decide ((c.nqTail + 2 ^ 32 - bits v 0 32) % 2 ^ 32 ≤ c.nqCount))
    (k := fun w c => w.upd (fun d => d.updCtx c.id (fun c => { c with nqHead := bits v 0 32 }))) rfl ?_ (by simp) (fun _ => rfl)
  simp only [nqheadWrite, State.work_d, hc]

end Sys2Proof.Machine

/-- Settles O43, step by step. -/
theorem messageStepsPass : Obligations.MessageStepsPass :=
  ⟨fun _ _ _ _ => messageAccept_answers, fun _ _ _ _ => messageResend_leaves,
    fun _ _ _ _ _ _ _ _ hfind hslot ht hl hc => ⟨handlerSpawn_leaves hfind hslot ht hl hc, handlerSpawn_traps hfind hslot ht hl hc⟩,
    fun _ _ _ _ _ _ => heldNotificationWrite_answers, fun _ _ _ _ => nqheadWrites⟩

end

section
/-! PROOF. Traps delivered, waves halted and resumed, and trap records (spec/16 R405, R407, R408); O44. -/

open Sys2Proof
open Sys2Proof.Machine

namespace Sys2Proof.Machine

theorem trapDelivery_answers {s : State} (htraps : s.dev.traps ≠ []) :
    Answers s .trapDelivery ((deliverTraps s.work).upd clearMarks) := by
  show execTrapDelivery s = _
  exact State.run_ok (if_neg (by simpa using htraps))

theorem resumeWrites {s : State} {b : Nat} {v : Word} {c : Ctx} : CtxWrites s (.cxResumeWrite b v) b 0x028 v c (bits v 48 16 = 0)
    (fun d => resume d c.id (bits v 16 32) (bits v 0 16)) :=
  CtxWrites.of_run (g := fun w => resumeWrite w b v) rfl rfl beq_iff_eq (fun _ => rfl)

/-! ## Halted waves (R405) -/

/-- R405: a split at the stop point of a trap: past it where it has arrived at a `rejoin`. -/
def Split.stopped (p : Split) (t : Trap) : Split :=
  if p.arrived then { p with trapped := true } else { p with pc := t.pc, trapped := true, stage := .idle, wait := none }

section Halt
variable {d : Dev} {v : Wave} {t : Trap} {p : Split} (hwave : t.wave = some v.uid) (hsplit : t.split = some p.num)
include hwave hsplit

theorem haltList_haltWave : (haltWave d v [t]).haltList = v.haltList ++ [(p.num, t.code)] := by
  simp [haltWave, hwave, hsplit]

theorem stopped_mem_haltWave (hp : p ∈ v.splits) : p.stopped t ∈ (haltWave d v [t]).splits := by
  refine List.mem_map.2 ⟨p, hp, ?_⟩
  simp only [hwave, beq_self_eq_true, List.filter_cons_of_pos, List.filter_nil, List.find?_singleton, hsplit, if_true]
  rfl

end Halt

theorem untrapped_mem_resumeWave {v : Wave} {q : Split} (h : q ∈ v.splits) : { q with trapped := false } ∈ (resumeWave v).splits :=
  List.mem_map.2 ⟨q, h, rfl⟩

/-! ## Resuming (R405, R408) -/

theorem updWhere_eq_self {α : Type} {p : α → Bool} (f : α → α) {xs : List α} (h : ∀ x ∈ xs, p x = false) :
    updWhere p f xs = xs := by
  refine (List.map_congr_left fun x hx => ?_).trans (List.map_id xs)
  rw [h x hx]
  rfl

/-- R405, R340: a resume that names no halted wave whose trap is finished has no effect. -/
theorem resume_eq_self {d : Dev} {ctx l n : Nat}
    (h : ∀ v ∈ d.waves, v.ctx = ctx → v.launchId = l → v.n = n → v.handler = none → v.halted = true → trapHeld d v = true) :
    resume d ctx l n = d := by
  have hnone : ∀ v ∈ d.waves,
      (v.ctx == ctx && v.launchId == l && v.n == n && v.handler.isNone && v.halted && !trapHeld d v) = false := by
    intro v hv
    rw [Bool.eq_false_iff]
    intro hnamed
    simp only [Bool.and_eq_true, beq_iff_eq, Option.isNone_iff_eq_none, Bool.not_eq_true'] at hnamed
    obtain ⟨⟨⟨⟨⟨hctx, hl⟩, hn⟩, hhandler⟩, hhalted⟩, hheld⟩ := hnamed
    exact absurd (h v hv hctx hl hn hhandler hhalted) (by simp [hheld])
  exact congrArg (fun vs => { d with waves := vs }) (updWhere_eq_self _ hnone)

theorem resumeWave_mem_resume {d : Dev} {v : Wave} (hv : v ∈ d.waves) (hhandler : v.handler = none) (hhalted : v.halted = true)
    (hheld : trapHeld d v = false) : resumeWave v ∈ (resume d v.ctx v.launchId v.n).waves :=
  List.mem_map.2 ⟨v, hv, if_pos (by simp [hhandler, hhalted, hheld])⟩

/-! ## Trap records (R407) -/

/-- R407: a record goes to its place in the trap buffer, which stays within 256 records. -/
theorem addRecord_at_count {c : Ctx} (ds : List Word) (hlen : c.trapRecs.length ≤ 256)
    (hcount : c.trapCount % 256 ≤ c.trapRecs.length) :
    (addRecord c ds).trapRecs[c.trapCount % 256]? = some { dwords := ds } ∧ (addRecord c ds).trapRecs.length ≤ 256 := by
  unfold addRecord
  dsimp only
  split
  next hfull => simp [hfull, hlen]
  next hroom =>
    have hend : c.trapCount % 256 = c.trapRecs.length := le_antisymm hcount (not_lt.1 hroom)
    rw [hend]
    refine ⟨by simp, ?_⟩
    simp only [List.length_append, List.length_singleton]
    omega

end Sys2Proof.Machine

/-- Settles O44: traps delivered, a wave halted and resumed, and the place of its record. -/
theorem trapsHaltAndResume : Obligations.TrapsHaltAndResume := by
  refine ⟨fun _ => trapDelivery_answers, fun _ _ _ _ => resumeWrites, fun d v t p hp _ hwave hsplit => ?halt,
    fun _ _ _ _ => resume_eq_self, fun _ _ => resumeWave_mem_resume, fun _ ds hlen hcount => ⟨rfl, addRecord_at_count ds hlen hcount⟩⟩
  case halt =>
    have hmem := stopped_mem_haltWave (d := d) hwave hsplit hp
    exact ⟨rfl, haltList_haltWave hwave hsplit, hmem, rfl, rfl, rfl, untrapped_mem_resumeWave hmem⟩

end

section
/-! PROOF. Pre-emption (spec/16 R409 to R421, spec/18 R447, R448): a task stopped, frozen, saved, restored and replayed; O45. -/

open Sys2Proof
open Sys2Proof.Machine

namespace Sys2Proof.Machine

/-! ## Saving a task (R409 to R411) -/

section Save
variable {s : State} {u : Nat} {t : Task} (ht : s.dev.task u = some t)
  (hfatal : (s.dev.traps.any (fun x => x.task == u && fatal x.code)) = false)
include ht hfatal

theorem preemptionStart_leaves (hstate : t.state = .saving) (hgoing : (s.dev.waves.any (fun v => v.task == u && v.stopped)) = false)
    (htoybox : s.dev.toyboxPending = none) : Leaves s (.preemptionStart u) (startSave s.dev t) := by
  show execPreemptionStart u s = _
  apply State.run_leaves
  · simp only [State.work_d, ht, hstate, hgoing, hfatal, htoybox, bne_self_eq_false, Option.isSome_none, Bool.false_eq_true, if_false]
    rfl
  · rfl

theorem settleComplete_leaves (hstate : t.state = .saving)
    (hstopped : (s.dev.waves.all (fun v => v.task != u || v.stopped)) = true) (hsettled : settled s.work u = true) :
    Leaves s (.settleComplete u) (freeze s.dev t) := by
  have hgoing : s.dev.waves.any (fun v => v.task == u && !v.stopped) = false := by
    rw [List.all_eq_true] at hstopped
    refine List.any_eq_false.2 fun v hv => ?_
    simpa [imp_iff_not_or] using hstopped v hv
  show execSettleComplete u s = _
  apply State.run_leaves
  · simp only [State.work_d, ht, hstate, hgoing, hfatal, hsettled, bne_self_eq_false, Bool.or_self, Bool.not_true, Bool.false_eq_true,
      if_false]
    rfl
  · rfl

theorem saveComplete_leaves (hstate : t.state = .settled) (hwhole : reassembling s.dev t = false)
    (hcommitted : commitsUnderWay s.dev t = false) : Leaves s (.saveComplete u) (leavePlaces s.dev t) := by
  show execSaveComplete u s = _
  apply State.run_leaves
  · simp only [State.work_d, ht, hstate, hfatal, hwhole, hcommitted, bne_self_eq_false, Bool.false_eq_true, if_false]
    rfl
  · rfl

end Save

/-! ## Restoring a task (R420, R422) -/

section Restore
variable {s : State} {t : Task} {ox oy : Nat} {i : Image} {l : Launch} {c : Ctx} (hsafe : s.dev.mg.safe = false)
  (hnext : nextPlacement s.dev = some (t, ox, oy)) (hi : t.image = some i) (hl : s.dev.launch t.ctx t.launchId = some l)
  (hc : s.dev.ctx t.ctx = some c) (htraps : (s.dev.traps.any (fun x => x.task == t.uid)) = false) (htoybox : s.dev.toyboxPending = none)
include hsafe hnext hi hl hc htraps htoybox

/-- R420: what the restore of the next task comes to. -/
theorem exec_restore {w : Work} (hw : (if i.bad then s.work.upd (fun d => taskTrap d t.uid tMemerr (kImage t.uid))
    else if c.policy.getLsbD 1 && i.edited then s.work.upd (fun d => taskTrap d t.uid tProt 0)
    else restoreTask s.work l t i ox oy) = w) : Answers s (.restore t.uid) w := by
  show execRestore t.uid s = _
  refine State.run_ok ?_
  simp only [State.work_d, hsafe, hnext, hi, hl, hc, htraps, htoybox, Option.isSome_none, Bool.false_eq_true, ne_eq,
    not_true_eq_false, if_false]
  rw [← hw, apply_ite Except.ok, apply_ite Except.ok]

theorem restore_of_bad (hbad : i.bad = true) : Leaves s (.restore t.uid) (taskTrap s.dev t.uid tMemerr (kImage t.uid)) :=
  exec_restore hsafe hnext hi hl hc htraps htoybox (if_pos hbad)

theorem restore_of_edited (hbad : i.bad = false) (hpolicy : c.policy.getLsbD 1 = true) (hedited : i.edited = true) :
    Leaves s (.restore t.uid) (taskTrap s.dev t.uid tProt 0) :=
  exec_restore hsafe hnext hi hl hc htraps htoybox ((if_neg (by simp [hbad])).trans (if_pos (by simp [hpolicy, hedited])))

theorem restore_of_good (hbad : i.bad = false) (hgood : c.policy.getLsbD 1 = false ∨ i.edited = false) :
    Answers s (.restore t.uid) (restoreTask s.work l t i ox oy) :=
  exec_restore hsafe hnext hi hl hc htraps htoybox ((if_neg (by simp [hbad])).trans (if_neg (by simpa [imp_iff_not_or] using hgood)))

end Restore

/-! ## Replaying, and the registers that choose tasks (R416, R421, R447, R448) -/

theorem replayComplete_answers {s : State} {u : Nat} {v : Wave} (hv : s.dev.wave u = some v) (hreplaying : v.replaying = true)
    (hstopped : v.stopped = false) (hentry : v.awaitsEntry = false)
    (hrecs : (v.recs.any (fun r => r.replaying && (r.state == .walk || recI2 r))) = false) :
    Answers s (.replayComplete u) (settleWave (s.work.upd (fun d => replayEnds d v u)) u) := by
  show execReplayComplete u s = _
  refine State.run_ok ?_
  simp only [State.work_d, hv, hreplaying, hstopped, hentry, hrecs, Bool.not_true, Bool.false_eq_true, if_false]
  rfl

theorem suspendWrites {s : State} {b : Nat} {v : Word} {c : Ctx} :
    CtxWrites s (.cxSuspendWrite b v) b 0x080 v c (bits v 2 62 = 0) (fun d =>
      let d' := d.updCtx c.id (fun c => { c with hold := v.getLsbD 0 })
      if v.getLsbD 0 then chooseAll d' c.id
      else { d' with
        tasks := updWhere (fun t => t.ctx == c.id && c.hold && (t.state == .waiting || t.state == .saved))
          (fun t => { t with waitSince := d'.cc }) d'.tasks }) := by
  refine CtxWrites.of_run (g := fun w => suspendWrite w b v) rfl rfl beq_iff_eq fun w => ?_
  cases v.getLsbD 0 <;> rfl

theorem dcSuspendWrites {s : State} {v : Word} :
    RegWrites s (.dcSuspendWrite v) 0x00020018 (bits v 16 48 = 0) (fun d => chooseAll d (bits v 0 16)) :=
  RegWrites.of_run (g := fun w => .ok (dcSuspendWrite w v)) rfl rfl beq_iff_eq

end Sys2Proof.Machine

/-- Settles O45, step by step. -/
theorem preemptionStepsPass : Obligations.PreemptionStepsPass :=
  ⟨fun _ _ _ ht hfatal => ⟨preemptionStart_leaves ht hfatal, settleComplete_leaves ht hfatal, saveComplete_leaves ht hfatal⟩,
    fun _ _ _ _ _ _ _ hsafe hnext hi hl hc htraps htoybox => ⟨restore_of_bad hsafe hnext hi hl hc htraps htoybox,
      restore_of_edited hsafe hnext hi hl hc htraps htoybox, restore_of_good hsafe hnext hi hl hc htraps htoybox⟩,
    fun _ _ _ => replayComplete_answers, fun _ _ _ _ => suspendWrites, fun _ _ => dcSuspendWrites⟩

end

section
/-! PROOF. The debugger (spec/17 R427, R432, R433): edits and reads of a halted wave, and the debug right; O48. -/

open Sys2Proof
open Sys2Proof.Machine

namespace Sys2Proof.Machine

theorem State.run_error {s : State} {f : Work → Except Refusal Work} {r : Refusal} (h : f s.work = .error r) : s.run f = .refused r := by
  unfold State.work at h
  rw [State.run, h]

/-! ## Edits of a wave (R432) -/

section Write
variable {s : State} {u : Nat} {item : DebugItem} {x : Word} {t : Ty} {v : Wave}

theorem debuggerWrite_leaves {c : Ctx} (hv : s.dev.wave u = some v) (hc : s.dev.ctx v.ctx = some c) (hdebug : c.debug = true)
    (hhalted : v.halted = true) (hresident : residentWave s.dev v = true) (hok : editOk v item x t = true) :
    Leaves s (.debuggerWrite u item x t) (s.dev.updWave u (fun v => { editItem v item x t with edited := true })) := by
  show execDebuggerWrite u item x t s = _
  apply State.run_leaves
  · simp only [State.work_d, hv, hc, hdebug, hhalted, hresident, hok, Option.map_some, Option.getD_some, Bool.not_true, Bool.or_self,
      Bool.false_eq_true, if_false]
    rfl
  · rfl

/-- R427: whoever asks, an item that is not live is not written. -/
theorem debuggerWrite_refused (hv : s.dev.wave u = some v) (hlive : itemLive v item = false) :
    ∃ m, exec (.debuggerWrite u item x t) s = .refused (.notEnabled m) := by
  have hok : editOk v item x t = false := (congrArg (· && _) hlive).trans (Bool.false_and _)
  refine Exists.imp (fun _ h => (State.run_error h : execDebuggerWrite u item x t s = _)) ?_
  simp only [State.work_d, hv, hok, Bool.not_false, if_true]
  split
  · exact ⟨_, rfl⟩
  · split <;> exact ⟨_, rfl⟩

end Write

/-! ## Reads (R427, R432) -/

section Read
variable {d : Dev} {v : Wave}

theorem debugRead_of_not_live {item : DebugItem} (hlive : itemLive v item = false) : debugRead d v item = none :=
  if_pos (by simp [hlive])

/-- R432: of a halted wave of a context whose debug right it holds, the host reads what is live. -/
theorem debugRead_queue {c : Ctx} {lane k : Nat} {e : Entry} (hc : d.ctx v.ctx = some c) (hdebug : c.debug = true)
    (hhalted : v.halted = true) (hresident : residentWave d v = true) (hlive : itemLive v (.queue lane k) = true)
    (he : (v.lane lane).q[k - 1]? = some e) :
    debugRead d v (.queue lane k) = some (e.val, e.tag) := by
  refine (if_neg (by simp [hc, hdebug, hhalted, hresident, hlive])).trans ?_
  rw [he]
  rfl

theorem debugRead_frame {c : Ctx} {lane k : Nat} {e : Entry} (hc : d.ctx v.ctx = some c) (hdebug : c.debug = true)
    (hhalted : v.halted = true) (hresident : residentWave d v = true) (hlive : itemLive v (.frame lane k) = true)
    (he : (v.lane lane).f[k]? = some e) :
    debugRead d v (.frame lane k) = some (e.val, e.tag) := by
  refine (if_neg (by simp [hc, hdebug, hhalted, hresident, hlive])).trans ?_
  rw [he]
  rfl

end Read

/-! ## A queue entry edited (R95, R432) -/

section Edit
variable {v : Wave} {l a : Nat} {x : Word} {t : Ty}

/-- R432: the edit of a queue entry takes place in its lane alone. -/
theorem lane_editItem_queue (k : Nat) : (editItem v (.queue l a) x t).lane k =
    if l = k ∧ k < v.lanes.length then { v.lane k with q := updAt (v.lane k).q (a - 1) (editEntry x t) } else v.lane k :=
  getD_updAt ..

theorem editItem_queue_same (hl : l < v.lanes.length) (ha : 1 ≤ a) (hlen : a ≤ (v.lane l).q.length) :
    ((editItem v (.queue l a) x t).lane l).q[a - 1]? = some { val := fit t x, tag := t, pend := .clear } := by
  rw [lane_editItem_queue, if_pos ⟨rfl, hl⟩]
  have hlt : a - 1 < (v.lane l).q.length := by omega
  simp [updAt, hlt, editEntry]

theorem editItem_queue_other {j : Nat} (hj : j ≠ a - 1) : ((editItem v (.queue l a) x t).lane l).q[j]? = (v.lane l).q[j]? := by
  rw [lane_editItem_queue]
  split
  · simp [updAt, hj.symm]
  · rfl

end Edit

/-! ## The debug right (R433) -/

theorem debugWrites {s : State} {b : Nat} {v : Word} {c : Ctx} : CtxWrites s (.cxDebugWrite b v) b 0x070 v c (bits v 1 63 = 0) (fun d =>
    if v.getLsbD 0 then d.updCtx c.id (fun c => { c with debug := true }) else resumeDebug (clearDebug d c.id) c.id) := by
  refine CtxWrites.of_run (g := fun w => debugWrite w b v) rfl rfl beq_iff_eq fun w => ?_
  cases v.getLsbD 0 <;> rfl

end Sys2Proof.Machine

/-- Settles O48: what the host edits, what it may not, what it reads, and the debug right. -/
theorem debugStepsPass : Obligations.DebugStepsPass :=
  ⟨fun _ _ _ _ _ _ _ => debuggerWrite_leaves,
    fun _ _ _ _ _ _ hv hlive => ⟨debuggerWrite_refused hv hlive, debugRead_of_not_live hlive⟩,
    fun _ _ _ _ _ _ hc hdebug hhalted hresident =>
      ⟨debugRead_queue hc hdebug hhalted hresident, debugRead_frame hc hdebug hhalted hresident⟩,
    fun _ _ _ _ => debugWrites,
    fun _ _ _ _ _ hl ha hlen => ⟨editItem_queue_same hl ha hlen, fun _ => editItem_queue_other, fun _ hk => by
      rw [lane_editItem_queue, if_neg fun h => hk h.1.symm]⟩⟩

end

section
/-! PROOF. Management (spec/18 R437 to R446, spec/01 R21, spec/13 R361, R363): power-up, firmware, keys, mapping out, resets, power and
ports; O49. -/

open Sys2Proof
open Sys2Proof.Machine

namespace Sys2Proof.Machine

/-! ## Power-up (R437, R438) -/

section Boot
variable {s : State} {r : SelfTest}

theorem wipe_d (w : Work) : (wipe w).d = w.d := by
  have hfold (cs : List Host.Cell) (w : Work) : (cs.foldl (fun w c => w.put c.1 0) w).d = w.d := by
    induction cs generalizing w with
    | nil => rfl
    | cons c cs ih => exact ih _
  exact hfold ..

theorem powerGood_answers (h : s.dev.powered = true → s.dev.mg.ready = false ∧ s.dev.mg.safe = false) :
    Answers s (.powerGood r) ((wipe s.work).upd (fun d => boot (unbooted d) r)) := by
  have hunbooted : (s.dev.powered && (s.dev.mg.ready || s.dev.mg.safe)) = false := by
    cases hp : s.dev.powered with
    | false => rfl
    | true =>
      obtain ⟨hready, hsafe⟩ := h hp
      rw [hready, hsafe]
      rfl
  show execPowerGood r s = _
  exact State.run_ok (if_neg (by simp [hunbooted]))

variable {d : Dev}

/-- R26, R437, R442: the package boots from flash, where an enrolled key signed its image, and is ready or in the safe state. -/
theorem boot_of_signed {k : Nat} (hk : bootSlot d.mg = some k) : (boot (unbooted d) r).mg.ready = minimumMet r ∧
    (boot (unbooted d) r).mg.safe = !minimumMet r ∧ (boot (unbooted d) r).mg.running = d.mg.flash ∧
    (boot (unbooted d) r).mg.signer = k := by
  rw [boot, show bootSlot (unbooted d).mg = some k from hk]
  cases hmin : minimumMet r <;> simp [Dev.updMg, unbooted, Mgmt.reset]

theorem boot_of_unsigned (hk : bootSlot d.mg = none) : (boot (unbooted d) r).mg.ready = false ∧
    (boot (unbooted d) r).mg.safe = true ∧ (boot (unbooted d) r).mg.fwrec = true := by
  rw [boot, show bootSlot (unbooted d).mg = none from hk]
  exact ⟨rfl, rfl, rfl⟩

theorem powerLoss_leaves : Leaves s .powerLoss { s.dev with powered := false } := by
  show execPowerLoss s = _
  exact State.run_leaves rfl rfl

end Boot

/-! ## Firmware (R443) -/

section Firmware
variable {s : State} {v : Word}

theorem fwCtlCommit_verified {k : Nat} (hv : bits v 1 63 = 0) (hcheck : v.getLsbD 0 = true)
    (hsigner : signerOf s.dev.mg.keys (loadedImage s.work) = some k) : Leaves s (.fwCtlCommit v)
      (let d := s.dev.updMg (fun m => { m with flash := loadedImage s.work, flashKey := k })
       if s.dev.ctxs.isEmpty then unbooted d else d) := by
  -- `n` stands for the digest of the load window, which checking the proof must not evaluate
  obtain ⟨n, hn⟩ := exists_eq (a' := loadedImage s.work)
  have hwrite : fwCtlWrite s.work v = s.work.upd (fun d =>
      if s.dev.ctxs.isEmpty then unbooted (d.updMg (fun m => { m with flash := loadedImage s.work, flashKey := k }))
      else d.updMg (fun m => { m with flash := loadedImage s.work, flashKey := k })) := by
    unfold fwCtlWrite
    rw [← hn] at hsigner ⊢
    simp only [State.work_d, hv, hcheck, hsigner, bne_self_eq_false, Bool.not_true, Bool.false_eq_true, if_false]
    by_cases hempty : s.dev.ctxs.isEmpty = true
    · refine (if_pos hempty).trans ?_
      simp only [if_pos hempty]
      rfl
    · refine (if_neg hempty).trans ?_
      simp only [if_neg hempty]
  show execFwCtlCommit v s = _
  exact State.run_leaves (congrArg Except.ok hwrite) rfl

theorem fwCtlCommit_unverified (hv : bits v 1 63 = 0)
    (h : v.getLsbD 0 = false ∨ signerOf s.dev.mg.keys (loadedImage s.work) = none) : Leaves s (.fwCtlCommit v) s.dev := by
  obtain ⟨n, hn⟩ := exists_eq (a' := loadedImage s.work)
  have hwrite : fwCtlWrite s.work v = s.work := by
    unfold fwCtlWrite
    rw [← hn] at h ⊢
    cases hcheck : v.getLsbD 0 with
    | false => simp only [hv, bne_self_eq_false, Bool.not_false, Bool.false_eq_true, if_false, if_true]
    | true =>
      have hsigner := h.resolve_left (by simp [hcheck])
      simp only [State.work_d, hv, hsigner, bne_self_eq_false, Bool.not_true, Bool.false_eq_true, if_false]
  show execFwCtlCommit v s = _
  exact State.run_leaves (congrArg Except.ok hwrite) rfl

end Firmware

/-! ## The mailbox and the keys (R442, R446) -/

theorem mailCommand_leaves {s : State} {code : Nat} (f : Dev → Dev) (h : mailHolds s.dev code = true) :
    mailCommand s code f = .next { dev := f s.dev, mem := s.mem } :=
  State.run_leaves (if_pos h) rfl

/-- R446: a reply frees the mailbox. -/
theorem mailReply_free (d : Dev) (reply : Nat → Word) : (mailReply d reply).mg.mbCmd.getLsbD 63 = false := by
  simp [mailReply, Dev.updMg]

theorem mgRejectRead_leaves (s : State) : Leaves s .mgRejectRead (s.dev.updMg (fun m => { m with reject := none })) := by
  show execMgRejectRead s = _
  exact State.run_leaves rfl rfl

theorem mailCommands {s : State} {i : Instr} {code : Nat} {f : Dev → Dev} {slot key signer : Nat}
    (hi : (i = .attest ∧ code = 1 ∧ f = attest) ∨
      (i = .enroll slot key signer ∧ code = 2 ∧ f = (fun d => plainReply (enrollKey d slot key signer))) ∨
      (i = .revoke slot signer ∧ code = 3 ∧ f = (fun d => plainReply (revokeKey d slot signer))) ∨
      (i = .query ∧ code = 4 ∧ f = plainReply)) (hmail : mailHolds s.dev code = true) :
    Leaves s i (f s.dev) ∧ (f s.dev).mg.mbCmd.getLsbD 63 = false := by
  obtain ⟨rfl, rfl, rfl⟩ | ⟨rfl, rfl, rfl⟩ | ⟨rfl, rfl, rfl⟩ | ⟨rfl, rfl, rfl⟩ := hi <;>
    exact ⟨mailCommand_leaves _ hmail, mailReply_free ..⟩

section Keys
variable {d : Dev} {slot key signer : Nat} {k : KeySlot}

theorem keys_kept (hsigner : keyLive d signer = false) : enrollKey d slot key signer = d ∧ revokeKey d slot signer = d :=
  ⟨if_pos (by simp [hsigner]), if_pos (by simp [hsigner])⟩

theorem enrollKey_slot (hk : d.mg.keys[slot]? = some k) (hsigner : keyLive d signer = true) :
    (enrollKey d slot key signer).mg.keys[slot]? = some (if k.key.isSome then k else { k with key := some key }) := by
  rw [enrollKey, if_neg (by simp [hsigner])]
  simp [Dev.updMg, updAt, hk]

theorem revokeKey_slot (hk : d.mg.keys[slot]? = some k) (hsigner : keyLive d signer = true) :
    (revokeKey d slot signer).mg.keys[slot]? = some { k with revoked := true } := by
  rw [revokeKey, if_neg (by simp [hsigner])]
  simp [Dev.updMg, updAt, hk]

end Keys

theorem managementStepsPass : Claims.ManagementStepsPass :=
  ⟨fun _ _ h => ⟨powerGood_answers h, wipe_d _, fun _ => boot_of_signed, boot_of_unsigned⟩, fun _ => powerLoss_leaves,
    fun _ _ _ => fwCtlCommit_verified, fun _ _ => fwCtlCommit_unverified, fun _ _ _ _ _ _ _ => mailCommands, mgRejectRead_leaves,
    fun _ _ _ _ _ hk => ⟨keys_kept, fun h => ⟨enrollKey_slot hk h, revokeKey_slot hk h⟩⟩⟩

/-! ## Units mapped out, tested and reset (R21, R361, R439, R440) -/

section Units
variable {s : State}

theorem mapOut_leaves {p : Part} (hfailing : s.dev.mg.failing.contains p = true) (htasks : unitTasks s.dev p = [])
    (hcommits : unitCommits s.dev p = false) :
    let d := match p with
      | .quad pos => mapOutQuad s.dev pos
      | _ => s.dev
    Leaves s (.mapOut p) (d.updMg (fun m => { m with
      failing := m.failing.filter (· != p), mappedOut := m.mappedOut ++ [p] })) := by
  show execMapOut p s = _
  apply State.run_leaves
  · simp only [State.work_d, hfailing, htasks, hcommits, List.any_nil, List.isEmpty_nil, Bool.not_true, Bool.or_self, Bool.false_eq_true,
      if_false]
    rfl
  · rfl

theorem mapOut_preempts {p : Part} (hfailing : s.dev.mg.failing.contains p = true)
    (hresident : (unitTasks s.dev p).any (fun t => t.state == .resident) = true) :
    Leaves s (.mapOut p) (((unitTasks s.dev p).map Task.uid).foldl choose s.dev) := by
  show execMapOut p s = _
  exact State.run_leaves ((if_neg (by simpa using hfailing)).trans (if_pos hresident)) rfl

theorem idleSelfTest_leaves {k : Nat} {pass : Bool} (hk : k < 72) (hpresent : positionPresent s.dev k = true)
    (htasks : unitTasks s.dev (.quad k) = []) :
    Leaves s (.idleSelfTest k pass) (if pass then s.dev else s.dev.updMg (fun m => markFailing m (.quad k))) := by
  show execIdleSelfTest k pass s = _
  exact State.run_leaves ((if_neg (by simp [hk, hpresent])).trans (if_neg (by simp [htasks]))) rfl

theorem quadContainmentReset_leaves {k : Nat} (hk : k < 72) (hpresent : positionPresent s.dev k = true)
    (hgoing : (s.dev.quad k).resetting = false) :
    let d := dropRequests (quadEndpoints s.dev k (fun e => { e with
      stopped := true, begun := [], deflections := 0, lastWindow := 0, level := 0, windowAt := s.dev.cc })) k
    Leaves s (.quadContainmentReset k) (((unitTasks s.dev (.quad k)).foldl (fun d t => taskTrap d t.uid tReset 0) d).updQuad k
      (fun q => { q with resetting := true })) := by
  show execQuadContainmentReset k s = _
  exact State.run_leaves ((if_neg (by simp [hk, hpresent])).trans (if_neg (by simp [hgoing]))) rfl

theorem quadResetEnd_leaves {k : Nat} (hgoing : (s.dev.quad k).resetting = true) :
    Leaves s (.quadResetEnd k) (((quadEndpoints s.dev k (fun e => { e with
      stopped := false, undelivered := 0, resetAt := s.dev.cc })).updQuad k (fun q => { q with resetting := false })).updMg (fun m => markFailing m (.quad k))) := by
  show execQuadResetEnd k s = _
  exact State.run_leaves (if_neg (by simp [hgoing])) rfl

end Units

/-! ## Context boundaries (R21, R244, R377) -/

section Boundaries
variable {s : State}

theorem contextBoundary_of_toybox {n : Nat} (hpending : s.dev.toyboxPending = some n) (hmoving : moving s.dev = false)
    (hfits : toyboxUsed s.dev ≤ 2097152 * n) : Leaves s .contextBoundaryChange { s.dev with toybox := n, toyboxPending := none } := by
  have hchange : toyboxChange s.dev = some { s.dev with toybox := n, toyboxPending := none } := by
    simp [toyboxChange, hpending, hmoving, hfits]
  show execContextBoundaryChange s = _
  apply State.run_leaves
  · simp only [State.work_d, hchange]
    rfl
  · rfl

/-- R21: what the first pending change of a place map comes to is what the step answers. -/
theorem contextBoundary_of_place {x : Nat × Word} {rest : List (Nat × Word)} {d : Dev} (htoybox : toyboxChange s.dev = none)
    (hpending : s.dev.placePending = x :: rest) (hd : placesChange s.dev x = some d) : Leaves s .contextBoundaryChange d := by
  show execContextBoundaryChange s = _
  apply State.run_leaves
  · simp only [State.work_d, htoybox, hpending, List.findSome?_cons, hd]
    rfl
  · rfl

theorem placesChange_of_none {x : Nat × Word} (h : changedPlaces s.dev x.1 x.2 = []) :
    placesChange s.dev x = some { s.dev with placePending := s.dev.placePending.filter (· != x) } :=
  if_pos (by simp [h])

theorem placesChange_of_ready {x : Nat × Word} (h : (changedPlaces s.dev x.1 x.2).filter (placeReady s.dev x.1) ≠ []) :
    placesChange s.dev x = some (((changedPlaces s.dev x.1 x.2).filter (placeReady s.dev x.1)).foldl
      (fun d pe => placeChange d x.1 pe) s.dev) := by
  have hchanged : changedPlaces s.dev x.1 x.2 ≠ [] := fun hnil => h (by rw [hnil, List.filter_nil])
  exact (if_neg (by simpa using hchanged)).trans (if_neg (by rwa [List.isEmpty_iff]))

end Boundaries

/-! ## Power, cooling and ports (R363, R441) -/

section Power
variable {s : State}

theorem governorMeasurement_leaves {p : Nat} (hdue : s.dev.gov.window + 16384 ≤ s.dev.cc) :
    let limit := powerLimit s.dev.mg.c8m
    let m := if p ≤ limit then 0 else pacingOf (p - limit)
    Leaves s (.governorMeasurement p) { s.dev.updMg (fun m => { m with power := p }) with
      gov := { s.dev.gov with window := s.dev.cc, held := decide (limit * 95 < p * 100), pacing := m } } := by
  intro limit m
  have hm : (if limit < p then pacingOf (p - limit) else 0) = m := by
    by_cases hp : p ≤ limit
    · rw [if_neg (not_lt.2 hp), show m = 0 from if_pos hp]
    · rw [if_pos (not_le.1 hp), show m = pacingOf (p - limit) from if_neg hp]
  rw [← hm]
  show execGovernorMeasurement p s = _
  exact State.run_leaves (if_neg (not_lt.2 hdue)) rfl

/-- R441: the greater the excess, the slower the pace. -/
theorem pacingOf_antitone {a b : Nat} (h : a ≤ b) : 1 ≤ pacingOf b ∧ pacingOf b ≤ pacingOf a ∧ pacingOf a ≤ 4 := by
  simp only [pacingOf]
  generalize Config.pacingStep 0 = x, Config.pacingStep 1 = y, Config.pacingStep 2 = z
  split_ifs <;> omega

theorem junctionTemperatureLimit_leaves (s : State) (n : Nat) : ∃ h, Leaves s (.junctionTemperatureLimit n)
      { s.dev.updMg (fun m => { m with temp := n }) with gov := { s.dev.gov with hot := h } } ∧
    (105 * 16 ≤ n → h = true) ∧ (n ≤ 100 * 16 → h = false) ∧ (100 * 16 < n → n < 105 * 16 → h = s.dev.gov.hot) := by
  refine ⟨if 105 * 16 ≤ n then true else if n ≤ 100 * 16 then false else s.dev.gov.hot, ?_, fun h => if_pos h, fun h => ?_,
    fun h h' => ?_⟩
  · show execJunctionTemperatureLimit n s = _
    exact State.run_leaves rfl rfl
  · rw [if_neg (by omega), if_pos h]
  · rw [if_neg (by omega), if_neg (by omega)]

theorem mojorPortFailure_leaves {k : Nat} {p : PortState} (hp : s.dev.ports[k]? = some p) :
    Leaves s (.mojorPortFailure k) { s.dev with ports := updAt s.dev.ports k (fun p => { p with working := false }) } := by
  show execMojorPortFailure k s = _
  apply State.run_leaves
  · simp only [State.work_d, hp]
    rfl
  · rfl

theorem mojorLinkRetry_leaves {k : Nat} {p : PortState} (hp : s.dev.ports[k]? = some p) (hworking : p.working = true) :
    Leaves s (.mojorLinkRetry k) { s.dev with ports := updAt s.dev.ports k (fun p => { p with retries := p.retries + 1 }) } := by
  show execMojorLinkRetry k s = _
  apply State.run_leaves
  · simp only [State.work_d, hp, hworking, Bool.not_true, Bool.false_eq_true, if_false]
    rfl
  · rfl

end Power

theorem unitManagementPasses : Claims.UnitManagementPasses :=
  ⟨fun _ _ hfailing => ⟨mapOut_leaves hfailing, mapOut_preempts hfailing⟩, fun _ _ _ => idleSelfTest_leaves,
    fun _ _ => quadContainmentReset_leaves, fun _ _ => quadResetEnd_leaves, fun _ _ => contextBoundary_of_toybox,
    fun _ _ _ htoybox hpending => ⟨fun h => contextBoundary_of_place htoybox hpending (placesChange_of_none h),
      fun h => contextBoundary_of_place htoybox hpending (placesChange_of_ready h)⟩,
    fun _ _ => governorMeasurement_leaves, fun _ _ => pacingOf_antitone, junctionTemperatureLimit_leaves,
    fun _ _ _ hp => ⟨mojorPortFailure_leaves hp, mojorLinkRetry_leaves hp⟩⟩

end Sys2Proof.Machine

/-- Settles O49: management step by step, and the units. -/
theorem managementPasses : Obligations.ManagementPasses := ⟨managementStepsPass, unitManagementPasses⟩

end

section
/-! PROOF. Host writes to memory (R402, R435): the refutation of O51, whose clause on host memory takes any memory, and the clause as it
holds in a safe state. -/

open Sys2Proof
open Sys2Proof.Machine

namespace Sys2Proof.Machine

/-! ## Bytes a host write brings home (R248, R402) -/

/-- R248: bytes brought home one after another are written one after another. -/
theorem Work.homesBy_writes (w : Work) (core a : Nat) (bs : List Byte) :
    (w.homesBy core a bs).ws = (w.puts a bs).ws ∧ (w.homesBy core a bs).m = (w.puts a bs).m := by
  unfold Work.homesBy Work.puts
  dsimp only
  induction bs using List.reverseRecOn with
  | nil => exact ⟨rfl, rfl⟩
  | append_singleton bs b ih =>
    obtain ⟨hws, hm⟩ := ih
    rw [enum_concat, List.foldl_append, List.foldl_append]
    exact ⟨congrArg (List.cons (a + 8 * bs.length, b)) hws, hm⟩

theorem hostHomes_byte (w : Work) (a : Nat) (bs : List Byte) (y : Nat) : (hostHomes w a bs).byte y = (w.puts a bs).byte y := by
  obtain ⟨hws, hm⟩ := w.homesBy_writes 289 a bs
  show (w.homesBy 289 a bs).byte y = _
  unfold Work.byte
  rw [hws, hm]

theorem exec_hostWrite_host (s : State) {a : Nat} {bs : List Byte} (h : a + bs.length ≤ 2 ^ 52) :
    exec (.hostWriteToDeviceMemory .host a bs) s = .next ((hostHomes s.work (kHost a) bs).after s) := by
  show execHostWriteToDeviceMemory .host a bs s = _
  exact State.run_ok (if_neg (not_lt.2 h))

/-- R402: in a safe state a host write to its own memory stores its bytes and no other. -/
theorem hostWrite_of_safe (s : State) (hs : s.Safe) {a : Nat} {bs : List Byte} (h : a + bs.length ≤ 2 ^ 52) : ∃ t,
    exec (.hostWriteToDeviceMemory .host a bs) s = .next t ∧
    (∀ i, i < bs.length → t.mem.read (kHost (a + i)) = bs.getD i 0) ∧
    KeepsOutside s t ((List.range bs.length).map (fun i => kHost (a + i))) := by
  have hkey : ∀ i, kHost (a + i) = kHost a + 8 * i := fun i => by unfold kHost; omega
  have hm : (hostHomes s.work (kHost a) bs).m = s.mem := by
    obtain ⟨-, hm⟩ := s.work.homesBy_writes 289 (kHost a) bs
    exact hm.trans (Work.puts_m ..)
  have hread : ∀ y, ((hostHomes s.work (kHost a) bs).after s).mem.read y = (s.work.puts (kHost a) bs).byte y := fun y =>
    (Work.byte_after hm hs y).trans (hostHomes_byte ..)
  refine ⟨_, exec_hostWrite_host s h, fun i hi => ?_, fun y hy => ?_⟩
  · rw [hread, hkey, Work.byte_puts_of_lt _ _ _ hi]
  · rw [hread, Work.byte_puts_of_ne]
    · rfl
    · rintro i hi rfl
      exact hy (List.mem_map.2 ⟨i, List.mem_range.2 hi, hkey i⟩)

/-! ## A state that is not safe -/

/-- The state at reset, but for a memory that lists byte 0 of host memory twice: not the canonical form (log 1). -/
def hostListedTwice : State := { State.reset with mem := { cells := [(kHost 0, 1), (kHost 0, 1)] } }

/-- A zero written removes the first listing alone, so the byte still reads 1. -/
theorem read_hostListedTwice_after_zero :
    ((hostHomes hostListedTwice.work (kHost 0) [0]).after hostListedTwice).mem.read (kHost 0) = 1 := by
  decide +kernel

end Sys2Proof.Machine

/-- Refutes O51 at its clause on host memory, which takes any state: where memory is not in canonical form (`hostListedTwice`, not
a safe state), a zero written to byte 0 leaves it reading 1. In a safe state the clause holds: `hostWrite_of_safe`. -/
theorem not_hostStepsPass : ¬ Obligations.HostStepsPass := by
  rintro ⟨hostMemory, -⟩
  obtain ⟨t, hexec, hread, -⟩ := hostMemory hostListedTwice 0 [0] (by decide)
  rw [exec_hostWrite_host hostListedTwice (by decide)] at hexec
  cases hexec
  have hzero := hread 0 (by decide)
  rw [read_hostListedTwice_after_zero] at hzero
  exact absurd hzero (by decide)

end

section
/-! PROOF. The copy engines (spec/12 R316, R321, R322, R329 to R334, R344): the entry a chain stands at, what each kind of entry makes of
its chain, slots landing, and a stalled quad; O42. -/

open Sys2Proof
open Sys2Proof.Machine

namespace Sys2Proof.Machine

/-! ## The entry a chain stands at (R329) -/

section Entry
variable {s : State} {k e kind : Nat} {c : Chain} {v : Wave} {q : TaskQuad}

/-- R329, R335: the chain an engine runs stands at an entry that it may read: it has begun and waits for nothing. -/
structure ChainStands (s : State) (k e kind : Nat) (c : Chain) (v : Wave) (q : TaskQuad) : Prop where
  chain : chainOf s.dev k e = some c
  wave : s.dev.wave c.wave = some v
  begun : c.running = true ∨ chainOpen s.dev c = true
  landed : c.landed = false
  free : c.wait ≠ .leave ∧ ∀ a, c.wait ≠ .xlate a
  quad : taskQuad s.dev c.task c.pos = some q
  counted : kind ≠ 1 → kind ≠ 2 → counting s.dev (.chain c.wave c.rec_) = false

theorem ChainWait.eq_of_free {w : ChainWait} (h : w ≠ .leave ∧ ∀ a, w ≠ .xlate a) : w = .none ∨ w = .slot ∨ w = .waitcb := by
  obtain ⟨hleave, hxlate⟩ := h
  cases w with
  | none => exact .inl rfl
  | slot => exact .inr (.inl rfl)
  | waitcb => exact .inr (.inr rfl)
  | leave => exact absurd rfl hleave
  | xlate a => exact absurd rfl (hxlate a)

section Stands
variable (h : ChainStands s k e kind c v q) (f : Chain → Wave → Word → Word → Word → Except Refusal Work)
include h

theorem ChainStands.begun_eq : (!c.running && !chainOpen s.dev c) = false := by
  obtain hrun | hopen := h.begun
  · rw [hrun]
    rfl
  · rw [hopen, Bool.not_true, Bool.and_false]

theorem ChainStands.counted_eq : (kind != 1 && kind != 2 && counting s.dev (.chain c.wave c.rec_)) = false := by
  by_cases h1 : kind = 1
  · simp [h1]
  · by_cases h2 : kind = 2
    · simp [h2]
    · rw [h.counted h1 h2, Bool.and_false]

/-- R329: an entry past the share stops the chain. -/
theorem ChainStands.pastShare (hshare : q.share < c.entry + 32) :
    chainStep s.work k e kind f = .ok (stopChain s.work k e c tBounds 0) := by
  unfold chainStep
  obtain hw | hw | hw := ChainWait.eq_of_free h.free <;>
    simp only [State.work_d, h.chain, h.wave, h.quad, h.landed, hw, h.begun_eq, h.counted_eq, hshare, Bool.false_eq_true, if_false, if_true]

variable (hshare : c.entry + 32 ≤ q.share) (hsound : c.words = [] → lostIn s.dev (kShare c.task c.pos c.entry) 32 = none)
include hshare hsound

/-- R329: what an entry in the share that can be read does with its words. -/
theorem ChainStands.reads : chainStep s.work k e kind f =
    if 7 ≤ ceKind ((entryWords s c).getD 0 0) ∨ (entryWords s c).getD 3 0 ≠ 0 then .ok (stopChain s.work k e c tIllegal 0)
    else if ceKind ((entryWords s c).getD 0 0) ≠ kind then cannot "the entry is of another kind"
    else f (reading s c) v ((entryWords s c).getD 0 0) ((entryWords s c).getD 1 0) ((entryWords s c).getD 2 0) := by
  have hread : (if c.words.isEmpty then lostIn s.dev (kShare c.task c.pos c.entry) 32 else none) = none := by
    split
    next hempty => exact hsound (List.isEmpty_iff.1 hempty)
    · rfl
  unfold chainStep
  simp only [State.work_d, h.chain, h.wave, h.quad, h.begun_eq, h.counted_eq, hread, not_lt.2 hshare, Bool.false_eq_true, if_false]
  refine (if_neg (by simp [h.landed])).trans ((if_neg ?_).trans rfl)
  obtain hw | hw | hw := ChainWait.eq_of_free h.free <;> simp [hw]

/-- R329: one of an unknown kind, or whose fourth word is not zero, stops the chain. -/
theorem ChainStands.illegal (hbad : 7 ≤ ceKind ((entryWords s c).getD 0 0) ∨ (entryWords s c).getD 3 0 ≠ 0) :
    chainStep s.work k e kind f = .ok (stopChain s.work k e c tIllegal 0) :=
  (h.reads f hshare hsound).trans (if_pos hbad)

end Stands

/-- R329: an entry of its kind acts. -/
theorem ChainAt.chainStep_eq {x : Nat → Word} (h : ChainAt s k e kind c v x) (hknown : kind < 7)
    (f : Chain → Wave → Word → Word → Word → Except Refusal Work) :
    chainStep s.work k e kind f = f (reading s c) v (x 0) (x 1) (x 2) := by
  obtain ⟨q, hq, hshare⟩ := h.share
  have hstands : ChainStands s k e kind c v q := ⟨h.chain, h.wave, h.begun, h.landed, h.free, hq, h.counted⟩
  have hkind : ceKind ((entryWords s c).getD 0 0) = kind := h.words 0 ▸ h.kind
  have hlast : (entryWords s c).getD 3 0 = 0 := h.words 3 ▸ h.last
  rw [hstands.reads f hshare h.sound, h.words, h.words, h.words, hkind, hlast]
  exact (if_neg (by simpa using hknown)).trans (if_neg (not_not.2 rfl))

end Entry

/-! ## Control entries (R330, R316, R344) -/

section Control
variable {s : State} {k e : Nat} {c : Chain} {v : Wave} {x : Nat → Word}

theorem chainEnd_answers (h : ChainAt s k e 0 c v x) (h0 : bits (x 0) 0 60 = 0) (h1 : x 1 = 0) (h2 : x 2 = 0) :
    Answers s (.chainEnd k e) (endChain s.work k e (reading s c)) := by
  show execChainEnd k e s = _
  exact State.run_ok ((h.chainStep_eq (by decide) _).trans (if_neg (by simp [h0, h1, h2])))

/-- R330: a LOOP entry that is well formed goes where its loop says. -/
theorem chainLoop_answers {c' : Chain} (h : ChainAt s k e 3 c v x) (hlow : bits (x 0) 0 32 = 0) (hn : bits (x 0) 44 16 ≠ 0)
    (hback : bits (x 0) 32 12 ≠ 0)
    (hstep : loopStep (reading s c) (bits (x 0) 44 16) (bits (x 0) 32 12) (x 1).toInt (x 2).toInt = some c') :
    Answers s (.chainLoop k e) (chainBecomes s k e c (fun _ => c')) := by
  show execChainLoop k e s = _
  refine State.run_ok ((h.chainStep_eq (by decide) _).trans ?_)
  dsimp only
  rw [if_neg (by simp [hlow, hn, hback]), hstep]
  rfl

section Loop
variable {n back : Nat} {advs advd : Int} {l : LoopLevel} {ls : List LoopLevel} (henter : enterLoop c n = some (l :: ls))
include henter

/-- R330: the last round of a loop. -/
theorem loopStep_last (hcount : l.count = 1) : loopStep (reading s c) n back advs advd = some { c.goto (c.entry + 32) with
    os := c.os - (n - 1) * advs, od := c.od - (n - 1) * advd, loops := ls } := by
  rw [loopStep, show enterLoop (reading s c) n = _ from henter]
  exact if_pos (by omega)

/-- R330: another round of a loop, which no loop outside it ends in. -/
theorem loopStep_again (hcount : 2 ≤ l.count) (hhead : c.head + 32 * back ≤ c.entry)
    (hinner : ∀ m ∈ ls, m.entry < c.entry → m.entry + 32 * back < c.entry) :
    loopStep (reading s c) n back advs advd = some { c.goto (c.entry - 32 * back) with
      os := c.os + advs, od := c.od + advd, loops := { l with count := l.count - 1 } :: ls } := by
  rw [loopStep, show enterLoop (reading s c) n = _ from henter]
  refine (if_neg (by omega)).trans (if_neg ?_)
  rw [not_or]
  refine ⟨not_lt.2 hhead, ?_⟩
  rw [List.any_eq_true]
  rintro ⟨m, hm, hbad⟩
  obtain ⟨hover, hbefore⟩ := of_decide_eq_true hbad
  exact absurd (hinner m hm hbefore) (not_lt.2 hover)

end Loop

theorem chainIf_answers {b : Buf} (h : ChainAt s k e 4 c v x) (hsrc : bits (x 0) 58 2 ≤ 1) (hskip : bits (x 0) 38 12 ≠ 0)
    (hlow : bits (x 0) 32 6 = 0) (h1 : x 1 = 0) (h2 : x 2 = 0) (hidx : bits (x 0) 52 6 < 32)
    (hb : bufAt s.dev c.task c.pos (bits (x 0) 52 6) = some b) (hready : b.unready = false) :
    Answers s (.chainIf k e) (chainBecomes s k e c (fun c' => c'.goto (c'.entry +
      (if ifHolds (bits (x 0) 50 2) (if bits (x 0) 58 2 = 0 then b.filled else b.free) (bits (x 0) 0 32) then 32
        else 32 * (1 + bits (x 0) 38 12))))) := by
  show execChainIf k e s = _
  refine State.run_ok ((h.chainStep_eq (by decide) _).trans ?_)
  dsimp only
  rw [if_neg (by simp only [hskip, hlow, h1, h2, ne_eq, not_true_eq_false, false_or]; omega), if_neg (by omega)]
  rw [show bufAt s.work.d (reading s c).task (reading s c).pos (bits (x 0) 52 6) = some b from hb]
  dsimp only
  rw [hready]
  rfl

section Waitcb
variable {b : Buf} (h : ChainAt s k e 6 c v x) (hmid : bits (x 0) 57 2 = 0) (hlow : bits (x 0) 32 20 = 0) (h1 : x 1 = 0) (h2 : x 2 = 0)
  (hn : 0 < bits (x 0) 0 32) (hn' : bits (x 0) 0 32 ≤ 256) (hb : bufAt s.dev c.task c.pos (bits (x 0) 52 5) = some b)
  (hready : b.unready = false)
include h hmid hlow h1 h2 hn hn' hb hready

/-- R330: what a well-formed WAITCB entry on a buffer that is ready comes to. -/
theorem chainWaitcb_answers {w : Work}
    (hw : (if !b.bound then Except.ok (stopChain s.work k e (reading s c) tBounds 0)
      else if bits (x 0) 0 32 ≤ (if (x 0).getLsbD 59 then b.free else b.filled) then .ok (advance s.work k e (reading s c))
      else if c.wait == .waitcb then cannot "the counter has not reached n"
      else .ok (chainBecomes s k e c (fun _ => { reading s c with wait := .waitcb, running := true }))) = .ok w) :
    Answers s (.chainWaitcb k e) w := by
  show execChainWaitcb k e s = _
  refine State.run_ok ((h.chainStep_eq (by decide) _).trans ?_)
  dsimp only
  rw [if_neg (by simp only [hmid, hlow, h1, h2, ne_eq, not_true_eq_false, false_or]; omega)]
  rw [show bufAt s.work.d (reading s c).task (reading s c).pos (bits (x 0) 52 5) = some b from hb]
  dsimp only
  rw [hready]
  exact hw

theorem chainWaitcb_unbound (hbound : b.bound = false) :
    Answers s (.chainWaitcb k e) (stopChain s.work k e (reading s c) tBounds 0) :=
  chainWaitcb_answers h hmid hlow h1 h2 hn hn' hb hready (if_pos (by simp [hbound]))

theorem chainWaitcb_satisfied (hbound : b.bound = true) (hhave : bits (x 0) 0 32 ≤ (if (x 0).getLsbD 59 then b.free else b.filled)) :
    Answers s (.chainWaitcb k e) (chainBecomes s k e c (fun c => c.goto (c.entry + 32))) :=
  chainWaitcb_answers h hmid hlow h1 h2 hn hn' hb hready ((if_neg (by simp [hbound])).trans (if_pos hhave))

theorem chainWaitcb_waits (hbound : b.bound = true) (hhave : (if (x 0).getLsbD 59 then b.free else b.filled) < bits (x 0) 0 32)
    (hwait : c.wait ≠ .waitcb) : Answers s (.chainWaitcb k e)
      (chainBecomes s k e c (fun _ => { reading s c with wait := .waitcb, running := true })) :=
  chainWaitcb_answers h hmid hlow h1 h2 hn hn' hb hready
    ((if_neg (by simp [hbound])).trans ((if_neg (not_le.2 hhave)).trans (if_neg (by simpa using hwait))))

end Waitcb

section Signal
variable {b : Buf} (h : ChainAt s k e 5 c v x) (h58 : (x 0).getLsbD 58 = false) (hring : (x 0).getLsbD 59 = false)
  (hmc : (x 0).getLsbD 51 = false) (hmid : bits (x 0) 32 19 = 0) (h1 : x 1 = 0) (h2 : x 2 = 0) (hidx : bits (x 0) 52 6 < 32)
  (hn : 0 < bits (x 0) 0 32) (hn' : bits (x 0) 0 32 ≤ 256) (hb : bufAt s.dev c.task c.pos (bits (x 0) 52 6) = some b)
  (hready : b.unready = false) (hturn : b.inOrder s.dev.cc (c.place 0 e) = true)
include h h58 hring hmc hmid h1 h2 hidx hn hn' hb hready hturn

omit h hb hready hturn in
/-- R330: the checks of a SIGNAL entry on one buffer of its own quad. -/
theorem signal_wellFormed : ((x 0).getLsbD 58 || bits (x 0) 32 19 != 0 || x 2 != 0 ||
    (if (x 0).getLsbD 51 then bits (x 1) 32 32 != 0 || bits (x 1) 0 7 != 0 else x 1 != 0) ||
    (!(x 0).getLsbD 59 && (decide (32 ≤ bits (x 0) 52 6) || bits (x 0) 0 32 == 0 || decide (256 < bits (x 0) 0 32)))) = false := by
  simp only [h58, hring, hmc, hmid, h1, h2, not_le.2 hidx, not_lt.2 hn', beq_eq_false_iff_ne.2 hn.ne', bne_self_eq_false, decide_false,
    Bool.false_eq_true, if_false, Bool.or_self, Bool.and_false]

theorem chainSignal_short (hshort : b.unsent.length < bits (x 0) 0 32) :
    Answers s (.chainSignal k e) (stopChain s.work k e (reading s c) tBounds 0) := by
  have hb' : bufAt s.dev (reading s c).task (reading s c).pos (bits (x 0) 52 6) = some b := hb
  have hturn' : b.inOrder s.dev.cc ((reading s c).place 0 e) = true := hturn
  show execChainSignal k e s = _
  have hform := signal_wellFormed h58 hring hmc hmid h1 h2 hidx hn hn'
  refine State.run_ok ((h.chainStep_eq (by decide) _).trans ((if_neg (Bool.not_eq_true _ ▸ hform)).trans ?_))
  simp only [State.work_d, hring, hmc, hb', hready, hturn', hshort, List.any_cons, List.any_nil, Option.map_some, Option.getD_some,
    Option.isNone_some, Bool.false_eq_true, Bool.false_and, Bool.not_true, Bool.or_self, decide_true, Bool.true_or, if_false, if_true]

theorem chainSignal_acts {d : Dev} (hfilled : bits (x 0) 0 32 ≤ b.unsent.length)
    (hd : signalAt s.dev e (reading s c) v false (bits (x 0) 52 6) (BitVec.ofNat 64 (bits (x 0) 0 32)) c.pos = some d) :
    Answers s (.chainSignal k e) (s.work.upd (fun _ => updChain d k e c (fun c =>
      { c.goto (c.entry + 32) with step := (c.step + 1) % 65536 }))) := by
  have hb' : bufAt s.dev (reading s c).task (reading s c).pos (bits (x 0) 52 6) = some b := hb
  have hturn' : b.inOrder s.dev.cc ((reading s c).place 0 e) = true := hturn
  have hd' : signalAt s.dev e (reading s c) v false (bits (x 0) 52 6) (BitVec.ofNat 64 (bits (x 0) 0 32)) (reading s c).pos = some d := hd
  show execChainSignal k e s = _
  have hform := signal_wellFormed h58 hring hmc hmid h1 h2 hidx hn hn'
  refine State.run_ok ((h.chainStep_eq (by decide) _).trans ((if_neg (Bool.not_eq_true _ ▸ hform)).trans ?_))
  simp only [State.work_d, hring, hmc, hb', hready, hturn', hd', not_lt.2 hfilled, List.any_cons, List.any_nil,
    List.foldl_cons, List.foldl_nil, Option.bind_some, Option.map_some, Option.getD_some, Option.isNone_some,
    Bool.false_eq_true, Bool.false_and, Bool.not_true, Bool.or_self, decide_false, if_false]
  rfl

end Signal

end Control

/-! ## Entries that stop the chain (R329) -/

/-- R329: what every entry of a kind comes to is what the step of that kind answers. -/
theorem chainEntry_answers {s : State} {k e kind : Nat} {i : Instr} {w : Work}
    (hi : (kind, i) ∈ [(0, Instr.chainEnd k e), (1, .chainMove k e), (2, .chainGather k e), (3, .chainLoop k e), (4, .chainIf k e),
      (5, .chainSignal k e), (6, .chainWaitcb k e)]) (hw : ∀ f, chainStep s.work k e kind f = .ok w) : Answers s i w := by
  simp only [List.mem_cons, Prod.mk.injEq, List.not_mem_nil, or_false] at hi
  obtain ⟨rfl, rfl⟩ | ⟨rfl, rfl⟩ | ⟨rfl, rfl⟩ | ⟨rfl, rfl⟩ | ⟨rfl, rfl⟩ | ⟨rfl, rfl⟩ | ⟨rfl, rfl⟩ := hi
  · show execChainEnd k e s = _
    exact State.run_ok (hw _)
  · show execChainMove k e s = _
    exact State.run_ok (hw _)
  · show execChainGather k e s = _
    exact State.run_ok (hw _)
  · show execChainLoop k e s = _
    exact State.run_ok (hw _)
  · show execChainIf k e s = _
    exact State.run_ok (hw _)
  · show execChainSignal k e s = _
    exact State.run_ok (hw _)
  · show execChainWaitcb k e s = _
    exact State.run_ok (hw _)

/-! ## MOVE and GATHER (R331 to R333) -/

section Transfer
variable {s : State} {k e : Nat} {c : Chain} {v : Wave} {x : Nat → Word} {g : Bool}

theorem exec_transfer (s : State) (k e : Nat) (g : Bool) :
    exec (if g then .chainGather k e else .chainMove k e) s = s.run (fun w => transferStep w k e g) := by
  cases g <;> rfl

variable (h : ChainAt s k e (if g then 2 else 1) c v x)
include h

theorem transfer_faults {code : Nat} (hp : planTransfer s.work (reading s c) v g (x 0) (x 1) (x 2) = .fault code) :
    Answers s (if g then .chainGather k e else .chainMove k e) (stopChain s.work k e (reading s c) code 0) := by
  refine (exec_transfer s k e g).trans (State.run_ok ((h.chainStep_eq (by split <;> decide) _).trans ?_))
  rw [hp]

theorem transfer_goes {t : Transfer} {w : Work} (hp : planTransfer s.work (reading s c) v g (x 0) (x 1) (x 2) = .go t)
    (hw : runTransfer s.work k e (reading s c) v t = .ok w) :
    Answers s (if g then .chainGather k e else .chainMove k e) w := by
  refine (exec_transfer s k e g).trans (State.run_ok ((h.chainStep_eq (by split <;> decide) _).trans ?_))
  rw [hp]
  exact hw

section Slots
variable {ps : List Nat} {b : Nat} (hp : planTransfer s.work (reading s c) v g (x 0) (x 1) (x 2) = .slots ps b)
include hp

omit h hp in
/-- The buffers an entry delivers to satisfy what each of them does. -/
theorem all_bufs_iff (f : Buf → Bool) : (∀ q ∈ ps, ∀ y, bufAt s.dev c.task q b = some y → f y = true) ↔
    ∀ y ∈ ps.filterMap (fun p => bufAt s.dev c.task p b), f y = true := by
  simp only [List.mem_filterMap]
  exact ⟨fun h y ⟨q, hq, hy⟩ => h q hq y hy, fun h q hq y hy => h y ⟨q, hq, hy⟩⟩

/-- R332: an entry whose buffers are bound takes its slots, or waits for them. -/
theorem transfer_slots {w : Work} (hbound : ∀ q ∈ ps, ∀ y, bufAt s.dev c.task q b = some y → y.bound = true)
    (htakes : ∀ d, takeSlots s.dev k e (reading s c) ps b = some d → w = { s.work with d })
    (hwaits : takeSlots s.dev k e (reading s c) ps b = none → c.wait ≠ .slot ∧
      w = chainBecomes s k e c (fun _ => { reading s c with wait := .slot, running := true })) :
    Answers s (if g then .chainGather k e else .chainMove k e) w := by
  have hbufs := (all_bufs_iff Buf.bound).1 hbound
  refine (exec_transfer s k e g).trans (State.run_ok ((h.chainStep_eq (by split <;> decide) _).trans ?_))
  rw [hp]
  refine (if_neg ?ready).trans ((if_neg ?bound).trans ?_)
  case ready =>
    rw [List.any_eq_true]
    rintro ⟨y, hy, hunready⟩
    simp [Buf.unready, hbufs y hy] at hunready
  case bound =>
    rw [List.any_eq_true]
    rintro ⟨y, hy, hunbound⟩
    simp [hbufs y hy] at hunbound
  cases hd : takeSlots s.dev k e (reading s c) ps b with
  | some d =>
    rw [htakes d hd]
    simp only [State.work_d, hd]
  | none =>
    obtain ⟨hwait, rfl⟩ := hwaits hd
    simp only [State.work_d, hd]
    exact if_neg fun hslot => hwait (eq_of_beq hslot)

theorem transfer_unbound (hready : ∀ q ∈ ps, ∀ y, bufAt s.dev c.task q b = some y → (!y.unready) = true)
    (hunbound : ¬ ∀ q ∈ ps, ∀ y, bufAt s.dev c.task q b = some y → y.bound = true) :
    Answers s (if g then .chainGather k e else .chainMove k e) (stopChain s.work k e (reading s c) tBounds 0) := by
  have hbufs := (all_bufs_iff (fun y => !y.unready)).1 hready
  rw [all_bufs_iff Buf.bound] at hunbound
  push Not at hunbound
  obtain ⟨y, hy, hyb⟩ := hunbound
  refine (exec_transfer s k e g).trans (State.run_ok ((h.chainStep_eq (by split <;> decide) _).trans ?_))
  rw [hp]
  refine (if_neg ?ready).trans (if_pos ?bound)
  case ready =>
    rw [List.any_eq_true]
    rintro ⟨z, hz, hunready⟩
    simpa [hunready] using hbufs z hz
  case bound =>
    exact List.any_eq_true.2 ⟨y, hy, by simpa using hyb⟩

end Slots

end Transfer

/-! ## Slots landing, and a stalled quad (R317, R321, R322, R332) -/

theorem slotLanding_answers {s : State} {k e : Nat} {c : Chain} (hchain : chainOf s.dev k e = some c) (hlanded : c.landed = true)
    (hleave : c.leaveAsked = none ∨ c.leaveDone = true) (hcounted : counting s.dev (.chain c.wave c.rec_) = false)
    (hturn : ceHold (c.words.headD 0) = true ∨
      ∀ t ∈ c.taken, ∀ b, bufAt s.dev c.task t.1 (ceCbn (c.words.headD 0)) = some b → b.inOrder s.dev.cc (c.place 0 e) = true) :
    let w0 := c.words.headD 0
    let w := if ceHold w0 then s.work else s.work.upd (fun d =>
      c.taken.foldl (fun d t => updBuf d c.task t.1 (ceCbn w0) (fun b => (b.publish t.2.1).act d.cc (c.place 0 e))) d)
    Answers s (.slotLanding k e) (w.upd (fun d => updChain d k e c (fun c => c.goto (c.entry + 32)))) := by
  show execSlotLanding k e s = _
  refine State.run_ok ?_
  simp only [State.work_d, hchain]
  refine (if_neg ?leave).trans ((if_neg ?turn).trans ((if_neg (by simp [hcounted])).trans rfl))
  case leave =>
    obtain hnone | hdone := hleave
    · simp [hlanded, hnone]
    · simp [hlanded, hdone]
  case turn =>
    obtain hhold | hall := hturn
    · simp only [hhold, Bool.not_true, Bool.false_and, Bool.false_eq_true, not_false_eq_true]
    · rw [Bool.and_eq_true, List.any_eq_true]
      rintro ⟨-, t, ht, hlate⟩
      cases hb : bufAt s.dev c.task t.1 (ceCbn (c.words.headD 0)) with
      | none => simp only [hb, Option.map_none, Option.getD_none, Bool.false_eq_true] at hlate
      | some b => simp only [hb, Option.map_some, Option.getD_some, hall t ht b hb, Bool.not_true, Bool.false_eq_true] at hlate

theorem quadStallEnlarge_answers {s : State} {k pos n : Nat} {t : Task} {b : Buf} (hstall : 4096 ≤ (s.dev.quad k).stallRun)
    (hfull : smallestFull s.dev (fullAwaited s.dev k) = some (t, pos, n)) (hb : bufAt s.dev t.uid pos n = some b) :
    Answers s (.quadStallEnlarge k) (if growSlots b (s.dev.quad k).spare = 0 then deadlock s.work k
      else enlarge s.work k t pos n (growSlots b (s.dev.quad k).spare) b) := by
  show execQuadStallEnlarge k s = _
  refine State.run_ok ((if_neg (not_lt.2 hstall)).trans ?_)
  simp only [State.work_d, hfull, hb]
  rfl

theorem chainEntriesStep : Claims.ChainEntriesStep := by
  refine ⟨fun _ _ _ _ _ _ => chainEnd_answers, fun s k e c v x h => ?loop, fun _ _ _ _ _ _ _ => chainIf_answers,
    fun s k e c v x b h => ?waitcb, fun s k e c v x b d h => ?signal⟩
  case loop =>
    intro n back l ls hlow hn hback henter
    exact ⟨fun hcount => chainLoop_answers h hlow hn hback (loopStep_last henter hcount),
      fun hcount hhead hinner => chainLoop_answers h hlow hn hback (loopStep_again henter hcount hhead hinner)⟩
  case waitcb =>
    intro n hmid hlow h1 h2 hn hn' hb hready
    exact ⟨chainWaitcb_unbound h hmid hlow h1 h2 hn hn' hb hready, chainWaitcb_satisfied h hmid hlow h1 h2 hn hn' hb hready,
      chainWaitcb_waits h hmid hlow h1 h2 hn hn' hb hready⟩
  case signal =>
    intro n idx h58 hring hmc hmid h1 h2 hidx hn hn' hb hready hturn
    exact ⟨chainSignal_short h h58 hring hmc hmid h1 h2 hidx hn hn' hb hready hturn,
      chainSignal_acts h h58 hring hmc hmid h1 h2 hidx hn hn' hb hready hturn⟩

theorem chainTransfersStep : Claims.ChainTransfersStep := by
  refine ⟨fun s k e kind c v q hchain hwave hbegun hlanded hfree hq hcounted => ?stops, fun s k e c v x g h => ?moves,
    fun _ _ _ _ => slotLanding_answers, fun s k pos n t b hstall hfull hb => ?stalled⟩
  case stops =>
    have hstands : ChainStands s k e kind c v q := ⟨hchain, hwave, hbegun, hlanded, hfree, hq, hcounted⟩
    intro x i hi
    exact ⟨fun hshare => chainEntry_answers hi fun f => hstands.pastShare f hshare,
      fun hshare hsound hbad => chainEntry_answers hi fun f => hstands.illegal f hshare hsound hbad⟩
  case moves =>
    intro i c' p all
    refine ⟨fun ps b d hp hbound hd => ?_, fun ps b hp hbound hnone hwait => ?_, fun ps b => transfer_unbound h,
      fun code => transfer_faults h, fun t w => transfer_goes h⟩
    · exact transfer_slots h hp hbound (fun d' hd' => by rw [Option.some.inj (hd.symm.trans hd')])
        (fun hnone => absurd (hd.symm.trans hnone) (by simp))
    · exact transfer_slots h hp hbound (fun d hd => absurd (hnone.symm.trans hd) (by simp)) (fun _ => ⟨hwait, rfl⟩)
  case stalled =>
    have hanswers := quadStallEnlarge_answers hstall hfull hb
    exact ⟨fun he => by rwa [if_neg he] at hanswers, fun he => by rwa [if_pos he] at hanswers⟩

end Sys2Proof.Machine

/-- Settles O42: the control entries, and the transfers with what stops and lands them. -/
theorem chainsStep : Obligations.ChainsStep := ⟨chainEntriesStep, chainTransfersStep⟩

end
